-- ==== Sys2Proof/Word.lean ====
section
/-! DEFINITION. The word types of the machine: bytes, the 32-bit unit of code and of a vector
name (R64, R241), the 64-bit uniform register (R81), and a byte of memory (R7). -/

namespace Sys2Proof

/-- One byte (R7). -/
abbrev Byte := BitVec 8

/-- The 32-bit unit of code and the width of a vector name (R64, R241). -/
abbrev Word := BitVec 32

/-- The width of a uniform register and of a doubleword of memory (R81). -/
abbrev DWord := BitVec 64

end Sys2Proof
end

