-- ==== Sys2Proof/Syntax.lean ====
section
/-! DEFINITION. The instructions: the fields of base words (R242), extended words (R244, R245),
literals (R247) and pair words (R249), the data that the steps of the other agents carry, and the
one inductive type of all rows of the opcode table. -/

namespace Sys2Proof

/-- The class of a compute word: vector (CLS 00) or uniform (CLS 01) (R241). -/
inductive Cls where
  | vec
  | uni
  deriving DecidableEq, Repr

/-- Fields of a base word of CLS 00 or CLS 01 (R241, R242). -/
structure BaseOps where
  /-- stall count -/
  st : BitVec 3
  /-- destination -/
  d : BitVec 7
  /-- source -/
  a : BitVec 7
  /-- last-read mark on the source -/
  ka : Bool
  /-- modifier or 2-bit immediate -/
  x : BitVec 2
  deriving DecidableEq, Repr

/-- One 10-bit operand field (R245). -/
structure Opnd where
  /-- KIND: true for a uniform register -/
  kind : Bool
  /-- MARK: the last-read mark -/
  mark : Bool
  /-- INDEX -/
  idx : BitVec 8
  deriving DecidableEq, Repr

/-- Fields of an extended form (R244), the class, opcode and reserved field apart. -/
structure Ext where
  st : BitVec 3
  pg : BitVec 3
  pn : Bool
  pd : BitVec 3
  mod : BitVec 10
  d : Opnd
  a : Opnd
  b : Opnd
  pbs : BitVec 2
  c : Opnd
  km1 : BitVec 2
  imm : BitVec 16
  deriving DecidableEq, Repr

/-- The forms of a compute word beside the vector base form: uniform base, base with literal,
extended, extended with literal (R241, R259, R260). -/
inductive AluForm where
  | ub (o : BaseOps)
  | bl (c : Cls) (o : BaseOps) (lit : DWord)
  | e (c : Cls) (x : Ext)
  | el (c : Cls) (x : Ext) (lit : DWord)
  deriving DecidableEq, Repr

/-- An extended word of CLS 10 or CLS 11, with its literal in the EL form (R261, R262). -/
structure ExtForm where
  x : Ext
  lit : Option DWord
  deriving DecidableEq, Repr

/-- One half of a pair word (R249). -/
structure Half where
  pop : BitVec 6
  g : BitVec 3
  d : BitVec 7
  ka : Bool
  a : BitVec 7
  kb : Bool
  b : BitVec 7
  kc : Bool
  c : BitVec 7
  deriving DecidableEq, Repr

/-- A pair word (R249). -/
structure PairOps where
  st : BitVec 3
  x : Half
  y : Half
  deriving DecidableEq, Repr

/-- A write to an 8-byte configuration unit (R312): the proctor that makes it (32 for the hub
proctor, below that the cluster), the address and the value. -/
structure CfgWrite where
  who : Nat
  addr : DWord
  value : DWord
  deriving DecidableEq, Repr

/-- A control message as it arrives at the port (R425), without its TYPE, which the row fixes:
the source address, the header fields, the tag and the body. -/
structure CtlMsg where
  src : BitVec 128
  ver : BitVec 8
  seq : BitVec 32
  rsv0 : BitVec 4
  ctx : BitVec 4
  status : BitVec 8
  frag : BitVec 8
  nfm1 : BitVec 8
  rsv1 : BitVec 32
  tag : BitVec 256
  body : List Byte
  deriving DecidableEq, Repr

/-- An inbound RDMA request (R422): the queue pair it arrives on, the R_key, the address, the length of a
read and the bytes of a write. -/
structure RdmaReq where
  qpn : Nat
  rkey : BitVec 32
  va : DWord
  len : Nat
  data : List Byte
  deriving DecidableEq, Repr

/-- A surface tile: context, slot, level and tile coordinates (R154, R155). -/
structure TileKey where
  ctx : Nat
  slot : Nat
  level : Nat
  tx : Nat
  ty : Nat
  deriving DecidableEq, Repr

/-- Where an uncorrected error lies (R431). -/
inductive ErrorSite where
  /-- a 64-byte block of GDDR7, by physical block number PA[37:6] -/
  | gddr (block : Nat)
  /-- a 64-byte block of GDDR7 data held in the stacked cache, in the slice of its home column -/
  | cache (block : Nat)
  /-- a 64-byte block of a resident tile's frame -/
  | surface (tile : TileKey) (block : Nat)
  /-- a register row of a core's partition, physical or cloaked -/
  | row (unit part row : Nat)
  /-- a thread's checkpoint -/
  | checkpoint (thread : Nat)
  /-- a passback note -/
  | note (launch lin name : Nat)
  /-- a 64-byte block of a core's scratchpad -/
  | scratch (unit block : Nat)
  /-- a 64-byte block of GDDR7 data held in a core's L1 -/
  | l1 (unit block : Nat)
  /-- an instruction-store slot -/
  | istore (unit : Nat)
  /-- a flash page -/
  | flash (page : Nat)
  deriving DecidableEq, Repr

/-- The data of an event: what an agent or the machine's surroundings bring to a step that is no word.
One record serves all events; each event's docstring in `Instr` names the fields it reads. -/
structure EvArg where
  a : Nat := 0
  b : Nat := 0
  c : Nat := 0
  value : DWord := 0
  ok : Bool := false
  list : List Nat := []
  data : List Byte := []
  tile : TileKey := ⟨0, 0, 0, 0, 0⟩
  msg : CtlMsg := ⟨0, 0, 0, 0, 0, 0, 0, 0, 0, 0, []⟩
  cfg : CfgWrite := ⟨0, 0, 0⟩
  rdma : RdmaReq := ⟨0, 0, 0, 0, []⟩
  addr0 : BitVec 128 := 0
  addr1 : BitVec 128 := 0
  site : ErrorSite := .flash 0
  deriving DecidableEq, Repr


/-- One constructor per row of the opcode table: the words of the four classes (R259 to R262),
and the steps of the machine's other agents and of its surroundings (95_what_each_step_holds.md). -/
inductive Instr where
  /-- ADD_BASE (R323). Vector integer add in base form, wrapping or saturating by X, writing the carry only in extended form. -/
  | addBase (o : BaseOps)
  /-- ADD (R323). Integer add with carry predicate and optional saturation, in BL, E and EL forms. -/
  | add (f : AluForm)
  /-- SUB_BASE (R323). Vector integer subtract in base form. -/
  | subBase (o : BaseOps)
  /-- SUB (R323). Integer subtract with borrow predicate and optional saturation, in BL, E and EL forms. -/
  | sub (f : AluForm)
  /-- MUL_BASE (R323). Vector 32-bit multiply, low half, in base form. -/
  | mulBase (o : BaseOps)
  /-- MUL (R323). 32-bit multiply low half, in BL, E and EL forms. -/
  | mul (f : AluForm)
  /-- MULHI_BASE (R323). Vector high half of a signed or unsigned product, in base form. -/
  | mulhiBase (o : BaseOps)
  /-- MULHI (R323). High half of a signed or unsigned 32-bit product, in BL, E and EL forms. -/
  | mulhi (f : AluForm)
  /-- MAD (R323). 32-bit multiply-add, wrapping. -/
  | mad (f : AluForm)
  /-- MADW (R323). 32 by 32 multiply added to a 64-bit operand, wrapping to 64 bits. -/
  | madw (f : AluForm)
  /-- ABS_BASE (R323). Vector absolute value, optionally saturating, in base form. -/
  | absBase (o : BaseOps)
  /-- ABS (R323). Absolute value, optionally saturating, in extended form. -/
  | abs (f : AluForm)
  /-- MIN_BASE (R323). Vector signed or unsigned minimum in base form. -/
  | minBase (o : BaseOps)
  /-- MIN (R323). Signed or unsigned minimum, in BL, E and EL forms. -/
  | min (f : AluForm)
  /-- MAX_BASE (R323). Vector signed or unsigned maximum in base form. -/
  | maxBase (o : BaseOps)
  /-- MAX (R323). Signed or unsigned maximum, in BL, E and EL forms. -/
  | max (f : AluForm)
  /-- ADDW_BASE (R323). Vector 64-bit add in base form. -/
  | addwBase (o : BaseOps)
  /-- ADDW (R323). 64-bit add with carry predicate, in BL, E and EL forms. -/
  | addw (f : AluForm)
  /-- SUBW_BASE (R323). Vector 64-bit subtract in base form. -/
  | subwBase (o : BaseOps)
  /-- SUBW (R323). 64-bit subtract with borrow predicate, in BL, E and EL forms. -/
  | subw (f : AluForm)
  /-- CVTI (R331). Converts between integer widths and signedness, optionally saturating. -/
  | cvti (f : AluForm)
  /-- AND_BASE (R324). Vector bitwise AND in base form. -/
  | andBase (o : BaseOps)
  /-- AND (R324). Bitwise AND, in BL, E and EL forms. -/
  | and (f : AluForm)
  /-- OR_BASE (R324). Vector bitwise OR in base form. -/
  | orBase (o : BaseOps)
  /-- OR (R324). Bitwise OR, in BL, E and EL forms. -/
  | or (f : AluForm)
  /-- XOR_BASE (R324). Vector bitwise XOR in base form. -/
  | xorBase (o : BaseOps)
  /-- XOR (R324). Bitwise XOR, in BL, E and EL forms. -/
  | xor (f : AluForm)
  /-- ANDN_BASE (R324). Vector AND with complement in base form. -/
  | andnBase (o : BaseOps)
  /-- ANDN (R324). AND with complement of b, in BL, E and EL forms. -/
  | andn (f : AluForm)
  /-- SHL_BASE (R324). Vector left shift in base form. -/
  | shlBase (o : BaseOps)
  /-- SHL (R324). Left shift, counts of 32 or more giving 0, in BL, E and EL forms. -/
  | shl (f : AluForm)
  /-- SHR_BASE (R324). Vector logical right shift in base form. -/
  | shrBase (o : BaseOps)
  /-- SHR (R324). Logical right shift, in BL, E and EL forms. -/
  | shr (f : AluForm)
  /-- SAR_BASE (R324). Vector arithmetic right shift in base form. -/
  | sarBase (o : BaseOps)
  /-- SAR (R324). Arithmetic right shift, in BL, E and EL forms. -/
  | sar (f : AluForm)
  /-- ROT_BASE (R324). Vector left rotate in base form. -/
  | rotBase (o : BaseOps)
  /-- ROT (R324). Left rotate by count mod 32, in BL, E and EL forms. -/
  | rot (f : AluForm)
  /-- FSH (R325). Funnel shift of b joined above a, right or left. -/
  | fsh (f : AluForm)
  /-- BFX (R326). Extracts a bit field, zero- or sign-extended. -/
  | bfx (f : AluForm)
  /-- BFI (R326). Inserts a bit field into the old destination. -/
  | bfi (f : AluForm)
  /-- PCNT_BASE (R327). Vector population count in base form. -/
  | pcntBase (o : BaseOps)
  /-- PCNT (R327). Population count in extended form. -/
  | pcnt (f : AluForm)
  /-- CLZ_BASE (R327). Vector count of leading zeros in base form. -/
  | clzBase (o : BaseOps)
  /-- CLZ (R327). Count of leading zeros in extended form. -/
  | clz (f : AluForm)
  /-- BREV_BASE (R327). Vector bit reversal in base form. -/
  | brevBase (o : BaseOps)
  /-- BREV (R327). Bit reversal in extended form. -/
  | brev (f : AluForm)
  /-- CMP (R328). Integer compare writing a predicate. -/
  | cmp (f : AluForm)
  /-- SEL (R329). Selects a or b by a predicate. -/
  | sel (f : AluForm)
  /-- MOV_BASE (R329). Vector 32-bit move in base form. -/
  | movBase (o : BaseOps)
  /-- MOV (R329). Move of 32 or 64 bits in extended form. -/
  | mov (f : AluForm)
  /-- MOVL (R329). Moves a literal into a name, pair or uniform register. -/
  | movl (f : AluForm)
  /-- PLOP (R330). Computes a predicate from three predicates through a lookup table. -/
  | plop (f : AluForm)
  /-- FADD_BASE (R332). Vector F32 add in base form, rounded RNE. -/
  | faddBase (o : BaseOps)
  /-- FADD (R332). F32 add rounded once in mode RM, in BL, E and EL forms. -/
  | fadd (f : AluForm)
  /-- FSUB_BASE (R332). Vector F32 subtract in base form. -/
  | fsubBase (o : BaseOps)
  /-- FSUB (R332). F32 subtract, in BL, E and EL forms. -/
  | fsub (f : AluForm)
  /-- FMUL_BASE (R332). Vector F32 multiply in base form. -/
  | fmulBase (o : BaseOps)
  /-- FMUL (R332). F32 multiply, in BL, E and EL forms. -/
  | fmul (f : AluForm)
  /-- FFMA (R332). F32 fused multiply-add with one rounding. -/
  | ffma (f : AluForm)
  /-- FMIN_BASE (R333). Vector F32 minimum in base form. -/
  | fminBase (o : BaseOps)
  /-- FMIN (R115). F32 minimum with -0 below +0 and NaN ignored, in BL, E and EL forms. -/
  | fmin (f : AluForm)
  /-- FMAX_BASE (R333). Vector F32 maximum in base form. -/
  | fmaxBase (o : BaseOps)
  /-- FMAX (R115). F32 maximum, in BL, E and EL forms. -/
  | fmax (f : AluForm)
  /-- FCMP (R333). F32 compare writing a predicate. -/
  | fcmp (f : AluForm)
  /-- FRND (R334). Rounds an F32 value to an integral value in mode RM. -/
  | frnd (f : AluForm)
  /-- FCLASS (R334). Writes the one-hot class of an F32 value and tests it against a mask. -/
  | fclass (f : AluForm)
  /-- FDIV_BASE (R335). Vector correctly rounded F32 division in base form. -/
  | fdivBase (o : BaseOps)
  /-- FDIV (R114). Correctly rounded F32 division, scoreboarded, in BL, E and EL forms. -/
  | fdiv (f : AluForm)
  /-- FRCP_BASE (R335). Vector reciprocal in base form. -/
  | frcpBase (o : BaseOps)
  /-- FRCP (R114). Correctly rounded reciprocal in extended form. -/
  | frcp (f : AluForm)
  /-- FRSQ_BASE (R335). Vector reciprocal square root in base form. -/
  | frsqBase (o : BaseOps)
  /-- FRSQ (R114). Correctly rounded reciprocal square root in extended form. -/
  | frsq (f : AluForm)
  /-- FSQRT_BASE (R335). Vector square root in base form. -/
  | fsqrtBase (o : BaseOps)
  /-- FSQRT (R114). Correctly rounded square root in extended form. -/
  | fsqrt (f : AluForm)
  /-- FEX2_BASE (R335). Vector base-2 exponential in base form. -/
  | fex2Base (o : BaseOps)
  /-- FEX2 (R114). Correctly rounded 2 to the power a in extended form. -/
  | fex2 (f : AluForm)
  /-- FLG2_BASE (R335). Vector base-2 logarithm in base form. -/
  | flg2Base (o : BaseOps)
  /-- FLG2 (R114). Correctly rounded base-2 logarithm in extended form. -/
  | flg2 (f : AluForm)
  /-- FSINPI_BASE (R335). Vector sin(pi a) in base form. -/
  | fsinpiBase (o : BaseOps)
  /-- FSINPI (R114). Correctly rounded sin(pi a) in extended form. -/
  | fsinpi (f : AluForm)
  /-- FCOSPI_BASE (R335). Vector cos(pi a) in base form. -/
  | fcospiBase (o : BaseOps)
  /-- FCOSPI (R114). Correctly rounded cos(pi a) in extended form. -/
  | fcospi (f : AluForm)
  /-- HADD2_BASE (R336). Packed F16 add in base form. -/
  | hadd2Base (o : BaseOps)
  /-- HADD2 (R336). Packed F16 add, in BL, E and EL forms. -/
  | hadd2 (f : AluForm)
  /-- HMUL2_BASE (R336). Packed F16 multiply in base form. -/
  | hmul2Base (o : BaseOps)
  /-- HMUL2 (R336). Packed F16 multiply, in BL, E and EL forms. -/
  | hmul2 (f : AluForm)
  /-- HFMA2 (R336). Packed F16 fused multiply-add. -/
  | hfma2 (f : AluForm)
  /-- HMIN2_BASE (R336). Packed F16 minimum in base form. -/
  | hmin2Base (o : BaseOps)
  /-- HMIN2 (R336). Packed F16 minimum, in BL, E and EL forms. -/
  | hmin2 (f : AluForm)
  /-- HMAX2_BASE (R336). Packed F16 maximum in base form. -/
  | hmax2Base (o : BaseOps)
  /-- HMAX2 (R336). Packed F16 maximum, in BL, E and EL forms. -/
  | hmax2 (f : AluForm)
  /-- BFMA2 (R336). Packed BF16 fused multiply-add. -/
  | bfma2 (f : AluForm)
  /-- CVT (R338). Converts one value between float and 32-bit integer formats. -/
  | cvt (f : AluForm)
  /-- PACK (R339). Converts two values and places them as adjacent packed elements. -/
  | pack (f : AluForm)
  /-- UNPACK (R340). Extracts and widens one packed element. -/
  | unpack (f : AluForm)
  /-- DP4O (R337). Exact dot product of two O8x4 operands plus an I32. -/
  | dp4o (f : AluForm)
  /-- DP8O (R337). Exact dot product of two O4x8 operands plus an I32. -/
  | dp8o (f : AluForm)
  /-- DP2H (R337). Two-element F16 dot product plus F32, rounded once. -/
  | dp2h (f : AluForm)
  /-- XSEAT (R341). Reads a name of the thread at a given seat through the seating chart. -/
  | xseat (f : AluForm)
  /-- XSHF (R341). Reads a name of the thread at a seat shuffled from the reader's. -/
  | xshf (f : AluForm)
  /-- VOTE (R342). Combines a predicate across the executing threads. -/
  | vote (f : AluForm)
  /-- REDO (R343). Ordered reduction over the fixed home-lane tree. -/
  | redo (f : AluForm)
  /-- SCANO (R343). Ordered inclusive prefix over the fixed home-lane tree. -/
  | scano (f : AluForm)
  /-- V2S (R344). Copies the acting thread's value into a uniform register. -/
  | v2s (f : AluForm)
  /-- PAIR_WORD (R249). Issues two half operations on pipes V0 and V1 from one word. -/
  | pairWord (p : PairOps)
  /-- NOP_BASE (R298). No operation, base form. -/
  | nopBase (st : BitVec 3)
  /-- NOP (R298). No operation, extended form. -/
  | nop (f : ExtForm)
  /-- BRA_BASE (R282). Sends every active thread to a 17-bit offset target. -/
  | braBase (st : BitVec 3) (off : BitVec 17)
  /-- BRA (R282). Unconditional branch with a 16-bit offset. -/
  | bra (f : ExtForm)
  /-- BRC (R283). Conditional branch that may divide the cohort. -/
  | brc (f : ExtForm)
  /-- BRI (R284). Indexed branch through a target table. -/
  | bri (f : ExtForm)
  /-- LOOP (R285). Decrements a uniform counter and branches while nonzero. -/
  | loop (f : ExtForm)
  /-- CALL_BASE (R286). Pushes a return pin and branches, base form. -/
  | callBase (st : BitVec 3) (off : BitVec 17)
  /-- CALL (R286). Call within the overlay, extended form. -/
  | call (f : ExtForm)
  /-- CALLO (R287). Calls an entry of another overlay, loading it if needed. -/
  | callo (f : ExtForm)
  /-- RET_BASE (R288). Pops the return-pin stack, base form. -/
  | retBase (st : BitVec 3)
  /-- RET (R288). Return, extended form. -/
  | ret (f : ExtForm)
  /-- EXIT_BASE (R290). Ends every active thread, base form. -/
  | exitBase (st : BitVec 3)
  /-- EXIT (R290). Ends the executing threads after their exit release and passback publication. -/
  | exit (f : ExtForm)
  /-- REFORM_BASE (R291). Files every active thread into a homeroom bin, base form. -/
  | reformBase (st : BitVec 3)
  /-- REFORM (R291). Reform in extended form. -/
  | reform (f : ExtForm)
  /-- REGION (R293). Sets the region head and writes each thread's checkpoint. -/
  | region (f : ExtForm)
  /-- PASS (R294). Publishes a passback name as a note. -/
  | pass (f : ExtForm)
  /-- WAIT (R295). Holds the cohort for a number of cycles. -/
  | wait (f : ExtForm)
  /-- WAIT_UNTIL (R295). Holds the cohort until CLK reaches a value. -/
  | waitUntil (f : ExtForm)
  /-- WAIT_DRAIN (R295). Holds the cohort until its writes and accesses are performed. -/
  | waitDrain (f : ExtForm)
  /-- YIELD_BASE (R296). Gives up current status with a cap mark, base form. -/
  | yieldBase (st : BitVec 3)
  /-- YIELD (R296). Yield in extended form. -/
  | yield (f : ExtForm)
  /-- TRAP (R297). Stops the cohort with SW_TRAP and a code. -/
  | trap (f : ExtForm)
  /-- BKPT_BASE (R297). Stops the cohort with BREAKPOINT, base form. -/
  | bkptBase (st : BitVec 3) (code : BitVec 16)
  /-- BKPT (R297). Guarded breakpoint in extended form. -/
  | bkpt (f : ExtForm)
  /-- OVLD (R300). Starts or joins an overlay load under a tag. -/
  | ovld (f : ExtForm)
  /-- OVPIN (R301). Adds an explicit team pin on an overlay. -/
  | ovpin (f : ExtForm)
  /-- OVUNPIN (R301). Removes an explicit team pin. -/
  | ovunpin (f : ExtForm)
  /-- OVEVICT (R99). Removes an unpinned overlay from the tenant's view. -/
  | ovevict (f : ExtForm)
  /-- OVQRY (R302). Reports an overlay's pins, slots, last load and state. -/
  | ovqry (f : ExtForm)
  /-- FREE (R303). Releases the listed names. -/
  | free (f : ExtForm)
  /-- RSRV (R72). Maps unmapped listed names to new rows holding 0. -/
  | rsrv (f : ExtForm)
  /-- RDSPC (R304). Reads a special register. -/
  | rdspc (f : ExtForm)
  /-- WRSPC (R305). Writes OVST.LAST. -/
  | wrspc (f : ExtForm)
  /-- DWRD (R307). Proctor read of a core's debug window. -/
  | dwrd (f : ExtForm)
  /-- DWWR (R307). Proctor write of a core's debug window. -/
  | dwwr (f : ExtForm)
  /-- CRESUME (R308). Resumes a stopped cohort at its recorded resume point. -/
  | cresume (f : ExtForm)
  /-- CRESUME_SKIP (R308). Resumes a stopped cohort after the trapping word. -/
  | cresumeSkip (f : ExtForm)
  /-- CRESUME_PC (R308). Resumes a stopped cohort at a given PC. -/
  | cresumePc (f : ExtForm)
  /-- CRESUME_PLAN (R308). Makes a plan's held pre-empted teams placeable. -/
  | cresumePlan (f : ExtForm)
  /-- CKILL (R309). Ends every thread of a stopped cohort. -/
  | ckill (f : ExtForm)
  /-- CKILL_TEAM (R309). Ends every thread of the stopped cohort's team. -/
  | ckillTeam (f : ExtForm)
  /-- CKILL_PLAN (R309). Ends every launch of the cohort's plan and discards its unplaced work. -/
  | ckillPlan (f : ExtForm)
  /-- CPREEMPT_PLAN (R310). Pre-empts every placed team of a plan. -/
  | cpreemptPlan (f : ExtForm)
  /-- CPREEMPT_CORE (R310). Pre-empts every team with a thread on a core. -/
  | cpreemptCore (f : ExtForm)
  /-- CPREEMPT_QUEUE (R310). Pre-empts every placed team of every plan of a launch queue. -/
  | cpreemptQueue (f : ExtForm)
  /-- TLBFL_PAGE (R311). Invalidates translations of one address in a context. -/
  | tlbflPage (f : ExtForm)
  /-- TLBFL_CTX (R311). Invalidates every translation of a context. -/
  | tlbflCtx (f : ExtForm)
  /-- TLBFL_ALL (R311). Invalidates every translation. -/
  | tlbflAll (f : ExtForm)
  /-- CFGRD (R312). Proctor read of an 8-byte configuration unit. -/
  | cfgrd (f : ExtForm)
  /-- CFGWR (R312). Proctor write of an 8-byte configuration unit. -/
  | cfgwr (f : ExtForm)
  /-- EVTRD (R315). Removes the oldest record of the proctor's event queue. -/
  | evtrd (f : ExtForm)
  /-- EVTRD_FAULT (R315). Removes the oldest trap record of the proctor's fault queue. -/
  | evtrdFault (f : ExtForm)
  /-- LD (R353). Loads from global, scratchpad, another core's team window or a parameter window. -/
  | ld (f : ExtForm)
  /-- ST (R353). Stores to global, scratchpad or another core's team window. -/
  | st (f : ExtForm)
  /-- LDU (R354). Loads once for the cohort into a uniform register. -/
  | ldu (f : ExtForm)
  /-- LDA (R355). Acquire load at a scope. -/
  | lda (f : ExtForm)
  /-- STR (R355). Release store at a scope. -/
  | str (f : ExtForm)
  /-- ATOM (R357). Atomic read-modify-write without result. -/
  | atom (f : ExtForm)
  /-- ATOMR (R357). Atomic read-modify-write returning the old value. -/
  | atomr (f : ExtForm)
  /-- CAS (R358). Compare-and-swap with success predicate. -/
  | cas (f : ExtForm)
  /-- FENCE (R359). Release and acquire at a scope. -/
  | fence (f : ExtForm)
  /-- BAR (R360). Arrives at the team barrier and waits. -/
  | bar (f : ExtForm)
  /-- BAR_ARRIVE (R360). Arrives at the team barrier without waiting. -/
  | barArrive (f : ExtForm)
  /-- BAR_WAIT (R360). Waits for the team barrier's generation to advance. -/
  | barWait (f : ExtForm)
  /-- BELL (R361). Arrives at a bell line and waits. -/
  | bell (f : ExtForm)
  /-- BELL_ARRIVE (R361). Arrives at a bell line. -/
  | bellArrive (f : ExtForm)
  /-- BELL_WAIT (R361). Waits for a bell line's generation to pass the record. -/
  | bellWait (f : ExtForm)
  /-- BELL_TEST (R361). Tests whether a bell line's generation has passed the record. -/
  | bellTest (f : ExtForm)
  /-- REGACQ (R190). Acquires a hall pass, waiting in its queue. -/
  | regacq (f : ExtForm)
  /-- REGTRY (R190). Tries to acquire a hall pass without waiting. -/
  | regtry (f : ExtForm)
  /-- REGREL (R190). Releases one hold of a hall pass. -/
  | regrel (f : ExtForm)
  /-- PREF (R363). Prefetches a block into the stacked cache or L1. -/
  | pref (f : ExtForm)
  /-- TIERQ (R364). Reports the tier and permissions of a page. -/
  | tierq (f : ExtForm)
  /-- COPY_BOX (R369). Copies a tensor box with halo into scratchpad. -/
  | copyBox (f : ExtForm)
  /-- COPY_BOXST (R369). Copies a box image from scratchpad into a tensor. -/
  | copyBoxst (f : ExtForm)
  /-- COPY_LIN (R369). Copies a linear range between global and scratchpad. -/
  | copyLin (f : ExtForm)
  /-- COPYM (R371). Copy into scratchpad with a staged matrix follow-on. -/
  | copym (f : ExtForm)
  /-- TWAIT (R366). Waits until every masked tag is done. -/
  | twait (f : ExtForm)
  /-- TWANY (R366). Waits until some masked tag is done. -/
  | twany (f : ExtForm)
  /-- TFIND (R366). Finds the lowest done masked tag without waiting. -/
  | tfind (f : ExtForm)
  /-- TSTAT (R366). Reads the done or error bitmap of the tags. -/
  | tstat (f : ExtForm)
  /-- TCLR (R366). Clears done and error of idle masked tags. -/
  | tclr (f : ExtForm)
  /-- QPUSH (R373). Pushes records to a later stage's queue or fused ring. -/
  | qpush (f : ExtForm)
  /-- QAWAIT (R374). Takes claimed records into scratchpad when filled. -/
  | qawait (f : ExtForm)
  /-- QREL (R375). Releases taken records and advances RD. -/
  | qrel (f : ExtForm)
  /-- QSTAT (R375). Reads a queue's held and unclaimed counts. -/
  | qstat (f : ExtForm)
  /-- STAGE_UP0 (R167). Allocates a GDDR7 range in the stacked cache. -/
  | stageUp0 (f : ExtForm)
  /-- STAGE_UP1 (R167). Copies a flash range to GDDR7. -/
  | stageUp1 (f : ExtForm)
  /-- STAGE_DOWN1 (R167). Writes back and invalidates a range in the stacked cache. -/
  | stageDown1 (f : ExtForm)
  /-- STAGE_DOWN2 (R167). Copies a GDDR7 range to flash. -/
  | stageDown2 (f : ExtForm)
  /-- MWLD (R381). Latches a weight tile, scales and zero points into a half. -/
  | mwld (f : ExtForm)
  /-- MSTAGE (R385). Writes a matrix command into a staged-command slot. -/
  | mstage (f : ExtForm)
  /-- MMA16 (R382). Accumulates a 16-row activation stream against a latched half. -/
  | mma16 (f : ExtForm)
  /-- MMA32 (R382). Accumulates a 32-row activation stream. -/
  | mma32 (f : ExtForm)
  /-- MMA64 (R382). Accumulates a 64-row activation stream. -/
  | mma64 (f : ExtForm)
  /-- MMA128 (R382). Accumulates a 128-row activation stream. -/
  | mma128 (f : ExtForm)
  /-- MACC (R383). Adds one accumulator tile into another. -/
  | macc (f : ExtForm)
  /-- MZERO (R383). Sets an accumulator tile to +0. -/
  | mzero (f : ExtForm)
  /-- MDRAIN (R384). Converts and scales a tile into scratchpad. -/
  | mdrain (f : ExtForm)
  /-- MSTAT (R386). Reads or waits for the matrix array's state. -/
  | mstat (f : ExtForm)
  /-- SLD (R389). Loads one surface pixel. -/
  | sld (f : ExtForm)
  /-- SST (R390). Stores one surface pixel. -/
  | sst (f : ExtForm)
  /-- STINFO (R392). Reads a slot's bound entry, optionally clearing DAMAGE. -/
  | stinfo (f : ExtForm)
  /-- VBMIN (R391). Keeps the unsigned minimum of depth and primitive id in a VB64 pixel. -/
  | vbmin (f : ExtForm)
  /-- BANKOP_FILL (R232). Fills tiles with a constant in the bank units. -/
  | bankopFill (f : ExtForm)
  /-- BANKOP_SCALE (R232). Scales tiles by alpha in the bank units. -/
  | bankopScale (f : ExtForm)
  /-- BANKOP_AXPBY (R232). Computes alpha x plus beta y against the paired slot. -/
  | bankopAxpby (f : ExtForm)
  /-- BANKOP_CONVERT (R232). Converts the paired slot's tiles into this slot's format. -/
  | bankopConvert (f : ExtForm)
  /-- BANKOP_SUMROW (R232). Sums one tile's rows into 16 bank accumulators. -/
  | bankopSumrow (f : ExtForm)
  /-- BANKOP_DEPTHCLEAR (R232). Clears F32D or VB64 tiles. -/
  | bankopDepthclear (f : ExtForm)
  /-- BANKST (R394). Reads or waits for a BANKOP record's state or accumulators. -/
  | bankst (f : ExtForm)
  /-- SAMP (R395). Filtered surface sample with level of detail from the quad. -/
  | samp (f : ExtForm)
  /-- SAMPL (R395). Filtered surface sample at a given level of detail. -/
  | sampl (f : ExtForm)
  /-- EMITV (R397). Writes words of the thread's vertex into the meshlet buffer. -/
  | emitv (f : ExtForm)
  /-- EMITP (R398). Appends a triangle to the meshlet. -/
  | emitp (f : ExtForm)
  /-- MESHEND (R399). Arrives at the meshlet close with a sequence pair. -/
  | meshend (f : ExtForm)
  /-- EXPORT (R402). Records colour or depth values of a pixel thread. -/
  | exportPix (f : ExtForm)
  /-- QUADRD (R400). Reads quad coordinates, coverage, primitive or depth. -/
  | quadrd (f : ExtForm)
  /-- ATTR (R401). Interpolates an attribute at the thread's sample point. -/
  | attr (f : ExtForm)
  /-- DISCARD (R403). Marks the thread discarded. -/
  | discard (f : ExtForm)
  /-- WAIT_EXPIRY (R295). A WAIT's cycle count or CLK target is reached and the cohort is ready again. Its data: cohort in a. -/
  | waitExpiry
  /-- DW_SEL_WRITE (R413). Write of DW.SEL selecting a stopped cohort for the debug window. Its data: core in a, value in value. -/
  | dwSelWrite
  /-- DW_RPC_WRITE (R413). Write of DW.RPC setting the resume PC as cresume.pc does. Its data: core in a, value in value. -/
  | dwRpcWrite
  /-- CONFIG_WRITE (R312). Write to a configuration unit with no behaviour of its own. Its data: w in cfg. -/
  | configWrite
  /-- HALL_PASS_ENTRY_WRITE (R189). Write of a hall-pass entry, refused on overlap, held entry or bad fields. Its data: w in cfg. -/
  | hallPassEntryWrite
  /-- BL_TARGET_WRITE (R313). Sets a bell line's target and resets its count. Its data: w in cfg. -/
  | blTargetWrite
  /-- BL_GEN_WRITE (R313). Sets a bell line's generation and completes waiters below it. Its data: w in cfg. -/
  | blGenWrite
  /-- COMPLETION_COUNTER_WRITE (R312). Sets a completion counter, refused below its current value. Its data: w in cfg. -/
  | completionCounterWrite
  /-- CC_QUOTA_WRITE (R101). Sets a tenant's slot quota on a core, refused over 64 total or below charge. Its data: w in cfg. -/
  | ccQuotaWrite
  /-- DEFERRED_FIELD_WRITE (R314). Write to PRIVATE, CX.STEPS or CX.WAYS held pending until a context boundary. Its data: w in cfg. -/
  | deferredFieldWrite
  /-- ERROR_COUNTER_CLEAR (R427). Write of 0 clears CC.CECNT, CC.UECNT, CC.EVWIN or CC.EVRAS. Its data: w in cfg. -/
  | errorCounterClear
  /-- CC_FENCE_WRITE (R427). Writing 1 to CC.FENCE fences the column. Its data: w in cfg. -/
  | ccFenceWrite
  /-- BELL_RELEASE (R198). The bell-line tree releases a generation's waiters 96 cycles after the last arrival's release. Its data: line in a. -/
  | bellRelease
  /-- COPY_COMPLETE (R370). A copy's writes are performed and acknowledged, and its tag completes. Its data: copy in a. -/
  | copyComplete
  /-- STAGED_COMMAND_ENTRY (R211). A COPYM's staged command enters the matrix queue once room frees, then its tag is set. Its data: copy in a. -/
  | stagedCommandEntry
  /-- STAGE_COMPLETE (R169). A stage request finishes, zero-filling failed blocks and completing its tag. Its data: req in a, failed in list. -/
  | stageComplete
  /-- MATRIX_COMMAND_START (R209). The next queued matrix command starts once its dependences allow. Its data: unit in a. -/
  | matrixCommandStart
  /-- MATRIX_COMMAND_COMPLETE (R208). A matrix command completes and its tag is updated. Its data: unit in a, cmd in b. -/
  | matrixCommandComplete
  /-- BANKOP_JOB_START (R231). A bank unit takes its next job and makes the tile resident. Its data: job in a. -/
  | bankopJobStart
  /-- ROW_STEP (R233). A bank-unit row step is performed at its last grant. Its data: job in a. -/
  | rowStep
  /-- RASTERISE_MESHLET (R218). The rasteriser takes the smallest closed meshlet, broadcasts its rectangle and emits quads. Its data: unit in a. -/
  | rasteriseMeshlet
  /-- QUAD_ADMISSION (R221). The crossbar admits a waiting quad to its ordering tile within the limits. Its data: quad in a. -/
  | quadAdmission
  /-- QUAD_BLEND (R225). The bank unit depth-tests and blends the next quad of the cursor's pair. Its data: tile in tile. -/
  | quadBlend
  /-- PIXEL_LAUNCH (R222). A pixel-stage launch is formed when BATCH quads wait on a core. Its data: unit in a. -/
  | pixelLaunch
  /-- PIXEL_LAUNCH_AGE (R222). A pixel-stage launch is formed when the oldest waiting quad reaches AGE. Its data: unit in a. -/
  | pixelLaunchAge
  /-- LAUNCH (R31). Control message queuing a lesson plan in its launch queue. Its data: m in msg. -/
  | launch
  /-- PLACEMENT_DECISION (R32). The dispatcher selects an eligible candidate and places one team whole. -/
  | placementDecision
  /-- DISPATCHER_PRELOAD (R35). The dispatcher loads and pins the entry overlay on a candidate core. Its data: unit in a, plan in b, stage in c. -/
  | dispatcherPreload
  /-- CARVEOUT_CONVERSION (R145). A draining core that holds no team writes back its L1 and discards its scratchpad. Its data: unit in a. -/
  | carveoutConversion
  /-- CONVERSION_COMPLETE (R145). The new carve-out setting is applied and the core qualifies again. Its data: unit in a. -/
  | conversionComplete
  /-- CONSUMER_LAUNCH (R60). The dispatcher claims BATCH records of a queue and places a consumer launch. Its data: plan in a, stage in b. -/
  | consumerLaunch
  /-- TAIL_LAUNCH (R60). The remaining records of a queue are claimed once every lower stage is complete. Its data: plan in a, stage in b. -/
  | tailLaunch
  /-- STAGE_REASSIGNMENT (R62). Every 4,096 cycles a staged plan's cores are shared among its active stages. -/
  | stageReassignment
  /-- PLAN_COMPLETE (R37). A plan is complete and its completion counter is advanced. Its data: plan in a. -/
  | planComplete
  /-- ISSUE_CAP (R38). A cohort that reaches 256 issue cycles receives a cap mark. Its data: cohort in a. -/
  | issueCap
  /-- COHORT_FORMATION (R44). A free context forms a cohort from the first qualifying bin. Its data: unit in a, part in b. -/
  | cohortFormation
  /-- BIN_AGING (R44). A bin's oldest thread reaches AGE and the bin becomes a source 1. Its data: unit in a, bin in b. -/
  | binAging
  /-- WAIT_AGE_FILING (R41). A barrier or tag wait exceeds AGE and the cohort's threads file. Its data: cohort in a. -/
  | waitAgeFiling
  /-- PASSBACK_PUBLISHED (R52). A predecessor's value is published and waiting readers proceed. Its data: cohort in a. -/
  | passbackPublished
  /-- CLOAK (R77). A partition whose cohorts are all blocked with a grow stall cloaks one. Its data: unit in a, part in b. -/
  | cloak
  /-- LONG_WAIT_CLOAK (R78). A cohort waiting more than 2 AGE cycles is cloaked. Its data: cohort in a. -/
  | longWaitCloak
  /-- CLOAK_DONE (R76). Cloaking completes, freeing the rows and the context. Its data: cohort in a. -/
  | cloakDone
  /-- RECALL (R79). A cloaked cohort whose rows and context are available is recalled. Its data: unit in a, part in b. -/
  | recall
  /-- RECALL_DONE (R79). Recall completes and the cohort may issue. Its data: cohort in a. -/
  | recallDone
  /-- BIN_UNCLOAK (R80). Threads cloaked from a held bin return to it when released and rows exist. Its data: unit in a, bin in b. -/
  | binUncloak
  /-- OVERLAY_LOAD_COMPLETE (R93). An overlay load finishes resident or with a failure status. Its data: unit in a, load in b. -/
  | overlayLoadComplete
  /-- EVICTION_REQUEST (R158). The eviction engine evicts the least recently used idle tile for a fill. Its data: tile in tile. -/
  | evictionRequest
  /-- SPILL_COMPLETE (R157). A tile's spill is written, its frame freed. Its data: tile in tile, ok in ok. -/
  | spillComplete
  /-- FILL_COMPLETE (R157). A tile's fill completes and waiting accesses are served. Its data: tile in tile. -/
  | fillComplete
  /-- PROMOTION (R234). A bank-unit request refused six cycles running is promoted. Its data: job in a. -/
  | promotion
  /-- RETENTION_ENTRY (R171). A layer domain idle for its threshold enters retention. Its data: column in a, layer in b. -/
  | retentionEntry
  /-- WAKE_COMPLETE (R171). A retained domain finishes waking and its waiting accesses proceed. Its data: column in a, layer in b. -/
  | wakeComplete
  /-- SAFE_POINT_STOP (R415). A leaving cohort reaches a safe point and stops. Its data: cohort in a. -/
  | safePointStop
  /-- SAFELIM_EXPIRY (R415). CC.SAFELIM passes and the cohort is stopped and saved whole. Its data: cohort in a. -/
  | safelimExpiry
  /-- DRAIN_EXPIRY (R415). CC.DRAIN passes and in-flight copies and stages are squashed. Its data: team in a. -/
  | drainExpiry
  /-- TEAM_RESUME (R416). A pre-empted team is placed again and its state restored. Its data: team in a. -/
  | teamResume
  /-- FAULT_RECORD_ENQUEUE (R411). A held trap record enters the fault queue once a place frees. Its data: unit in a. -/
  | faultRecordEnqueue
  /-- CONTEXT_BOUNDARY (R314). Pending deferred settings take effect with a cache flush and unbinding. -/
  | contextBoundary
  /-- COUNTER (R427). Control message reading or adding to a completion counter. Its data: m in msg. -/
  | counter
  /-- STATUS (R425). Control message reporting state, self-test, fences and firmware SVN. Its data: m in msg. -/
  | status
  /-- EVENTS (R425). Control message taking records from the host event queue. Its data: m in msg. -/
  | events
  /-- ATTEST (R430). Control message returning a signed measurement chain. Its data: m in msg. -/
  | attest
  /-- MGMT_CFGRD (R425). Management read of a configuration unit. Its data: m in msg. -/
  | mgmtCfgrd
  /-- MGMT_CFGWR (R425). Management write of a configuration unit. Its data: m in msg. -/
  | mgmtCfgwr
  /-- QPSET (R425). Management write of one queue pair. Its data: m in msg. -/
  | qpset
  /-- MRSET (R425). Management write of one inbound region. Its data: m in msg. -/
  | mrset
  /-- KEYSET (R425). Management setting of a context's control key. Its data: m in msg. -/
  | keyset
  /-- ADDRSET (R425). Management setting of a global IPv6 address. Its data: m in msg. -/
  | addrset
  /-- MGMT_RESET (R425). Management reset of the module after the reply. Its data: m in msg. -/
  | mgmtReset
  /-- NEIGHBOUR_DISCOVERY (R421). The hub answers IPv6 Neighbour Discovery for its addresses. Its data: target in addr0, from in addr1. -/
  | neighbourDiscovery
  /-- INBOUND_RDMA_READ (R422). A peer's RDMA READ of an inbound region. Its data: r in rdma. -/
  | inboundRdmaRead
  /-- INBOUND_RDMA_WRITE (R422). A peer's RDMA WRITE into an inbound region. Its data: r in rdma. -/
  | inboundRdmaWrite
  /-- RDMA_WRITE_WITH_IMMEDIATE (R422). A peer's RDMA WRITE with immediate. Its data: r in rdma, imm in value. -/
  | rdmaWriteWithImmediate
  /-- INBOUND_SEND (R422). A SEND placed as one record in the QP's inbound queue. Its data: qpn in a, data in data. -/
  | inboundSend
  /-- SEND_WITH_IMMEDIATE (R422). A SEND with immediate placed with the immediate ahead of the payload. Its data: qpn in a, imm in value, data in data. -/
  | sendWithImmediate
  /-- UNSUPPORTED_REQUEST (R422). A received atomic, memory-window or invalidate request answered with a NAK. Its data: qpn in a. -/
  | unsupportedRequest
  /-- REMOTE_RESPONSE (R201). A peer acknowledges a remote write or returns a remote read of a copy. Its data: copy in a, data in data. -/
  | remoteResponse
  /-- PEER_NAK (R426). A peer NAKs a remote access; the copy ends and the QP enters ERROR. Its data: qpn in a, syndrome in b. -/
  | peerNak
  /-- RETRY_EXHAUSTED (R422). Seven transport retries run out and the QP enters ERROR. Its data: qpn in a. -/
  | retryExhausted
  /-- PFC_PAUSE (R424). A received PFC pause frame halts sending on its priority. Its data: prio in a, quanta in b. -/
  | pfcPause
  /-- CNP_RECEIVED (R424). A congestion notification halves the QP's send rate. Its data: qpn in a. -/
  | cnpReceived
  /-- RATE_INCREASE (R424). After 50 us without notification the QP's rate rises by 1/64. Its data: qpn in a. -/
  | rateIncrease
  /-- LINK (R432). The Ethernet link goes up or down. Its data: up in ok. -/
  | link
  /-- BOOT (R428). After power-up or reset the boot ROM verifies firmware and runs self-test. Its data: r in value. -/
  | boot
  /-- CORRECTED_ERROR (R431). A corrected error adds 1 to CC.CECNT. Its data: column in a. -/
  | correctedError
  /-- UNCORRECTED_ERROR (R431). An uncorrected error poisons data and may fence the column. Its data: e in site. -/
  | uncorrectedError
  /-- THERMAL_CAP (R433). A die above 100 C gets cap 8 on every core. Its data: die in a. -/
  | thermalCap
  /-- THERMAL_CAP_LIFT (R433). A die below 95 C has its thermal cap lifted. Its data: die in a. -/
  | thermalCapLift
  /-- VARIABLE_LATENCY_RESULT (R256). A scoreboarded register result, such as a load's returned data, a slow-path seat read, a special function or a sample, arrives and is written. Its data: cohort in a, result in b. -/
  | variableLatencyResult
  /-- TRANSITION_END (R178). A segment-directory transition that moves data ends, leaving TRN, and its waiting requests are served in arrival order. Its data: segment in a. -/
  | transitionEnd
  /-- BROADCAST_ARRIVAL (R224). A meshlet's rectangle broadcast or end marker reaches an ordering tile's bank unit, which may then move its cursor past a done pair. Its data: tile in tile, bcast in a. -/
  | broadcastArrival
  /-- POWER_DOWN (R429). The module loses its supply, which ends the safe state and drops every key set by KEYSET and every fence. -/
  | powerDown
  /-- DROPPED_FRAME (R421). A frame, packet or control request that the port does not accept is dropped and counted in CC.HUBPORT. -/
  | droppedFrame
  /-- PFC_PAUSE_EXPIRY (R424). The pause time of a received PFC frame runs out and sending resumes on that priority. Its data: prio in a. -/
  | pfcPauseExpiry
  /-- TRANSPORT_RETRY (R422). An RC request that is not acknowledged in time is retried, counting toward the 7 transport retries. Its data: qpn in a. -/
  | transportRetry
  deriving DecidableEq, Repr

end Sys2Proof
end

