-- ==== Sys2Proof/Machine/Encoding.lean ====
section
/-! DEFINITION. The encoding tables: opcode maps (R259 to R262), the layouts and legal values of
X, MOD and IMM16 and the operand fields of every instruction (R277, R318, R347, R378), and the
map between the constructors of `Instr` and the words' class and opcode. -/

namespace Sys2Proof

/-- How an operand field of an extended form is used: the kinds it admits, how many vector names or
uniform registers it covers, and the alignment of the first index. `raw` fields carry no operand and
are judged by the instruction's own rule. -/
structure Use where
  kv : Bool := false
  ks : Bool := false
  n : Nat := 1
  sn : Nat := 1
  al : Nat := 1
  sal : Nat := 1
  raw : Bool := false
  deriving DecidableEq, Repr

namespace Use
/-- An unused field: all zero (R245). -/
def no : Use := { n := 0, sn := 0 }
/-- A vector name, or a run of n names aligned to al. -/
def v (n al : Nat) : Use := { kv := true, n := n, al := al }
/-- A uniform register, or a run of n registers aligned to al. -/
def s (n al : Nat) : Use := { ks := true, sn := n, sal := al }
/-- Either kind: n names aligned to n, or one uniform register. -/
def vs (n : Nat) : Use := { kv := true, ks := true, n := n, al := n }
/-- A field that carries no operand and is judged elsewhere. -/
def other : Use := { raw := true, n := 0, sn := 0 }
/-- The field carries an operand. -/
def used (u : Use) : Bool := u.kv || u.ks
end Use

/-- The all-zero operand field. -/
def Opnd.zero : Opnd := ⟨false, false, 0⟩

/-- An operand field agrees with its use (R245): kind, index range, alignment; a field that carries
no operand is zero. -/
def Opnd.ok (o : Opnd) (u : Use) : Bool :=
  if u.raw then true
  else if !u.used then o == .zero
  else if o.kind then u.ks && (o.idx.toNat % u.sal == 0) && decide (o.idx.toNat + u.sn ≤ 256)
  else u.kv && (o.idx.toNat % u.al == 0) && decide (o.idx.toNat + u.n ≤ 128)

/-- A bit field of a bit vector, as a number. -/
def fld {w : Nat} (x : BitVec w) (hi lo : Nat) : Nat := (x.toNat >>> lo) % 2 ^ (hi + 1 - lo)

/-- Bit i of a bit vector. -/
def bitOf {w : Nat} (x : BitVec w) (i : Nat) : Bool := x.getLsbD i

/-- What the encoding says of one compute opcode (R259, R318). Widths are counted in vector names. -/
structure AluInfo where
  b : Bool := false
  bl : Bool := false
  e : Bool := true
  el : Bool := false
  /-- has a uniform form (R260) -/
  uni : Bool := true
  /-- legal values of X in the base forms -/
  x : Nat → Bool := fun v => v == 0
  /-- PD is written -/
  pd : Bool := false
  /-- legal MOD and IMM16 -/
  ok : Cls → Ext → Bool := fun _ x => x.mod == 0 && x.imm == 0
  ud : Cls → Ext → Use := fun _ _ => .v 1 1
  ua : Cls → Ext → Use := fun _ _ => .vs 1
  ub : Cls → Ext → Use := fun _ _ => .no
  uc : Cls → Ext → Use := fun _ _ => .no
  /-- A may carry the passback select (R341) -/
  pbA : Bool := true

/-- MOD holds RM in [9:8] and nothing else; IMM16 is zero. -/
def okRm (_ : Cls) (x : Ext) : Bool := fld x.mod 7 0 == 0 && x.imm == 0
/-- An even pair in CLS 00, one register in CLS 01. -/
def wide : Cls → Ext → Use := fun _ _ => .vs 2
/-- A pair when W64 (bit i of MOD) is set. -/
def wideIf (i : Nat) : Cls → Ext → Use := fun _ x => .vs (if bitOf x.mod i then 2 else 1)

/-- A two-source instruction of forms B BL E EL without modifiers. -/
def aluB2 : AluInfo :=
  { b := true, bl := true, el := true, ub := fun _ _ => .vs 1 }
/-- A two-source instruction of forms B BL E EL that rounds. -/
def aluR2 : AluInfo := { aluB2 with ok := okRm }
/-- A one-source instruction of forms B E without modifiers. -/
def aluB1 : AluInfo := { b := true }
/-- A one-source special function of forms B E that rounds. -/
def aluR1 : AluInfo := { aluB1 with ok := okRm }
/-- A three-source instruction of forms E EL without modifiers. -/
def aluE3 : AluInfo := { el := true, ub := fun _ _ => .vs 1, uc := fun _ _ => .vs 1 }
/-- A vector-only instruction. -/
def AluInfo.vecOnly (i : AluInfo) : AluInfo := { i with uni := false }

/-- PF of PACK is an 8-bit format (R339). -/
def packByte (x : Ext) : Bool := decide (2 ≤ fld x.mod 2 0) && decide (fld x.mod 2 0 ≤ 5)

/-- Size in bits of a CVT format code (R338). -/
def cvtElems (code : Nat) : Nat :=
  if code == 1 || code == 2 then 2 else if code == 3 || code == 4 then 4 else 1

/-- Elements selectable by UNPACK (R340). -/
def unpackElems (pf : Nat) : Nat :=
  if pf == 0 || pf == 1 || pf == 6 || pf == 7 then 2 else if pf == 9 then 8 else 4

/-- The compute opcodes (R259, R318). -/
def aluInfo (op : Nat) : Option AluInfo :=
  match op with
  | 0x00 | 0x01 => some { aluB2 with
      x := fun v => v != 3, pd := true,
      ok := fun _ x => fld x.mod 9 2 == 0 && fld x.mod 1 0 != 3 && x.imm == 0 }
  | 0x02 => some aluB2
  | 0x03 | 0x07 | 0x08 => some { aluB2 with
      x := fun v => v ≤ 1, ok := fun _ x => fld x.mod 9 1 == 0 && x.imm == 0 }
  | 0x04 => some aluE3
  | 0x05 => some { aluE3 with
      ok := fun _ x => fld x.mod 9 1 == 0 && x.imm == 0, ud := wide, uc := wide }
  | 0x06 => some { aluB1 with
      x := fun v => v ≤ 1, ok := fun _ x => fld x.mod 9 1 == 0 && x.imm == 0 }
  | 0x09 | 0x0A => some { aluB2 with pd := true, ud := wide, ua := wide, ub := wide }
  | 0x0B => some {
      e := true,
      ok := fun _ x => fld x.mod 9 7 == 0 && x.imm == 0,
      ua := fun _ x => .vs (if fld x.mod 2 0 ≥ 6 then 2 else 1),
      ud := fun _ x => .vs (if fld x.mod 5 3 ≥ 6 then 2 else 1) }
  | 0x10 | 0x11 | 0x12 | 0x13 | 0x14 | 0x15 | 0x16 | 0x17 => some aluB2
  | 0x18 => some { aluE3 with ok := fun _ x => fld x.mod 9 1 == 0 && x.imm == 0 }
  | 0x19 => some {
      el := true,
      ok := fun _ x => fld x.mod 9 2 == 0 &&
        (if bitOf x.mod 1 then fld x.imm 7 6 == 0 && fld x.imm 15 14 == 0 else x.imm == 0),
      ub := fun _ x => if bitOf x.mod 1 then .no else .vs 1 }
  | 0x1A => some {
      el := true,
      ok := fun _ x => fld x.mod 9 2 == 0 && fld x.mod 0 0 == 0 &&
        (if bitOf x.mod 1 then fld x.imm 7 6 == 0 && fld x.imm 15 14 == 0 else x.imm == 0),
      ub := fun _ x => if bitOf x.mod 1 then .no else .vs 1 }
  | 0x1B | 0x1C | 0x1D => some aluB1
  | 0x20 => some {
      el := true, pd := true,
      ok := fun c x => fld x.mod 9 5 == 0 && decide (fld x.mod 2 0 ≤ 5) && x.imm == 0 &&
        (c == .vec || !bitOf x.mod 4),
      ud := fun _ _ => .no,
      ua := wideIf 4, ub := wideIf 4 }
  | 0x21 => some {
      el := true,
      ok := fun _ x => fld x.mod 9 4 == 0 && x.imm == 0, ub := fun _ _ => .vs 1 }
  | 0x22 => some { aluB1 with
      ok := fun c x => fld x.mod 9 1 == 0 && x.imm == 0 && (c == .vec || !bitOf x.mod 0),
      ud := wideIf 0, ua := wideIf 0 }
  | 0x23 => some {
      bl := true, e := false, el := true,
      ok := fun c x => fld x.mod 9 1 == 0 && x.imm == 0 && (c == .vec || !bitOf x.mod 0),
      ud := wideIf 0, ua := fun _ _ => .no, ub := wideIf 0 }
  | 0x24 => some {
      uni := false, pd := true,
      ok := fun _ x => fld x.mod 9 9 == 0 && fld x.imm 15 8 == 0,
      ud := fun _ _ => .no, ua := fun _ _ => .no }
  | 0x30 | 0x31 | 0x32 | 0x40 => some aluR2
  | 0x33 => some { aluE3 with ok := okRm }
  | 0x34 | 0x35 => some aluB2
  | 0x36 => some {
      el := true, pd := true,
      ok := fun _ x => fld x.mod 9 4 == 0 && decide (fld x.mod 3 0 ≤ 7) && x.imm == 0,
      ud := fun _ _ => .no, ub := fun _ _ => .vs 1 }
  | 0x37 => some { ok := okRm }
  | 0x38 => some { pd := true, ok := fun _ x => x.mod == 0 && fld x.imm 15 9 == 0 }
  | 0x41 | 0x42 | 0x43 | 0x44 | 0x45 | 0x46 | 0x47 => some aluR1
  | 0x50 | 0x51 => some aluR2.vecOnly
  | 0x52 | 0x55 => some { aluE3 with ok := okRm, uni := false }
  | 0x53 | 0x54 => some aluB2.vecOnly
  | 0x60 => some {
      ok := fun _ x => decide (fld x.mod 3 0 ≤ 6) && decide (fld x.mod 7 4 ≤ 6) &&
        !(decide (5 ≤ fld x.mod 3 0) && decide (5 ≤ fld x.mod 7 4)) &&
        fld x.imm 15 2 == 0 && decide (fld x.imm 1 0 < cvtElems (fld x.mod 3 0)) }
  | 0x61 => some {
      el := true, uni := false,
      ok := fun _ x => fld x.mod 7 4 == 0 && x.imm == 0 &&
        (packByte x || fld x.mod 3 3 == 0) &&
        (decide (fld x.mod 2 0 < 4) || fld x.mod 9 8 == 0),
      ub := fun _ _ => .vs 1,
      uc := fun _ x => if packByte x then .vs 1 else .no }
  | 0x62 => some {
      uni := false,
      ok := fun _ x => fld x.mod 9 4 == 0 && decide (fld x.mod 3 0 ≤ 9) && fld x.imm 15 3 == 0 &&
        decide (fld x.imm 2 0 < unpackElems (fld x.mod 3 0)),
      ub := fun _ x => if fld x.mod 3 0 ≥ 8 then .vs 1 else .no }
  | 0x70 => some { aluE3 with uni := false, ok := fun _ x => x.mod == 0 }
  | 0x71 => some { aluE3 with
      uni := false, ok := fun _ x => x.mod == 0 && fld x.imm 7 4 == 0 && fld x.imm 15 12 == 0 }
  | 0x72 => some { aluE3 with uni := false, ok := okRm }
  | 0x80 => some {
      uni := false, pd := true, pbA := false,
      ok := fun _ x => fld x.mod 9 1 == 0 && x.imm == 0,
      ud := wideIf 0,
      ua := fun _ x => let n := if bitOf x.mod 0 then 2 else 1; .v n n,
      ub := fun _ _ => .vs 1 }
  | 0x81 => some {
      uni := false, pd := true, pbA := false,
      ok := fun _ x => fld x.mod 9 3 == 0 && fld x.mod 1 0 != 3,
      ud := wideIf 2,
      ua := fun _ x => let n := if bitOf x.mod 2 then 2 else 1; .v n n }
  | 0x82 => some {
      uni := false, pd := true,
      ok := fun _ x => fld x.mod 9 6 == 0 && x.imm == 0 &&
        (fld x.mod 5 4 != 3 || fld x.mod 3 0 == 0),
      ud := fun _ x => if fld x.mod 5 4 == 2 then .v 1 1 else .no,
      ua := fun _ x => if fld x.mod 5 4 == 3 then .vs 1 else .no }
  | 0x83 | 0x84 => some {
      uni := false,
      ok := fun _ x => fld x.mod 9 4 == 0 && decide (fld x.mod 3 0 ≤ 10) && x.imm == 0 }
  | 0x85 => some {
      uni := false,
      ok := fun _ x => fld x.mod 9 1 == 0 && x.imm == 0,
      ud := fun _ _ => .s 1 1,
      ua := fun _ x => let n := if bitOf x.mod 0 then 2 else 1; .v n n }
  | _ => none

/-- Restricts a use to the kind a class admits (R245): CLS 01 takes only uniform registers, and a
CLS 00 destination is a vector name unless the instruction writes a uniform register (V2S). -/
def Use.forCls (c : Cls) (dest : Bool) (u : Use) : Use :=
  match c with
  | .uni => if u.used then .s 1 1 else u
  | .vec => if dest && u.kv then { u with ks := false } else u

/-- A literal that stands for a 32-bit operand: bits [63:32] are all zeros or copies of bit 31 (R247). -/
def litOk32 (lit : DWord) : Bool :=
  fld lit 63 32 == 0 || (fld lit 63 32 == 0xFFFFFFFF && bitOf lit 31)

/-- The literal of a compute word is legal: no rule for a 64-bit operand, nor for the uniform
compare, move and MOVL, which are always 64 bits wide (R247, R320, R329). -/
def aluLitOk (op : Nat) (c : Cls) (wideB : Bool) (lit : DWord) : Bool :=
  wideB || (c == .uni && (op == 0x20 || op == 0x23)) || litOk32 lit

/-- Passback select and distance (R246), given which fields carry a vector source. -/
def pbsOk (x : Ext) (el : Bool) (pbA : Bool) (ua ub uc : Use) : Bool :=
  match x.pbs.toNat with
  | 0 => x.km1 == 0
  | 1 => ua.used && !x.a.kind && pbA
  | 2 => ub.used && !x.b.kind && !el
  | _ => uc.used && !x.c.kind

/-- The extended form of a compute word is legal: check 4 of R253 without ROWMAX. -/
def aluExtOk (op : Nat) (i : AluInfo) (c : Cls) (x : Ext) (lit : Option DWord) : Bool :=
  let el := lit.isSome
  let ud := (i.ud c x).forCls c true
  let ua := (i.ua c x).forCls c false
  let ub := (i.ub c x).forCls c false
  let uc := (i.uc c x).forCls c false
  !(x.pn && x.pg == 7) && (i.pd || x.pd == 7) && i.ok c x &&
  x.d.ok ud && !x.d.mark && x.a.ok ua && x.c.ok uc &&
  (match lit with
   | none => x.b.ok ub
   | some l => x.b == .zero && (i.ub c x).used && aluLitOk op c ((i.ub c x).n == 2) l) &&
  pbsOk x el i.pbA ua ub uc && (c == .vec || x.pbs == 0)

/-- The zero extended word, for reading the base forms' operand widths from the tables. -/
def Ext.zero : Ext := ⟨0, 0, false, 0, 0, .zero, .zero, .zero, 0, .zero, 0, 0⟩

/-- A base word (with or without literal) is legal: X and, for 64-bit operands in CLS 00, even names. -/
def aluBaseOk (i : AluInfo) (c : Cls) (o : BaseOps) : Bool :=
  i.x o.x.toNat &&
  (c == .uni || (o.d.toNat % (i.ud c .zero).n == 0 &&
    (if (i.ua c .zero).used then o.a.toNat % (i.ua c .zero).n == 0 else true))) &&
  ((i.ua c .zero).used || (o.a == 0 && !o.ka))

/-- Forms of a compute word that its opcode has. -/
def AluInfo.hasForm (i : AluInfo) : AluForm → Bool
  | .ub _ => i.uni && i.b
  | .bl c _ _ => i.bl && (c == .vec || i.uni)
  | .e c _ => i.e && (c == .vec || i.uni)
  | .el c _ _ => i.el && (c == .vec || i.uni)

/-- A compute word is legal apart from ROWMAX: its form exists and check 4 of R253 passes. -/
def aluOk (op : Nat) (f : AluForm) : Bool :=
  match aluInfo op with
  | none => false
  | some i => i.hasForm f &&
    match f with
    | .ub o => aluBaseOk i .uni o
    | .bl c o l => aluBaseOk i c o && aluLitOk op c ((i.ub c .zero).n == 2) l
    | .e c x => aluExtOk op i c x none
    | .el c x l => aluExtOk op i c x (some l)

/-- A vector base word is legal. -/
def baseOk (op : Nat) (o : BaseOps) : Bool :=
  match aluInfo op with
  | none => false
  | some i => i.b && aluBaseOk i .vec o

/-- What the encoding says of one CLS 10 or CLS 11 opcode (R277, R347, R378). -/
structure ExtInfo where
  el : Bool := false
  guard : Bool := true
  pd : Bool := false
  /-- proctor mode only (R306) -/
  priv : Bool := false
  /-- passback select admitted on vector sources, on A in particular -/
  pbs : Bool := true
  pbA : Bool := true
  ok : Bool → Ext → Bool := fun _ x => x.mod == 0 && x.imm == 0
  ud : Ext → Use := fun _ => .no
  ua : Ext → Use := fun _ => .no
  ub : Ext → Use := fun _ => .no
  uc : Ext → Use := fun _ => .no

/-- The REG bit (bit i of MOD) moves the immediate operand into a uniform register in A. -/
def regA (i : Nat) : Ext → Use := fun x => if bitOf x.mod i then .s 1 1 else .no

/-- SZ gives the names a vector operand covers (R351). -/
def szNames (sz : Nat) : Nat := if sz == 5 then 2 else if sz == 6 then 4 else 1

/-- The M layout is legal (R349) apart from the fields' kinds. -/
def mOk (el : Bool) (x : Ext) : Bool :=
  let sp := fld x.mod 9 8
  let cp := fld x.mod 7 6
  cp != 3 && (sp == 0 || cp == 0) && fld x.mod 5 3 != 7 && (!el || fld x.mod 2 0 == 0)

/-- A of a memory operand (R349): a uniform base, or all zero for none; in spc the seat, of either kind. -/
def memA (spc : Bool) (x : Ext) : Use :=
  if spc then .vs 1 else if x.a == .zero then .no else .s 1 1

/-- B of a memory operand with the scale code SC (R349). -/
def memB (x : Ext) : Use :=
  let sc := fld x.mod 2 0
  if sc == 0 then .no else if sc ≤ 4 then .vs 1 else .v 2 2

/-- The window number in C of a load in c, or nothing (R349). -/
def memCwin (x : Ext) : Bool :=
  if fld x.mod 9 8 == 3 then !x.c.kind && !x.c.mark && decide (x.c.idx.toNat ≤ 7) && x.pbs != 3
  else x.c == .zero

/-- The 4-bit SCOPE code is legal: 7 is not (R355). -/
def scopeOk (code : Nat) : Bool := code != 7

/-- IMM16 as SL with the REG bit (R378). -/
def slOk (x : Ext) : Bool := if bitOf x.mod 8 then x.imm == 0 else fld x.imm 15 12 == 0

/-- IMM16 as MX (R378, R380). -/
def mxOk (unit : Bool) (x : Ext) : Bool :=
  fld x.imm 15 8 == 0 && (unit || !bitOf x.imm 7) && (bitOf x.imm 6 || fld x.imm 5 0 == 0)

/-- MWLD's MOD and operand uses; `u` is UNIT (R381). -/
def mwldOk (x : Ext) : Bool := fld x.mod 5 0 == 0
/-- MMA's MOD for m = 16 shifted left by i (R382). -/
def mmaOk (i : Nat) (x : Ext) : Bool :=
  decide (fld x.mod 8 6 ≤ 5) && decide (fld x.mod 2 0 < 8 >>> i)

/-- The system and engine opcodes (R277, R347, R378). MSTAGE of an MMA with UNIT = 1 is ILLEGAL_FIELD: R378 gives UNIT of MSTAGE no
meaning for an MMA, whose own UNIT must be 0 (log entry 84, DESIGN CHOICE). -/
def extInfo (cls op : Nat) : Option ExtInfo :=
  match cls, op with
  | 2, 0x00 | 2, 0x0A | 2, 0x10 | 2, 0x19 => some { guard := false, pbs := false }
  | 2, 0x01 | 2, 0x08 => some { guard := false, pbs := false, ok := fun _ x => x.mod == 0 }
  | 2, 0x02 => some { pbs := false, ok := fun _ x => x.mod == 0 }
  | 2, 0x03 => some { pbs := false, ok := fun _ x => fld x.mod 9 8 == 0 && x.imm == 0, ua := fun _ => .vs 1 }
  | 2, 0x04 => some { guard := false, pbs := false, ok := fun _ x => x.mod == 0, ud := fun _ => .s 1 1 }
  | 2, 0x09 => some {
      guard := false, pbs := false,
      ok := fun _ x => !bitOf x.mod 9 || (fld x.mod 8 0 == 0 && x.imm == 0), ua := regA 9 }
  | 2, 0x0B => some { pbs := false }
  | 2, 0x11 | 2, 0x28 | 2, 0x29 => some {
      el := true, pbs := false,
      ok := fun el x => if el then fld x.mod 9 1 == 0 && x.imm == 0 else fld x.mod 9 3 == 0,
      ub := fun _ => .no }
  | 2, 0x12 => some {
      pbs := false, ok := fun _ x => fld x.mod 9 1 == 0 && x.imm == 0,
      ua := fun x => if bitOf x.mod 0 then .v 2 2 else .v 1 1 }
  | 2, 0x18 => some {
      guard := false, pbs := false,
      ok := fun _ x => fld x.mod 9 2 == 0 && fld x.mod 1 0 != 3 && (fld x.mod 1 0 == 0 || x.imm == 0),
      ua := fun x => if fld x.mod 1 0 == 1 then .s 1 1 else .no }
  | 2, 0x1A | 2, 0x1B => some { pbs := false, ok := fun _ x => x.mod == 0 }
  | 2, 0x20 => some {
      pbs := false,
      ok := fun _ x => fld x.mod 8 6 == 0 && (!bitOf x.mod 9 || x.imm == 0), ua := regA 9 }
  | 2, 0x21 | 2, 0x22 | 2, 0x23 => some {
      pbs := false,
      ok := fun _ x => fld x.mod 8 0 == 0 && (!bitOf x.mod 9 || x.imm == 0), ua := regA 9 }
  | 2, 0x24 => some {
      pbs := false,
      ok := fun _ x => fld x.mod 8 0 == 0 && (!bitOf x.mod 9 || x.imm == 0), ua := regA 9,
      ud := fun _ => .s 1 1 }
  | 2, 0x2A => some {
      pbs := false,
      ok := fun _ x => fld x.mod 9 8 == 0 && x.imm == 0 &&
        (let n := fld x.mod 7 0
         decide (n ≤ 2) || (decide (8 ≤ n) && decide (n ≤ 0x17)) || (decide (0x20 ≤ n) && decide (n ≤ 0x22))),
      ud := fun x => .vs (if fld x.mod 7 0 ≥ 0x20 then 2 else 1) }
  | 2, 0x2B => some {
      pbs := false,
      ok := fun _ x => fld x.mod 9 8 == 0 && fld x.mod 7 0 == 0x22 && x.imm == 0, ua := fun _ => .s 1 1 }
  | 2, 0x80 | 2, 0x86 => some {
      guard := false, pbs := false, pd := true, priv := true,
      ok := fun _ x => x.mod == 0, ud := fun _ => .s 1 1, ua := fun _ => .s 1 1 }
  | 2, 0x81 | 2, 0x87 => some {
      el := true, guard := false, pbs := false, pd := true, priv := true,
      ok := fun _ x => x.mod == 0, ua := fun _ => .s 1 1, ub := fun _ => .s 1 1 }
  | 2, 0x82 => some {
      guard := false, pbs := false, priv := true,
      ok := fun _ x => fld x.mod 9 2 == 0 && x.imm == 0, ud := fun _ => .s 1 1, ua := fun _ => .s 1 1,
      ub := fun x => if fld x.mod 1 0 == 2 then .s 1 1 else .no }
  | 2, 0x83 => some {
      guard := false, pbs := false, priv := true,
      ok := fun _ x => fld x.mod 9 2 == 0 && fld x.mod 1 0 != 3 && x.imm == 0,
      ud := fun _ => .s 1 1, ua := fun _ => .s 1 1 }
  | 2, 0x84 => some {
      guard := false, pbs := false, priv := true,
      ok := fun _ x => fld x.mod 9 3 == 0 && fld x.mod 1 0 != 3 && x.imm == 0,
      ud := fun _ => .s 1 1, ua := fun _ => .s 1 1 }
  | 2, 0x85 => some {
      guard := false, pbs := false, priv := true,
      ok := fun _ x => fld x.mod 9 2 == 0 && fld x.mod 1 0 != 3 && x.imm == 0,
      ua := fun x => if fld x.mod 1 0 == 0 then .s 1 1 else .no,
      ub := fun x => if fld x.mod 1 0 ≤ 1 then .s 1 1 else .no }
  | 2, 0x88 => some {
      guard := false, pbs := false, pd := true, priv := true,
      ok := fun _ x => fld x.mod 9 1 == 0 && x.imm == 0,
      ud := fun x => if bitOf x.mod 0 then .s 8 8 else .s 4 4 }
  | 3, 0x00 => some {
      el := true,
      ok := fun el x => mOk el x && memCwin x,
      ud := fun x => let n := szNames (fld x.mod 5 3); .v n n,
      ua := fun x => memA (fld x.mod 9 8 == 2) x, ub := memB,
      uc := fun x => if fld x.mod 9 8 == 3 then .other else .no }
  | 3, 0x01 => some {
      el := true,
      ok := fun el x => mOk el x && fld x.mod 9 8 != 3 && fld x.mod 5 3 != 1 && fld x.mod 5 3 != 3,
      ua := fun x => memA (fld x.mod 9 8 == 2) x, ub := memB,
      uc := fun x => let n := szNames (fld x.mod 5 3); if n == 4 then .v 4 4 else .vs n }
  | 3, 0x02 => some {
      el := true,
      ok := fun el x => mOk el x && fld x.mod 9 8 != 2 && decide (fld x.mod 2 0 ≤ 4) && memCwin x,
      ud := fun x => if fld x.mod 5 3 == 6 then .s 2 2 else .s 1 1,
      ua := memA false, ub := fun x => if fld x.mod 2 0 == 0 then .no else .s 1 1,
      uc := fun x => if fld x.mod 9 8 == 3 then .other else .no }
  | 3, 0x03 => some {
      el := true,
      ok := fun el x => scopeOk (fld x.mod 9 6) && decide (fld x.mod 5 3 ≤ 5) && (!el || fld x.mod 2 0 == 0),
      ud := fun x => let n := szNames (fld x.mod 5 3); .v n n, ua := memA false, ub := memB }
  | 3, 0x04 => some {
      el := true,
      ok := fun el x => scopeOk (fld x.mod 9 6) && decide (fld x.mod 5 3 ≤ 5) && fld x.mod 5 3 != 1 &&
        fld x.mod 5 3 != 3 && (!el || fld x.mod 2 0 == 0),
      ua := memA false, ub := memB, uc := fun x => .vs (szNames (fld x.mod 5 3)) }
  | 3, 0x08 | 3, 0x09 => some {
      el := true,
      ok := fun el x => fld x.mod 9 8 != 3 && scopeOk (fld x.mod 7 4) && (!el || !bitOf x.mod 0) &&
        decide (fld x.imm 15 12 ≤ 9) && !(fld x.imm 15 12 == 9 && bitOf x.mod 1),
      ud := fun x => if op == 9 then (let n := if bitOf x.mod 1 then 2 else 1; .v n n) else .no,
      ua := fun x => memA (fld x.mod 9 8 == 2) x,
      ub := fun x => if bitOf x.mod 0 then .vs 1 else .no,
      uc := fun x => .vs (if bitOf x.mod 1 then 2 else 1) }
  | 3, 0x0A => some {
      el := true, pd := true,
      ok := fun el x => fld x.mod 9 8 != 3 && scopeOk (fld x.mod 7 4) && (!el || !bitOf x.mod 0) &&
        fld x.imm 15 12 == 0,
      ud := fun x => let n := if bitOf x.mod 1 then 2 else 1; .v n n,
      ua := fun x => memA (fld x.mod 9 8 == 2) x,
      ub := fun x => if bitOf x.mod 0 then .vs 1 else .no,
      uc := fun x => if bitOf x.mod 1 then { Use.vs 4 with sn := 2 } else .vs 2 }
  | 3, 0x10 => some { ok := fun _ x => scopeOk (fld x.mod 9 6) && fld x.mod 5 0 == 0 && x.imm == 0 }
  | 3, 0x11 => some { ok := fun _ x => fld x.mod 9 2 == 0 && fld x.mod 1 0 != 3 && x.imm == 0 }
  | 3, 0x12 => some {
      pd := true,
      ok := fun _ x => fld x.mod 9 3 == 0 && (if bitOf x.mod 2 then x.imm == 0 else fld x.imm 15 6 == 0) &&
        (fld x.mod 1 0 == 3 || x.pd == 7), ua := regA 2 }
  | 3, 0x14 => some {
      ua := regA 0,
      ok := fun _ x => fld x.mod 9 1 == 0 && (if bitOf x.mod 0 then x.imm == 0 else fld x.imm 15 10 == 0) }
  | 3, 0x15 | 3, 0x16 => some {
      pd := true, ua := regA 0,
      ok := fun _ x => fld x.mod 9 1 == 0 && (if bitOf x.mod 0 then x.imm == 0 else fld x.imm 15 10 == 0) }
  | 3, 0x18 => some {
      el := true,
      ok := fun el x => fld x.mod 9 8 == 0 && decide (fld x.mod 7 6 ≤ 1) && decide (fld x.mod 5 3 ≤ 1) &&
        (!el || fld x.mod 2 0 == 0),
      ua := memA false, ub := memB }
  | 3, 0x20 => some {
      ok := fun _ x => fld x.mod 9 8 != 3 && fld x.mod 7 6 != 3 && fld x.imm 15 2 == 0 &&
        (fld x.mod 9 8 == 2 || x.imm == 0),
      ua := fun _ => .vs 1, ub := fun _ => .vs 1,
      uc := fun x => if fld x.mod 9 8 == 2 then .vs 1 else .s 3 1 }
  | 3, 0x21 => some {
      ok := fun _ x => (fld x.mod 9 8 == 0 && fld x.imm 1 0 == 0 || fld x.mod 9 8 == 2 && bitOf x.imm 1) &&
        fld x.mod 7 6 != 3 && fld x.imm 15 4 == 0,
      ua := fun _ => .vs 1, ub := fun _ => .vs 1,
      uc := fun x => if fld x.mod 9 8 == 2 then .vs 1 else .s 3 1 }
  | 3, 0x22 | 3, 0x26 => some {
      pd := true, ua := regA 9,
      ok := fun _ x => fld x.mod 8 0 == 0 && (!bitOf x.mod 9 || x.imm == 0) }
  | 3, 0x23 | 3, 0x24 => some {
      pd := true, ua := regA 9, ud := fun _ => .s 1 1,
      ok := fun _ x => fld x.mod 8 0 == 0 && (!bitOf x.mod 9 || x.imm == 0) }
  | 3, 0x25 => some { ud := fun _ => .s 1 1, ok := fun _ x => fld x.mod 9 1 == 0 && x.imm == 0 }
  | 3, 0x28 => some {
      ok := fun _ x => fld x.mod 9 3 == 0 && x.imm == 0,
      ub := fun _ => .vs 1, uc := fun _ => .vs 1 }
  | 3, 0x29 => some { ud := fun _ => .s 1 1, ub := fun _ => .vs 1, uc := fun _ => .vs 1 }
  | 3, 0x2A => some { uc := fun _ => .vs 1 }
  | 3, 0x2B => some { ud := fun _ => .s 1 1, ok := fun _ x => fld x.mod 9 3 == 0 && x.imm == 0 }
  | 3, 0x30 => some {
      ok := fun _ x => fld x.mod 7 6 == 0 && x.imm == 0,
      ua := fun _ => .vs 1, ub := fun x => if bitOf x.mod 8 then .vs 1 else .no, uc := fun _ => .vs 1 }
  | 3, 0x31 => some {
      ok := fun _ x => fld x.mod 9 3 == 0,
      ud := fun _ => .vs 1, ua := memA false, ub := memB }
  | 3, 0x80 => some {
      ok := fun _ x => mwldOk x && mxOk true x,
      ua := fun _ => .vs 1, ub := fun x => if bitOf x.imm 7 then .no else .vs 1,
      uc := fun x => if fld x.mod 8 6 ≥ 4 then .vs 1 else .no }
  | 3, 0x81 => some {
      ok := fun _ x => decide (fld x.imm 15 13 ≤ 4) && fld x.imm 10 8 == 0 && fld x.imm 6 0 == 0 &&
        (if fld x.imm 15 13 == 0 then mwldOk x
         else mmaOk (fld x.imm 15 13 - 1) x && !bitOf x.imm 7),
      ua := fun _ => .vs 1,
      ub := fun x => if fld x.imm 15 13 == 0 then (if bitOf x.imm 7 then .no else .vs 1)
        else if fld x.mod 8 6 ≥ 4 then .vs 1 else .no,
      uc := fun x => if fld x.imm 15 13 == 0 && fld x.mod 8 6 ≥ 4 then .vs 1 else .no }
  | 3, 0x82 | 3, 0x83 | 3, 0x84 | 3, 0x85 => some {
      ok := fun _ x => mmaOk (op - 0x82) x && mxOk false x,
      ua := fun _ => .vs 1, ub := fun x => if fld x.mod 8 6 ≥ 4 then .vs 1 else .no }
  | 3, 0x86 => some { ok := fun _ x => fld x.mod 9 7 == 0 && mxOk false x }
  | 3, 0x87 => some { ok := fun _ x => fld x.mod 9 6 == 0 && fld x.mod 2 0 == 0 && mxOk false x }
  | 3, 0x88 => some {
      ok := fun _ x => decide (fld x.mod 8 6 ≤ 5) && !bitOf x.mod 0 && mxOk true x &&
        !(bitOf x.mod 1 && bitOf x.mod 2) &&
        (fld x.mod 8 6 != 5 || (!bitOf x.mod 9 && !bitOf x.mod 2 && !bitOf x.mod 1 && !bitOf x.imm 7)),
      ua := fun _ => .vs 1,
      ub := fun x => if bitOf x.imm 7 || fld x.mod 8 6 == 5 then .no else .vs 1 }
  | 3, 0x89 => some { ud := fun _ => .s 1 1, ok := fun _ x => fld x.mod 9 1 == 0 && x.imm == 0 }
  | 3, 0x90 => some {
      ok := fun _ x => fld x.mod 7 0 == 0 && slOk x,
      ud := fun _ => .v 4 4, ua := fun _ => .vs 1, uc := regA 8 }
  | 3, 0x91 => some {
      ok := fun _ x => fld x.mod 7 4 == 0 && slOk x && (!bitOf x.mod 9 || fld x.mod 3 0 == 0),
      ua := fun _ => .vs 1, ub := fun _ => .v 4 4, uc := regA 8 }
  | 3, 0x92 => some {
      ok := fun _ x => !bitOf x.mod 9 && fld x.mod 7 1 == 0 &&
        (if bitOf x.mod 8 then x.imm == 0 else fld x.imm 15 8 == 0),
      ud := fun _ => .s 1 1, uc := regA 8 }
  | 3, 0x93 => some {
      ok := fun _ x => !bitOf x.mod 9 && fld x.mod 7 0 == 0 && slOk x,
      ua := fun _ => .vs 1, ub := fun _ => .v 2 2, uc := regA 8 }
  | 3, 0x94 => some {
      ok := fun _ x => decide (fld x.mod 9 7 ≤ 5) && fld x.mod 6 0 == 0 && fld x.imm 15 12 == 0,
      ud := fun _ => .s 1 1, ua := fun _ => .vs 1, ub := fun _ => .vs 1, uc := fun _ => .vs 2 }
  | 3, 0x95 => some {
      ok := fun _ x => fld x.mod 9 2 == 0 && x.imm == 0,
      ud := fun x => if bitOf x.mod 1 then .s 8 8 else .s 1 1, ua := fun _ => .s 1 1 }
  | 3, 0x98 => some {
      ok := fun _ x => x.mod == 0 && fld x.imm 15 8 == 0,
      ud := fun _ => .v 4 4, ua := fun _ => .vs 2, ub := fun _ => .s 1 1 }
  | 3, 0x99 => some {
      ok := fun _ x => x.mod == 0 && fld x.imm 15 8 == 0,
      ud := fun _ => .v 4 4, ua := fun _ => .vs 2, ub := fun _ => .s 1 1, uc := fun _ => .vs 1 }
  | 3, 0xA0 => some {
      pbA := false,
      ok := fun _ x => fld x.mod 9 7 == 0 && decide (fld x.mod 6 2 + fld x.mod 1 0 ≤ 19) && x.imm == 0,
      ua := fun x => .v (fld x.mod 1 0 + 1) 1 }
  | 3, 0xA1 => some { ua := fun _ => .vs 1 }
  | 3, 0xA2 => some { ua := fun _ => .s 1 1 }
  | 3, 0xA3 => some {
      pbA := false,
      ok := fun _ x => fld x.mod 8 2 == 0 && (!bitOf x.mod 9 || fld x.mod 1 0 == 0) && x.imm == 0,
      ua := fun x => if bitOf x.mod 9 then .v 1 1 else .v 4 1 }
  | 3, 0xA4 => some {
      ok := fun _ x => fld x.mod 9 3 == 0 && fld x.mod 2 0 != 7 && x.imm == 0,
      ud := fun _ => .v 1 1 }
  | 3, 0xA5 => some { ok := fun _ x => fld x.mod 8 4 == 0 && x.imm == 0, ud := fun _ => .v 1 1 }
  | 3, 0xA6 => some {}
  | _, _ => none

/-- REGION lists at most 16 names (R293); other opcodes have no rule on the mask. -/
def listOk (cls op : Nat) (x : Ext) (lit : Option DWord) : Bool :=
  if cls == 2 && op == 0x11 then
    let mask := match lit with | some l => l.toNat | none => x.imm.toNat
    decide (((List.range 64).filter fun i => mask.testBit i).length ≤ 16)
  else true

/-- An extended word of CLS 10 or CLS 11 is legal apart from ROWMAX and the plan's levels: check 4
of R253 within R244 to R247. -/
def extOk (cls op : Nat) (f : ExtForm) : Bool :=
  match extInfo cls op with
  | none => false
  | some i =>
    let x := f.x
    let el := f.lit.isSome
    !(x.pn && x.pg == 7) && (i.guard || x.pg == 7) && (i.pd || x.pd == 7) && i.ok el x &&
    x.d.ok (i.ud x) && !x.d.mark && x.a.ok (i.ua x) && x.c.ok (i.uc x) &&
    (if el then i.el && x.b == .zero else x.b.ok (i.ub x)) &&
    (if x.pbs == 0 then x.km1 == 0 else i.pbs && pbsOk x el i.pbA (i.ua x) (i.ub x) (i.uc x)) &&
    listOk cls op x f.lit

/-- What a constructor of `Instr` is in the code: a vector base word, another compute word, a base word of
CLS 10, an extended word of CLS 10 or CLS 11, a pair word, or no word at all. -/
inductive Shape where
  | base (op : Nat) (o : BaseOps)
  | alu (op : Nat) (f : AluForm)
  | ctlB (op : Nat) (st : BitVec 3) (low : BitVec 17)
  | ext (cls op : Nat) (f : ExtForm)
  | pair (p : PairOps)
  | event
  deriving DecidableEq, Repr

/-- The class and opcode of every instruction word (R259 to R262). -/
def Instr.shape (i : Instr) : Shape :=
  match i with
  | .addBase o => .base 0x00 o
  | .add f => .alu 0x00 f
  | .subBase o => .base 0x01 o
  | .sub f => .alu 0x01 f
  | .mulBase o => .base 0x02 o
  | .mul f => .alu 0x02 f
  | .mulhiBase o => .base 0x03 o
  | .mulhi f => .alu 0x03 f
  | .mad f => .alu 0x04 f
  | .madw f => .alu 0x05 f
  | .absBase o => .base 0x06 o
  | .abs f => .alu 0x06 f
  | .minBase o => .base 0x07 o
  | .min f => .alu 0x07 f
  | .maxBase o => .base 0x08 o
  | .max f => .alu 0x08 f
  | .addwBase o => .base 0x09 o
  | .addw f => .alu 0x09 f
  | .subwBase o => .base 0x0A o
  | .subw f => .alu 0x0A f
  | .cvti f => .alu 0x0B f
  | .andBase o => .base 0x10 o
  | .and f => .alu 0x10 f
  | .orBase o => .base 0x11 o
  | .or f => .alu 0x11 f
  | .xorBase o => .base 0x12 o
  | .xor f => .alu 0x12 f
  | .andnBase o => .base 0x13 o
  | .andn f => .alu 0x13 f
  | .shlBase o => .base 0x14 o
  | .shl f => .alu 0x14 f
  | .shrBase o => .base 0x15 o
  | .shr f => .alu 0x15 f
  | .sarBase o => .base 0x16 o
  | .sar f => .alu 0x16 f
  | .rotBase o => .base 0x17 o
  | .rot f => .alu 0x17 f
  | .fsh f => .alu 0x18 f
  | .bfx f => .alu 0x19 f
  | .bfi f => .alu 0x1A f
  | .pcntBase o => .base 0x1B o
  | .pcnt f => .alu 0x1B f
  | .clzBase o => .base 0x1C o
  | .clz f => .alu 0x1C f
  | .brevBase o => .base 0x1D o
  | .brev f => .alu 0x1D f
  | .cmp f => .alu 0x20 f
  | .sel f => .alu 0x21 f
  | .movBase o => .base 0x22 o
  | .mov f => .alu 0x22 f
  | .movl f => .alu 0x23 f
  | .plop f => .alu 0x24 f
  | .faddBase o => .base 0x30 o
  | .fadd f => .alu 0x30 f
  | .fsubBase o => .base 0x31 o
  | .fsub f => .alu 0x31 f
  | .fmulBase o => .base 0x32 o
  | .fmul f => .alu 0x32 f
  | .ffma f => .alu 0x33 f
  | .fminBase o => .base 0x34 o
  | .fmin f => .alu 0x34 f
  | .fmaxBase o => .base 0x35 o
  | .fmax f => .alu 0x35 f
  | .fcmp f => .alu 0x36 f
  | .frnd f => .alu 0x37 f
  | .fclass f => .alu 0x38 f
  | .fdivBase o => .base 0x40 o
  | .fdiv f => .alu 0x40 f
  | .frcpBase o => .base 0x41 o
  | .frcp f => .alu 0x41 f
  | .frsqBase o => .base 0x42 o
  | .frsq f => .alu 0x42 f
  | .fsqrtBase o => .base 0x43 o
  | .fsqrt f => .alu 0x43 f
  | .fex2Base o => .base 0x44 o
  | .fex2 f => .alu 0x44 f
  | .flg2Base o => .base 0x45 o
  | .flg2 f => .alu 0x45 f
  | .fsinpiBase o => .base 0x46 o
  | .fsinpi f => .alu 0x46 f
  | .fcospiBase o => .base 0x47 o
  | .fcospi f => .alu 0x47 f
  | .hadd2Base o => .base 0x50 o
  | .hadd2 f => .alu 0x50 f
  | .hmul2Base o => .base 0x51 o
  | .hmul2 f => .alu 0x51 f
  | .hfma2 f => .alu 0x52 f
  | .hmin2Base o => .base 0x53 o
  | .hmin2 f => .alu 0x53 f
  | .hmax2Base o => .base 0x54 o
  | .hmax2 f => .alu 0x54 f
  | .bfma2 f => .alu 0x55 f
  | .cvt f => .alu 0x60 f
  | .pack f => .alu 0x61 f
  | .unpack f => .alu 0x62 f
  | .dp4o f => .alu 0x70 f
  | .dp8o f => .alu 0x71 f
  | .dp2h f => .alu 0x72 f
  | .xseat f => .alu 0x80 f
  | .xshf f => .alu 0x81 f
  | .vote f => .alu 0x82 f
  | .redo f => .alu 0x83 f
  | .scano f => .alu 0x84 f
  | .v2s f => .alu 0x85 f
  | .pairWord p => .pair p
  | .nopBase k => .ctlB 0x00 k 0
  | .nop f => .ext 2 0x00 f
  | .braBase k off => .ctlB 0x01 k off
  | .bra f => .ext 2 0x01 f
  | .brc f => .ext 2 0x02 f
  | .bri f => .ext 2 0x03 f
  | .loop f => .ext 2 0x04 f
  | .callBase k off => .ctlB 0x08 k off
  | .call f => .ext 2 0x08 f
  | .callo f => .ext 2 0x09 f
  | .retBase k => .ctlB 0x0A k 0
  | .ret f => .ext 2 0x0A f
  | .exitBase k => .ctlB 0x0B k 0
  | .exit f => .ext 2 0x0B f
  | .reformBase k => .ctlB 0x10 k 0
  | .reform f => .ext 2 0x10 f
  | .region f => .ext 2 0x11 f
  | .pass f => .ext 2 0x12 f
  | .wait f => .ext 2 0x18 f
  | .waitUntil f => .ext 2 0x18 f
  | .waitDrain f => .ext 2 0x18 f
  | .yieldBase k => .ctlB 0x19 k 0
  | .yield f => .ext 2 0x19 f
  | .trap f => .ext 2 0x1A f
  | .bkptBase k code => .ctlB 0x1B k (code.setWidth 17)
  | .bkpt f => .ext 2 0x1B f
  | .ovld f => .ext 2 0x20 f
  | .ovpin f => .ext 2 0x21 f
  | .ovunpin f => .ext 2 0x22 f
  | .ovevict f => .ext 2 0x23 f
  | .ovqry f => .ext 2 0x24 f
  | .free f => .ext 2 0x28 f
  | .rsrv f => .ext 2 0x29 f
  | .rdspc f => .ext 2 0x2A f
  | .wrspc f => .ext 2 0x2B f
  | .dwrd f => .ext 2 0x80 f
  | .dwwr f => .ext 2 0x81 f
  | .cresume f => .ext 2 0x82 f
  | .cresumeSkip f => .ext 2 0x82 f
  | .cresumePc f => .ext 2 0x82 f
  | .cresumePlan f => .ext 2 0x82 f
  | .ckill f => .ext 2 0x83 f
  | .ckillTeam f => .ext 2 0x83 f
  | .ckillPlan f => .ext 2 0x83 f
  | .cpreemptPlan f => .ext 2 0x84 f
  | .cpreemptCore f => .ext 2 0x84 f
  | .cpreemptQueue f => .ext 2 0x84 f
  | .tlbflPage f => .ext 2 0x85 f
  | .tlbflCtx f => .ext 2 0x85 f
  | .tlbflAll f => .ext 2 0x85 f
  | .cfgrd f => .ext 2 0x86 f
  | .cfgwr f => .ext 2 0x87 f
  | .evtrd f => .ext 2 0x88 f
  | .evtrdFault f => .ext 2 0x88 f
  | .ld f => .ext 3 0x00 f
  | .st f => .ext 3 0x01 f
  | .ldu f => .ext 3 0x02 f
  | .lda f => .ext 3 0x03 f
  | .str f => .ext 3 0x04 f
  | .atom f => .ext 3 0x08 f
  | .atomr f => .ext 3 0x09 f
  | .cas f => .ext 3 0x0A f
  | .fence f => .ext 3 0x10 f
  | .bar f => .ext 3 0x11 f
  | .barArrive f => .ext 3 0x11 f
  | .barWait f => .ext 3 0x11 f
  | .bell f => .ext 3 0x12 f
  | .bellArrive f => .ext 3 0x12 f
  | .bellWait f => .ext 3 0x12 f
  | .bellTest f => .ext 3 0x12 f
  | .regacq f => .ext 3 0x14 f
  | .regtry f => .ext 3 0x15 f
  | .regrel f => .ext 3 0x16 f
  | .pref f => .ext 3 0x18 f
  | .tierq f => .ext 3 0x31 f
  | .copyBox f => .ext 3 0x20 f
  | .copyBoxst f => .ext 3 0x20 f
  | .copyLin f => .ext 3 0x20 f
  | .copym f => .ext 3 0x21 f
  | .twait f => .ext 3 0x22 f
  | .twany f => .ext 3 0x23 f
  | .tfind f => .ext 3 0x24 f
  | .tstat f => .ext 3 0x25 f
  | .tclr f => .ext 3 0x26 f
  | .qpush f => .ext 3 0x28 f
  | .qawait f => .ext 3 0x29 f
  | .qrel f => .ext 3 0x2A f
  | .qstat f => .ext 3 0x2B f
  | .stageUp0 f => .ext 3 0x30 f
  | .stageUp1 f => .ext 3 0x30 f
  | .stageDown1 f => .ext 3 0x30 f
  | .stageDown2 f => .ext 3 0x30 f
  | .mwld f => .ext 3 0x80 f
  | .mstage f => .ext 3 0x81 f
  | .mma16 f => .ext 3 0x82 f
  | .mma32 f => .ext 3 0x83 f
  | .mma64 f => .ext 3 0x84 f
  | .mma128 f => .ext 3 0x85 f
  | .macc f => .ext 3 0x86 f
  | .mzero f => .ext 3 0x87 f
  | .mdrain f => .ext 3 0x88 f
  | .mstat f => .ext 3 0x89 f
  | .sld f => .ext 3 0x90 f
  | .sst f => .ext 3 0x91 f
  | .stinfo f => .ext 3 0x92 f
  | .vbmin f => .ext 3 0x93 f
  | .bankopFill f => .ext 3 0x94 f
  | .bankopScale f => .ext 3 0x94 f
  | .bankopAxpby f => .ext 3 0x94 f
  | .bankopConvert f => .ext 3 0x94 f
  | .bankopSumrow f => .ext 3 0x94 f
  | .bankopDepthclear f => .ext 3 0x94 f
  | .bankst f => .ext 3 0x95 f
  | .samp f => .ext 3 0x98 f
  | .sampl f => .ext 3 0x99 f
  | .emitv f => .ext 3 0xA0 f
  | .emitp f => .ext 3 0xA1 f
  | .meshend f => .ext 3 0xA2 f
  | .exportPix f => .ext 3 0xA3 f
  | .quadrd f => .ext 3 0xA4 f
  | .attr f => .ext 3 0xA5 f
  | .discard f => .ext 3 0xA6 f
  | .waitExpiry => .event
  | .dwSelWrite => .event
  | .dwRpcWrite => .event
  | .configWrite => .event
  | .hallPassEntryWrite => .event
  | .blTargetWrite => .event
  | .blGenWrite => .event
  | .completionCounterWrite => .event
  | .ccQuotaWrite => .event
  | .deferredFieldWrite => .event
  | .errorCounterClear => .event
  | .ccFenceWrite => .event
  | .bellRelease => .event
  | .copyComplete => .event
  | .stagedCommandEntry => .event
  | .stageComplete => .event
  | .matrixCommandStart => .event
  | .matrixCommandComplete => .event
  | .bankopJobStart => .event
  | .rowStep => .event
  | .rasteriseMeshlet => .event
  | .quadAdmission => .event
  | .quadBlend => .event
  | .pixelLaunch => .event
  | .pixelLaunchAge => .event
  | .launch => .event
  | .placementDecision => .event
  | .dispatcherPreload => .event
  | .carveoutConversion => .event
  | .conversionComplete => .event
  | .consumerLaunch => .event
  | .tailLaunch => .event
  | .stageReassignment => .event
  | .planComplete => .event
  | .issueCap => .event
  | .cohortFormation => .event
  | .binAging => .event
  | .waitAgeFiling => .event
  | .passbackPublished => .event
  | .cloak => .event
  | .longWaitCloak => .event
  | .cloakDone => .event
  | .recall => .event
  | .recallDone => .event
  | .binUncloak => .event
  | .overlayLoadComplete => .event
  | .evictionRequest => .event
  | .spillComplete => .event
  | .fillComplete => .event
  | .promotion => .event
  | .retentionEntry => .event
  | .wakeComplete => .event
  | .safePointStop => .event
  | .safelimExpiry => .event
  | .drainExpiry => .event
  | .teamResume => .event
  | .faultRecordEnqueue => .event
  | .contextBoundary => .event
  | .counter => .event
  | .status => .event
  | .events => .event
  | .attest => .event
  | .mgmtCfgrd => .event
  | .mgmtCfgwr => .event
  | .qpset => .event
  | .mrset => .event
  | .keyset => .event
  | .addrset => .event
  | .mgmtReset => .event
  | .neighbourDiscovery => .event
  | .inboundRdmaRead => .event
  | .inboundRdmaWrite => .event
  | .rdmaWriteWithImmediate => .event
  | .inboundSend => .event
  | .sendWithImmediate => .event
  | .unsupportedRequest => .event
  | .remoteResponse => .event
  | .peerNak => .event
  | .retryExhausted => .event
  | .pfcPause => .event
  | .cnpReceived => .event
  | .rateIncrease => .event
  | .link => .event
  | .boot => .event
  | .correctedError => .event
  | .uncorrectedError => .event
  | .thermalCap => .event
  | .thermalCapLift => .event
  | .variableLatencyResult => .event
  | .transitionEnd => .event
  | .broadcastArrival => .event
  | .powerDown => .event
  | .droppedFrame => .event
  | .pfcPauseExpiry => .event
  | .transportRetry => .event

/-- The instruction of a vector base word (R259). -/
def mkBase (op : Nat) (o : BaseOps) : Option Instr :=
  match op with
  | 0x00 => some (.addBase o)
  | 0x01 => some (.subBase o)
  | 0x02 => some (.mulBase o)
  | 0x03 => some (.mulhiBase o)
  | 0x06 => some (.absBase o)
  | 0x07 => some (.minBase o)
  | 0x08 => some (.maxBase o)
  | 0x09 => some (.addwBase o)
  | 0x0A => some (.subwBase o)
  | 0x10 => some (.andBase o)
  | 0x11 => some (.orBase o)
  | 0x12 => some (.xorBase o)
  | 0x13 => some (.andnBase o)
  | 0x14 => some (.shlBase o)
  | 0x15 => some (.shrBase o)
  | 0x16 => some (.sarBase o)
  | 0x17 => some (.rotBase o)
  | 0x1B => some (.pcntBase o)
  | 0x1C => some (.clzBase o)
  | 0x1D => some (.brevBase o)
  | 0x22 => some (.movBase o)
  | 0x30 => some (.faddBase o)
  | 0x31 => some (.fsubBase o)
  | 0x32 => some (.fmulBase o)
  | 0x34 => some (.fminBase o)
  | 0x35 => some (.fmaxBase o)
  | 0x40 => some (.fdivBase o)
  | 0x41 => some (.frcpBase o)
  | 0x42 => some (.frsqBase o)
  | 0x43 => some (.fsqrtBase o)
  | 0x44 => some (.fex2Base o)
  | 0x45 => some (.flg2Base o)
  | 0x46 => some (.fsinpiBase o)
  | 0x47 => some (.fcospiBase o)
  | 0x50 => some (.hadd2Base o)
  | 0x51 => some (.hmul2Base o)
  | 0x53 => some (.hmin2Base o)
  | 0x54 => some (.hmax2Base o)
  | _ => none

/-- The instruction of any other compute word (R259, R260). -/
def mkAlu (op : Nat) (f : AluForm) : Option Instr :=
  match op with
  | 0x00 => some (.add f)
  | 0x01 => some (.sub f)
  | 0x02 => some (.mul f)
  | 0x03 => some (.mulhi f)
  | 0x04 => some (.mad f)
  | 0x05 => some (.madw f)
  | 0x06 => some (.abs f)
  | 0x07 => some (.min f)
  | 0x08 => some (.max f)
  | 0x09 => some (.addw f)
  | 0x0A => some (.subw f)
  | 0x0B => some (.cvti f)
  | 0x10 => some (.and f)
  | 0x11 => some (.or f)
  | 0x12 => some (.xor f)
  | 0x13 => some (.andn f)
  | 0x14 => some (.shl f)
  | 0x15 => some (.shr f)
  | 0x16 => some (.sar f)
  | 0x17 => some (.rot f)
  | 0x18 => some (.fsh f)
  | 0x19 => some (.bfx f)
  | 0x1A => some (.bfi f)
  | 0x1B => some (.pcnt f)
  | 0x1C => some (.clz f)
  | 0x1D => some (.brev f)
  | 0x20 => some (.cmp f)
  | 0x21 => some (.sel f)
  | 0x22 => some (.mov f)
  | 0x23 => some (.movl f)
  | 0x24 => some (.plop f)
  | 0x30 => some (.fadd f)
  | 0x31 => some (.fsub f)
  | 0x32 => some (.fmul f)
  | 0x33 => some (.ffma f)
  | 0x34 => some (.fmin f)
  | 0x35 => some (.fmax f)
  | 0x36 => some (.fcmp f)
  | 0x37 => some (.frnd f)
  | 0x38 => some (.fclass f)
  | 0x40 => some (.fdiv f)
  | 0x41 => some (.frcp f)
  | 0x42 => some (.frsq f)
  | 0x43 => some (.fsqrt f)
  | 0x44 => some (.fex2 f)
  | 0x45 => some (.flg2 f)
  | 0x46 => some (.fsinpi f)
  | 0x47 => some (.fcospi f)
  | 0x50 => some (.hadd2 f)
  | 0x51 => some (.hmul2 f)
  | 0x52 => some (.hfma2 f)
  | 0x53 => some (.hmin2 f)
  | 0x54 => some (.hmax2 f)
  | 0x55 => some (.bfma2 f)
  | 0x60 => some (.cvt f)
  | 0x61 => some (.pack f)
  | 0x62 => some (.unpack f)
  | 0x70 => some (.dp4o f)
  | 0x71 => some (.dp8o f)
  | 0x72 => some (.dp2h f)
  | 0x80 => some (.xseat f)
  | 0x81 => some (.xshf f)
  | 0x82 => some (.vote f)
  | 0x83 => some (.redo f)
  | 0x84 => some (.scano f)
  | 0x85 => some (.v2s f)
  | _ => none

/-- The instruction of a base word of CLS 10 (R261); reserved low bits must be zero. -/
def mkCtlB (op : Nat) (st : BitVec 3) (low : BitVec 17) : Option Instr :=
  match op with
  | 0x01 => some (.braBase st low)
  | 0x08 => some (.callBase st low)
  | 0x1B => if bitOf low 16 then none else some (.bkptBase st (low.setWidth 16))
  | 0x00 => if low == 0 then some (.nopBase st) else none
  | 0x0A => if low == 0 then some (.retBase st) else none
  | 0x0B => if low == 0 then some (.exitBase st) else none
  | 0x10 => if low == 0 then some (.reformBase st) else none
  | 0x19 => if low == 0 then some (.yieldBase st) else none
  | _ => none

/-- CLS 10 opcodes that have a base form (R261). -/
def ctlHasBase (op : Nat) : Bool :=
  op == 0x00 || op == 0x01 || op == 0x08 || op == 0x0A || op == 0x0B || op == 0x10 || op == 0x19 || op == 0x1B

/-- The instruction of an extended word of CLS 10 or CLS 11 (R261, R262): where the table has one row
for each kind of an opcode, MOD says which. -/
def mkExt (cls op : Nat) (f : ExtForm) : Option Instr :=
  match cls, op with
  | 2, 0x00 => some (.nop f)
  | 2, 0x01 => some (.bra f)
  | 2, 0x02 => some (.brc f)
  | 2, 0x03 => some (.bri f)
  | 2, 0x04 => some (.loop f)
  | 2, 0x08 => some (.call f)
  | 2, 0x09 => some (.callo f)
  | 2, 0x0A => some (.ret f)
  | 2, 0x0B => some (.exit f)
  | 2, 0x10 => some (.reform f)
  | 2, 0x11 => some (.region f)
  | 2, 0x12 => some (.pass f)
  | 2, 0x18 =>
    match fld f.x.mod 1 0 with
    | 0 => some (.wait f)
    | 1 => some (.waitUntil f)
    | 2 => some (.waitDrain f)
    | _ => none
  | 2, 0x19 => some (.yield f)
  | 2, 0x1A => some (.trap f)
  | 2, 0x1B => some (.bkpt f)
  | 2, 0x20 => some (.ovld f)
  | 2, 0x21 => some (.ovpin f)
  | 2, 0x22 => some (.ovunpin f)
  | 2, 0x23 => some (.ovevict f)
  | 2, 0x24 => some (.ovqry f)
  | 2, 0x28 => some (.free f)
  | 2, 0x29 => some (.rsrv f)
  | 2, 0x2A => some (.rdspc f)
  | 2, 0x2B => some (.wrspc f)
  | 2, 0x80 => some (.dwrd f)
  | 2, 0x81 => some (.dwwr f)
  | 2, 0x82 =>
    match fld f.x.mod 1 0 with
    | 0 => some (.cresume f)
    | 1 => some (.cresumeSkip f)
    | 2 => some (.cresumePc f)
    | 3 => some (.cresumePlan f)
    | _ => none
  | 2, 0x83 =>
    match fld f.x.mod 1 0 with
    | 0 => some (.ckill f)
    | 1 => some (.ckillTeam f)
    | 2 => some (.ckillPlan f)
    | _ => none
  | 2, 0x84 =>
    match fld f.x.mod 1 0 with
    | 0 => some (.cpreemptPlan f)
    | 1 => some (.cpreemptCore f)
    | 2 => some (.cpreemptQueue f)
    | _ => none
  | 2, 0x85 =>
    match fld f.x.mod 1 0 with
    | 0 => some (.tlbflPage f)
    | 1 => some (.tlbflCtx f)
    | 2 => some (.tlbflAll f)
    | _ => none
  | 2, 0x86 => some (.cfgrd f)
  | 2, 0x87 => some (.cfgwr f)
  | 2, 0x88 =>
    match fld f.x.mod 0 0 with
    | 0 => some (.evtrd f)
    | 1 => some (.evtrdFault f)
    | _ => none
  | 3, 0x00 => some (.ld f)
  | 3, 0x01 => some (.st f)
  | 3, 0x02 => some (.ldu f)
  | 3, 0x03 => some (.lda f)
  | 3, 0x04 => some (.str f)
  | 3, 0x08 => some (.atom f)
  | 3, 0x09 => some (.atomr f)
  | 3, 0x0A => some (.cas f)
  | 3, 0x10 => some (.fence f)
  | 3, 0x11 =>
    match fld f.x.mod 1 0 with
    | 0 => some (.bar f)
    | 1 => some (.barArrive f)
    | 2 => some (.barWait f)
    | _ => none
  | 3, 0x12 =>
    match fld f.x.mod 1 0 with
    | 0 => some (.bell f)
    | 1 => some (.bellArrive f)
    | 2 => some (.bellWait f)
    | 3 => some (.bellTest f)
    | _ => none
  | 3, 0x14 => some (.regacq f)
  | 3, 0x15 => some (.regtry f)
  | 3, 0x16 => some (.regrel f)
  | 3, 0x18 => some (.pref f)
  | 3, 0x20 =>
    match fld f.x.mod 9 8 with
    | 0 => some (.copyBox f)
    | 1 => some (.copyBoxst f)
    | 2 => some (.copyLin f)
    | _ => none
  | 3, 0x21 => some (.copym f)
  | 3, 0x22 => some (.twait f)
  | 3, 0x23 => some (.twany f)
  | 3, 0x24 => some (.tfind f)
  | 3, 0x25 => some (.tstat f)
  | 3, 0x26 => some (.tclr f)
  | 3, 0x28 => some (.qpush f)
  | 3, 0x29 => some (.qawait f)
  | 3, 0x2A => some (.qrel f)
  | 3, 0x2B => some (.qstat f)
  | 3, 0x30 =>
    match fld f.x.mod 9 8 with
    | 0 => some (.stageUp0 f)
    | 1 => some (.stageUp1 f)
    | 2 => some (.stageDown1 f)
    | 3 => some (.stageDown2 f)
    | _ => none
  | 3, 0x31 => some (.tierq f)
  | 3, 0x80 => some (.mwld f)
  | 3, 0x81 => some (.mstage f)
  | 3, 0x82 => some (.mma16 f)
  | 3, 0x83 => some (.mma32 f)
  | 3, 0x84 => some (.mma64 f)
  | 3, 0x85 => some (.mma128 f)
  | 3, 0x86 => some (.macc f)
  | 3, 0x87 => some (.mzero f)
  | 3, 0x88 => some (.mdrain f)
  | 3, 0x89 => some (.mstat f)
  | 3, 0x90 => some (.sld f)
  | 3, 0x91 => some (.sst f)
  | 3, 0x92 => some (.stinfo f)
  | 3, 0x93 => some (.vbmin f)
  | 3, 0x94 =>
    match fld f.x.mod 9 7 with
    | 0 => some (.bankopFill f)
    | 1 => some (.bankopScale f)
    | 2 => some (.bankopAxpby f)
    | 3 => some (.bankopConvert f)
    | 4 => some (.bankopSumrow f)
    | 5 => some (.bankopDepthclear f)
    | _ => none
  | 3, 0x95 => some (.bankst f)
  | 3, 0x98 => some (.samp f)
  | 3, 0x99 => some (.sampl f)
  | 3, 0xA0 => some (.emitv f)
  | 3, 0xA1 => some (.emitp f)
  | 3, 0xA2 => some (.meshend f)
  | 3, 0xA3 => some (.exportPix f)
  | 3, 0xA4 => some (.quadrd f)
  | 3, 0xA5 => some (.attr f)
  | 3, 0xA6 => some (.discard f)
  | _, _ => none

/-- How many sources a half opcode reads; none for an opcode that traps ILLEGAL_PAIR (R250). -/
def halfSources (pop : Nat) : Option Nat :=
  if pop == 0x00 || pop == 0x02 || pop == 0x06 || pop == 0x08 || pop == 0x09 || pop == 0x31 then some 3
  else if pop == 0x0A || pop == 0x0B || pop == 0x0C || pop == 0x32 then some 1
  else if decide (pop ≤ 0x07) || (decide (0x20 ≤ pop) && decide (pop ≤ 0x35)) then some 2
  else none

/-- A half opcode is of the V0 set (R250). -/
def halfV0 (pop : Nat) : Bool := decide (pop < 0x20)

/-- The names a half reads. -/
def Half.sources (h : Half) : List Nat :=
  match halfSources h.pop.toNat with
  | some 1 => [h.a.toNat]
  | some 2 => [h.a.toNat, h.b.toNat]
  | some 3 => [h.a.toNat, h.b.toNat, h.c.toNat]
  | _ => []

/-- The half opcode exists and its unused sources are zero, marks included (R250). -/
def Half.ok (h : Half) : Bool :=
  match halfSources h.pop.toNat with
  | none => false
  | some n => (decide (2 ≤ n) || (h.b == 0 && !h.kb)) && (decide (3 ≤ n) || (h.c == 0 && !h.kc))

/-- Each value once, in order of first appearance. -/
def distinct : List Nat → List Nat
  | [] => []
  | x :: xs => x :: (distinct xs).filter (· != x)

/-- At most two distinct source names of both halves lie in one bank (R251). -/
def pairBanksOk (p : PairOps) : Bool :=
  let ns := distinct (p.x.sources ++ p.y.sources)
  (List.range 4).all fun b => decide ((ns.filter fun n => n % 4 == b).length ≤ 2)

/-- A pair word is legal (R250, R251). -/
def pairOk (p : PairOps) : Bool :=
  p.x.ok && p.y.ok && !halfV0 p.y.pop.toNat && pairBanksOk p &&
  !(p.x.d.toNat % 4 == p.y.d.toNat % 4)

/-- One more than the highest vector name an operand field covers, 0 for none. -/
def Opnd.top (o : Opnd) (u : Use) : Nat := if u.used && !o.kind then o.idx.toNat + u.n else 0

/-- One more than the highest vector name a base word covers. -/
def baseTop (i : AluInfo) (c : Cls) (o : BaseOps) : Nat :=
  if c == .uni then 0
  else Nat.max (o.d.toNat + (i.ud .vec .zero).n)
    (if (i.ua .vec .zero).used then o.a.toNat + (i.ua .vec .zero).n else 0)

/-- One more than the highest vector name a compute word covers, the pair word apart (R65). -/
def aluTop (op : Nat) (f : AluForm) : Nat :=
  match aluInfo op with
  | none => 0
  | some i =>
    match f with
    | .ub _ => 0
    | .bl c o _ => baseTop i c o
    | .e c x => Nat.max (x.d.top (i.ud c x)) (Nat.max (x.a.top (i.ua c x))
        (Nat.max (x.b.top (i.ub c x)) (x.c.top (i.uc c x))))
    | .el c x _ => Nat.max (x.d.top (i.ud c x)) (Nat.max (x.a.top (i.ua c x)) (x.c.top (i.uc c x)))

/-- The list of vector names of FREE, RSRV and REGION: a literal mask over v0 to v63 or v64 to v127, or
IMM16 over sixteen names (R292). -/
def listNames (x : Ext) (lit : Option DWord) : List Nat :=
  match lit with
  | some l => ((List.range 64).filter fun i => l.toNat.testBit i).map (· + 64 * fld x.mod 0 0)
  | none => ((List.range 16).filter fun i => x.imm.toNat.testBit i).map (· + 16 * fld x.mod 2 0)

/-- One more than the highest vector name an extended word covers, those of a list among them (R65, R292). -/
def extTop (cls op : Nat) (f : ExtForm) : Nat :=
  match extInfo cls op with
  | none => 0
  | some i =>
    let x := f.x
    let b := if f.lit.isSome then 0 else x.b.top (i.ub x)
    let l := if cls == 2 && (op == 0x11 || op == 0x28 || op == 0x29) then
        (listNames x f.lit).foldl (fun m n => Nat.max m (n + 1)) 0 else 0
    Nat.max (Nat.max l (x.d.top (i.ud x))) (Nat.max (x.a.top (i.ua x)) (Nat.max b (x.c.top (i.uc x))))

/-- One more than the highest vector name a pair word covers. -/
def pairTop (p : PairOps) : Nat :=
  (p.x.sources ++ p.y.sources ++ [p.x.d.toNat, p.y.d.toNat]).foldl (fun m n => Nat.max m (n + 1)) 0

/-- The level a SCOPE code names, one more than its number, or 0 (R355). -/
def scopeLevel (cls op : Nat) (x : Ext) : Nat :=
  let code := if cls != 3 then 0
    else if op == 0x03 || op == 0x04 || op == 0x10 then fld x.mod 9 6
    else if op == 0x08 || op == 0x09 || op == 0x0A then fld x.mod 7 4
    else 0
  if 8 ≤ code then code - 7 else 0

end Sys2Proof
end

