-- ==== Sys2Proof/Config.lean ====
section
/-! DEFINITION. What the manual leaves to the device and the model leaves open: constants without a body
(log entries 2 and 5), the model's fixed bounds, and the machine's fixed numbers. -/

namespace Sys2Proof.Config

/-- A value that the manual leaves open, by a counter in the state (log entry 2). -/
opaque freeBit : Nat → Bool

/-- A choice that the manual leaves open, by a counter in the state (log entry 2). -/
opaque freeNat : Nat → Nat

/-- The set of a stacked-cache slice that a 256-byte line falls in (R149 does not say; log entry 2). -/
opaque cacheSet : Nat → Nat

/-- After how many cycles at most an event that is due is offered (log entry 52). -/
opaque patience : Nat

/-- The device's private compressed form of a tile (R156; log entry 5). -/
opaque compress : List Byte → List Byte

/-- The fused 32-byte seed of the identity key (R430; log entry 5). -/
opaque fusedSeed : BitVec 256

/-- The random value of an ML-DSA-87 signature, by the number of datagrams sent before (R430; log entry 72). -/
opaque signRandom : Nat → BitVec 256

/-- The fused SHA3-512 digest of the vendor public key (R428; log entry 5). -/
opaque vendorKeyDigest : List Byte

/-- The fused minimum security version number (R428; log entry 5). -/
opaque minSvn : Nat

/-- The MAC address fused at manufacture (R421; log entry 5). -/
opaque macAddress : BitVec 48

end Sys2Proof.Config
end

