-- ==== Sys2Proof/Machine/State.lean ====
section
/-! DEFINITION. The machine's state as plain data, its faults and refusals, and the state after reset. -/

namespace Sys2Proof.Machine

/-- Why the model stops. -/
inductive Fault where
  /-- Raised by every meaning of an instruction word when no cohort is issuing (no step does that; safe). -/
  | noIssuer
  deriving DecidableEq, Repr

/-- Why an instruction has no meaning. -/
inductive Refusal where
  /-- Raised by a dispatch arm of an instruction that has no meaning yet (safe). -/
  | notModelled (mnemonic : String)
  deriving DecidableEq, Repr

/-- Entries by number, keys strictly rising. -/
abbrev AMap (β : Type) := List (Nat × β)

/-- Bytes by address, addresses strictly rising, no zero byte listed; an unlisted address reads 0
(log entry 4). -/
abbrev Memory := List Host.Cell

/-- The trap codes (R405). -/
inductive TrapCode where
  | illegalOpcode | illegalField | illegalPair | stallShort | privileged
  | pageFault | protection | misaligned | spaceBound | race
  | overlayMiss | callDepth | badTarget | passbackTwice | passbackRange
  | swTrap | breakpoint | engineFault | queueFault
  deriving DecidableEq, Repr

/-- A trap record (R408), its cause-specific bytes as four doublewords. -/
structure TrapRec where
  code : TrapCode
  cause : Nat := 0
  nostop : Bool := false
  proc : Bool := false
  core : Nat := 0
  count : Nat := 1
  ctx : Nat := 0
  handle : DWord := 0
  rpc : Word := 0
  tpc : Word := 0
  lin : Nat := 0
  lane : Nat := 0
  info0 : DWord := 0
  info1 : DWord := 0
  info2 : DWord := 0
  info3 : DWord := 0
  deriving DecidableEq, Repr

/-- An event record (R432). -/
structure EventRec where
  src : Nat
  kind : Nat
  seq : Nat
  ctx : Nat
  arg0 : DWord
  arg1 : DWord
  clk : Nat
  deriving DecidableEq, Repr

/-- A name's mapping (R66): the row, physical below 2,048 (bank row / 512) and cloak row from 2,048, and the value. -/
structure NameVal where
  row : Nat
  val : Word
  deriving DecidableEq, Repr

/-- A checkpoint slot (R85): region head, live-ins with their values (none: unmapped), predicates. -/
structure Ckpt where
  head : Word := 0
  live : List (Nat × Option Word) := []
  preds : BitVec 7 := 0
  deriving DecidableEq, Repr

/-- Where a thread is (R46). -/
inductive Place where
  /-- in a cohort, cloaked or not -/
  | cohort (id : Nat)
  | bin (unit n : Nat)
  /-- in a launch cohort that waits for a context (R435) -/
  | waiting (lcoh : Nat)
  /-- saved with its pre-empted team -/
  | saved
  | exited
  /-- lost in a column fence (R419) -/
  | lost
  deriving DecidableEq, Repr

/-- What a pending write writes (R70). -/
inductive Target where
  | name (n : Nat)
  | ureg (n : Nat)
  | pred (p : Nat)
  deriving DecidableEq, Repr

/-- An outstanding write of a thread (a name or a predicate) or of a cohort (a uniform register): the word's
number, its write time or, for a variable-latency result, the earliest cycle at which it may be written, the
value, the row taken when the thread has no mapping (R68), whether a last-read mark releases the mapping
right after (R71), the thread and name that a slow-path seat read samples (R47), whether a scoreboarded
result is written at `due` itself (R341), whether the checkpoint that a call or return has rewritten takes the
value (R289), whether a surface access that gives the value has still to be performed (R379), and the threads that executed
the seat read of which it is one thread's value (R341). -/
structure Pend where
  id : Nat
  tgt : Target
  var : Bool
  due : Nat
  val : DWord
  row : Option Nat := none
  release : Bool := false
  seat : Option (Nat × Nat) := none
  timed : Bool := false
  ckpt : Bool := false
  held : Bool := false
  peers : List Nat := []
  deriving DecidableEq, Repr

/-- A thread (R13). -/
structure Thread where
  launch : Nat
  team : Nat
  lin : Nat
  seat : Nat
  unit : Nat
  part : Nat
  lane : Nat
  lcoh : Nat
  place : Place
  names : AMap NameVal := []
  preds : BitVec 7 := 0
  writes : List Pend := []
  /-- return-pin stack, top first (R97) -/
  stack : List Word := []
  /-- region head (R85) -/
  head : Word := 0
  /-- live-in set (R85) -/
  live : List Nat := []
  ckpt : Ckpt := {}
  restartable : Bool := true
  /-- OVST.LAST (R84) -/
  last : Byte := 0
  /-- published passback names (R50) -/
  published : List Nat := []
  /-- barrier generation recorded by an arrival or wait (R360) -/
  barRec : Option Nat := none
  /-- bell records by line (R361) -/
  bells : AMap Nat := []
  /-- arrived at the open meshlet (R399) -/
  meshArr : Bool := false
  /-- quad and pixel of a pixel-stage thread (R222) -/
  quad : Option Nat := none
  pix : Nat := 0
  /-- executed DISCARD (R403) -/
  disc : Bool := false
  /-- exported colours by target, four words each (R402) -/
  exports : AMap (List Word) := []
  zexp : Option Word := none
  deriving DecidableEq, Repr

/-- Why a word at the PC has not issued. -/
inductive Stall where
  /-- an operand or a destination has an outstanding write (R256, R257) -/
  | scoreboard
  /-- a second word of the cycle that reads what the first writes (R39) -/
  | second
  /-- too few free rows (R73): the bank of each row that the word needs -/
  | grow (banks : List Nat)
  /-- values of passback names at a distance: first name, distance, number of names, the threads that read (R53) -/
  | passback (name k n : Nat) (threads : List Nat)
  /-- every tag, or some tag, of the mask (R366), for these threads -/
  | tag (any : Bool) (mask : DWord) (pd d : Nat) (threads : List Nat)
  /-- room in a queue of a thread's plan (R373) -/
  | queueRoom (thread queue : Nat)
  /-- the next records of the claim of a thread's launch, some not filled yet (R374) -/
  | queueRecords (thread n : Nat)
  | hallPass (n : Nat)
  /-- an occupied staged-command slot (R385) -/
  | staged (slot : Nat)
  | matrixQueue
  /-- a BANKOP record of a team that is not done, or, from 8, any free one (R393, R394) -/
  | bankRecord (team rec : Nat)
  | meshlet (threads : List Nat)
  /-- a segment is in transition (R178) -/
  | transition
  | drain
  /-- an earlier access or write of an exiting thread (R290) -/
  | settle
  /-- the barrier generation that counts a thread already must complete first (R360) -/
  | instruction
  deriving DecidableEq, Repr

/-- Who asks for an overlay: tenant, table address, index (R94, R100). -/
structure OvRef where
  tenant : Nat
  table : Nat
  index : Nat
  deriving DecidableEq, Repr

/-- What a cohort waits on. -/
inductive Wait where
  | none
  /-- the word at the PC is tried again; `tried` is the cycle of the last try -/
  | stall (r : Stall) (tried : Nat)
  /-- WAIT, and REGION's checkpoint (R295, R293); whether a fault record ends it (R411) -/
  | clock (t : Nat) (early : Bool)
  /-- the team barrier: threads still to be counted in the next generation, whether the word waits, and the threads (R360) -/
  | barrier (late : List Nat) (wait : Bool) (threads : List Nat)
  | bell (line : Nat) (threads : List Nat)
  /-- CALLO waits for a load: overlay, entry, stall count of the word (R287) -/
  | overlay (ref : OvRef) (entry : Nat) (st : Nat)
  /-- matrix commands waited for, the destination register (R386) -/
  | mstat (cmds : List Nat) (d : Nat)
  /-- CPREEMPT: teams whose state is not saved yet, teams saved, the destination register (R310) -/
  | preempt (teams : List Nat) (n d : Nat)
  deriving DecidableEq, Repr

/-- A pending group (R43). -/
structure Group where
  pc : Word
  threads : List Nat
  deriving DecidableEq, Repr

/-- A cohort stopped by a trap (R406). -/
structure Stop where
  code : TrapCode
  stopno : Word
  /-- resume PC (R308) -/
  rpc : Word
  tpc : Word
  /-- words of the trapping instruction -/
  len : Nat
  handle : DWord
  /-- handle of the record that its record joined, which CRESUME and CKILL name (R412) -/
  lead : DWord
  deriving DecidableEq, Repr

/-- Cloaking of a cohort (R76 to R79). -/
inductive Cloak where
  | no
  | cloaking (due : Nat) (needsWait : Bool)
  /-- cloaked; whether recall needs its wait condition (R77, R78) -/
  | cloaked (needsWait : Bool)
  | recalling (due : Nat)
  deriving DecidableEq, Repr

/-- Whether a cohort leaves under pre-emption: since when, or stopped, at a safe point or whole (R415). -/
inductive Leave where
  | no
  | since (clk : Nat)
  | stopped (whole : Bool)
  deriving DecidableEq, Repr

/-- A cohort (R14). -/
structure Cohort where
  unit : Nat
  part : Nat
  ctx : Nat
  launch : Nat
  /-- formation stamp -/
  stamp : Nat
  pc : Word
  active : List Nat
  groups : List Group := []
  /-- uniform registers; an unlisted one reads 0 (R81) -/
  uregs : AMap DWord := []
  writes : List Pend := []
  /-- the earliest cycle in which the next word may issue (R255) -/
  nextIssue : Nat := 0
  /-- cycles issued as current cohort (R38) -/
  issued : Nat := 0
  capMark : Bool := false
  wait : Wait := .none
  waitSince : Nat := 0
  /-- records already committed by a QPUSH that waits for room (R373) -/
  pushed : Nat := 0
  stop : Option Stop := none
  cloak : Cloak := .no
  leave : Leave := .no
  /-- proctor mode (R306) -/
  priv : Bool := false
  deriving DecidableEq, Repr

/-- The release condition of a held bin (R41). -/
inductive BinCond where
  | openBin
  /-- each thread's passback values are published: first name, distance, number of names -/
  | passback (name k n : Nat)
  | barrier
  | tag (any : Bool) (mask : DWord) (pd d : Nat)
  /-- the meshlet of each thread's team has been taken by the rasteriser (R399) -/
  | meshlet
  deriving DecidableEq, Repr

/-- A thread in a bin with its filing time, and whether the end of the bin's wait is an end of its own wait. In a bin held until
a barrier completes (R41): the generations, by team, that have to complete, and whether it is still to be counted in the next
generation of its team (R360). -/
structure Filed where
  thread : Nat
  time : Nat
  waits : Bool := false
  gens : List (Nat × Nat) := []
  late : Bool := false
  deriving DecidableEq, Repr

/-- A homeroom bin that is not empty (R40). -/
structure Bin where
  launch : Nat
  pc : Word
  cond : BinCond
  threads : List Filed
  uregs : AMap DWord := []
  priv : Bool := false
  /-- its oldest thread has waited AGE cycles (R44) -/
  aged : Bool := false
  deriving DecidableEq, Repr

/-- A launch cohort (R36). -/
structure LaunchCohort where
  team : Nat
  unit : Nat
  part : Nat
  threads : List Nat
  /-- waits for a context at this entry PC (R435) -/
  waiting : Option Word := none
  deriving DecidableEq, Repr

/-- A level of a level structure (R21). -/
structure Level where
  extent : Nat
  domain : Nat
  scope : Nat
  deriving DecidableEq, Repr

/-- A consumer stage (R57). -/
structure Stage where
  batch : Nat
  levels : List Level
  teamlv : Nat
  fixed : Bool
  entryov : Nat
  entryix : Nat
  queue : Nat
  deriving DecidableEq, Repr

/-- A fused ring (R61) of a plan's stage: core, slot count, slot size, base in the scratchpad, the slots whose records
are unclaimed, in order, and those whose records are claimed, or taken and not yet released. -/
structure Ring where
  plan : Nat
  stage : Nat
  unit : Nat
  slots : Nat
  size : Nat
  base : Nat
  held : List Nat := []
  out : List Nat := []
  deriving DecidableEq, Repr

/-- A record of a stage's queue that a launch has claimed (R374): of the queue in memory, or in a slot of a ring. -/
inductive QRec where
  | mem (n : Nat)
  | ring (id slot : Nat)
  deriving DecidableEq, Repr

/-- A launch (R16). -/
structure Launch where
  plan : Nat
  stage : Nat
  levels : List Level
  teamlv : Nat
  total : Nat
  teamSize : Nat
  nextTeam : Nat := 0
  entry : Word := 0
  entryix : Nat := 0
  /-- claimed records not yet taken, and those taken and not released, oldest first (R374, R375) -/
  claim : List QRec := []
  taken : List QRec := []
  /-- the ring with which it is fused (R61) -/
  ring : Option Nat := none
  quads : List Nat := []
  /-- the core of a pixel-stage launch (R222) -/
  fixed : Option Nat := none
  /-- numbers of teams that were lost and are placed again (R420) -/
  again : List Nat := []
  deriving DecidableEq, Repr

/-- A BANKOP record (R393). -/
structure BankRec where
  busy : Bool := false
  jobs : Nat := 0
  acc : List Word := List.replicate 16 0
  deriving DecidableEq, Repr

/-- A triangle of a meshlet. -/
structure Tri where
  a : Nat
  b : Nat
  c : Nat
  deriving DecidableEq, Repr

/-- A meshlet buffer or closed meshlet (R216, R217): its pair, its vertex words (20 to a vertex) and triangles. -/
structure Meshlet where
  plan : Nat
  team : Nat
  unit : Nat
  pair : Option (Nat × Nat) := none
  verts : AMap Word := []
  tris : List Tri := []
  closed : Bool := false
  deriving DecidableEq, Repr

/-- A draw state record's blend word (R214). -/
structure Blend where
  ben : Bool
  srcc : Nat
  dstc : Nat
  opc : Nat
  srca : Nat
  dsta : Nat
  opa : Nat
  wmask : BitVec 4
  deriving DecidableEq, Repr

/-- A draw state record (R214), with whether the draw is invalid (R215). -/
structure Draw where
  hw : Word
  cx : Word
  hh : Word
  cy : Word
  dz : Word
  oz : Word
  sx0 : Nat
  sy0 : Nat
  sx1 : Nat
  sy1 : Nat
  mcount : Nat
  cull : Nat
  dfunc : Nat
  dwrite : Bool
  den : Bool
  nct : Nat
  nattr : Nat
  dslot : Nat
  ct : List Nat
  blend : List Blend
  k : List Word
  invalid : Bool
  deriving DecidableEq, Repr

/-- A lesson plan (R17 to R28) as the dispatcher holds it. -/
structure Plan where
  addr : Nat
  ctx : Nat
  queue : Nat
  prio : Nat
  draw : Bool := false
  menu : Nat := 2
  passk : Nat := 0
  check : Bool := false
  restart : Bool := false
  sigen : Bool := false
  ovtab : Nat := 0
  entryov : Nat := 0
  entryix : Nat := 0
  age : Nat := 1024
  rowmin : Nat := 1
  rowmax : Nat := 128
  acct : Nat := 0
  spwin : Nat := 0
  levels : List Level := []
  teamlv : Nat := 0
  /-- passback names and seeds (R22) -/
  pass : List (Nat × Word) := []
  /-- bound windows: base and size (R23) -/
  wins : AMap (Nat × Nat) := []
  /-- counter waits (R24) -/
  waits : List (Nat × Nat) := []
  signal : Nat := 0
  stages : List Stage := []
  /-- the record has been read whole and checked -/
  parsed : Bool := false
  /-- a team has been placed; the record number at which the first was -/
  begun : Bool := false
  begunAt : Nat := 0
  /-- the plan has left the head of its queue -/
  left : Bool := false
  killed : Bool := false
  done : Bool := false
  /-- draw records, read when the first team is placed (R159, R215) -/
  draws : List Draw := []
  /-- records of inbound queues placed after the stages below theirs were complete: stage, record (R423) -/
  late : List (Nat × Nat) := []
  /-- stages whose tail launch has been made (R60) -/
  tails : List Nat := []
  /-- cores, by stage, that a failed load keeps from the next placement decision (R35) -/
  noSlot : List (Nat × Nat) := []
  /-- shares of cores by stage (R62): core, stage -/
  assign : List (Nat × Nat) := []
  /-- stages that are still due cores beyond those of the plan, as cores free (R62): stage, number -/
  owed : List (Nat × Nat) := []
  /-- DEMAND by launch and core is kept with the plan: launch, core, count (R84) -/
  demand : List (Nat × Nat × Nat) := []
  deriving DecidableEq, Repr

/-- A passback note (R54). -/
structure Note where
  launch : Nat
  lin : Nat
  name : Nat
  val : Word
  /-- the producer's core and the cycle of publication -/
  unit : Nat
  time : Nat
  deriving DecidableEq, Repr

/-- A resident image (R89 to R91, R100). -/
structure Image where
  id : Nat
  share : Bool
  len : Nat
  digest : List Byte
  words : List Word
  /-- the views it is in (R94) -/
  views : List OvRef
  /-- cycle of its last use (R96) -/
  used : Nat := 0
  /-- the load that has reserved it as a victim (R96) -/
  reserved : Option Nat := none
  deriving DecidableEq, Repr

/-- A load under way (R93). -/
structure Load where
  id : Nat
  ref : OvRef
  /-- proctor mode of the requester -/
  priv : Bool
  /-- tags that its completion acts on, with the team of the OVLD (R300, R365) -/
  tags : List (Nat × Nat) := []
  /-- plans and stages for which the dispatcher loads it (R35) -/
  disp : List (Nat × Nat) := []
  /-- the status already known, when step 1 or 2 failed -/
  fail : Option Nat := none
  len : Nat := 0
  image : Nat := 0
  digest : List Byte := []
  share : Bool := false
  privOv : Bool := false
  /-- free slots it has taken (R96) -/
  slots : Nat := 0
  /-- the load of the same shareable overlay that it has joined (R93, R100) -/
  follows : Option Nat := none
  /-- its entry is still to be read (R93, R178) -/
  unread : Bool := false
  deriving DecidableEq, Repr

/-- The last completed load of an overlay (R302). -/
structure LastLoad where
  ref : OvRef
  status : Nat
  /-- LEN and DIGEST of a shareable overlay, which is identified by them (R100) -/
  ident : Option (Nat × List Byte) := none
  deriving DecidableEq, Repr

/-- A matrix command (R207 to R211, R380 to R384): 0 MWLD, 1 MMA, 2 MACC, 3 MZERO, 4 MDRAIN. -/
structure MCmd where
  id : Nat
  op : Nat
  team : Nat
  half : Nat := 0
  fmt : Nat := 0
  acc : Nat := 0
  src : Nat := 0
  row0 : Nat := 0
  rows : Nat := 0
  int : Bool := false
  unit : Bool := false
  nocs : Bool := false
  /-- offsets of the operands in the team's window: first, second, third -/
  pa : Nat := 0
  pb : Nat := 0
  pc : Nat := 0
  tag : Option Nat := none
  /-- started: the cycle at which it completes -/
  due : Option Nat := none
  /-- passes already done (R208, R212) -/
  pass : Nat := 0
  deriving DecidableEq, Repr

/-- A latch half (R203): its format code (R381), the tile's 8 KiB, zero points and column scales; busy while a load runs. -/
structure LatchHalf where
  fmt : Nat
  tile : List Byte
  zp : List Byte
  cs : List Word
  deriving DecidableEq, Repr

/-- A staged-command slot (R385). -/
inductive Staged where
  | empty
  | loaded (c : MCmd)
  | occupied (c : MCmd)
  deriving DecidableEq, Repr

/-- The matrix array of a core (R203). -/
structure Matrix where
  halves : AMap LatchHalf := []
  /-- issued state of each half: its format (R380) -/
  issued : AMap Nat := []
  /-- accumulator elements by 8192 × tile + 64 × row + column; an unlisted one is +0 -/
  tiles : AMap Word := []
  slots : AMap Staged := []
  queue : List MCmd := []
  deriving DecidableEq, Repr

/-- What the extent of a pre-empted team holds beside its threads' own state (R415), by core that it left: windows as bytes
from offset 0, matrix arrays, whole-saved cohorts with the launch cohort of each, groups of filed threads, overlay loads
that count on tags. -/
structure Save where
  wins : AMap Memory := []
  mx : AMap Matrix := []
  cohorts : List (Nat × Cohort) := []
  bins : List (Nat × Bin) := []
  loads : List (Nat × Nat × OvRef) := []
  deriving DecidableEq, Repr

/-- A team (R15). -/
structure Team where
  launch : Nat
  num : Nat
  /-- its cores in seat order of their launch cohorts -/
  units : List Nat
  /-- scratchpad base of its window on each core -/
  windows : AMap Nat
  threads : List Nat
  barGen : Nat := 0
  counted : List Nat := []
  /-- explicit pins by core: overlay index and count (R301) -/
  pins : List (Nat × Nat × Nat) := []
  /-- hall-pass holds: pass, core, count (R192) -/
  holds : List (Nat × Nat × Nat) := []
  banks : AMap BankRec := []
  mesh : Option Meshlet := none
  lastPair : Option (Nat × Nat) := none
  /-- marked leaving since this cycle, every cohort of it stopped since this cycle, HOLD = 1, its extent of the save
  region in bytes (R310, R415) -/
  leaving : Option Nat := none
  still : Option Nat := none
  held : Bool := false
  extent : Nat := 0
  save : Option Save := none
  /-- matrix commands that complete before a word of the resumed team issues (R212): core, number -/
  resuming : List (Nat × Nat) := []
  exited : Bool := false
  deriving DecidableEq, Repr

/-- A tag (R365). -/
structure Tag where
  count : Nat := 0
  done : Bool := false
  err : Bool := false
  deriving DecidableEq, Repr

/-- Conversion of a core (R145), and the launch whose team it is for. -/
inductive Conv where
  | none
  | draining (menu launch : Nat)
  | converting (menu launch due : Nat)
  deriving DecidableEq, Repr

/-- A TLB entry: context, first page, pages covered, the leaf and whether it is privileged. -/
structure TlbEntry where
  ctx : Nat
  page : Nat
  pages : Nat
  leaf : DWord
  deriving DecidableEq, Repr

/-- A 256-byte block held in an L1: the context that brought it in, and whether it is to be written back (R144, R180). -/
structure L1Line where
  block : Nat
  ctx : Nat
  dirty : Bool
  deriving DecidableEq, Repr

/-- A core, or the unit on which a proctor runs (the numbers 256 to 287 and 288). -/
structure Core where
  carve : Nat := 2
  conv : Conv := .none
  scratch : Memory := []
  images : List Image := []
  loads : List Load := []
  lastLoads : List LastLoad := []
  /-- CC.QUOTA by tenant; unlisted: 64 for tenant 0, else 0 (R313) -/
  quota : AMap Nat := []
  tags : AMap Tag := []
  stopno : Word := 0
  bins : AMap Bin := []
  /-- next formation stamp and current cohort of each partition -/
  stamps : AMap Nat := []
  current : AMap Nat := []
  mx : Matrix := {}
  /-- closed meshlets (R217) -/
  closed : List Meshlet := []
  dwsel : DWord := 0
  tlb : List TlbEntry := []
  /-- trap records that wait for room in the fault queue (R411) -/
  held : List TrapRec := []
  bken : Bool := true
  retain : Word := 50000
  safelim : Word := 17500
  drain : Word := 35000
  fenced : Bool := false
  cecnt : DWord := 0
  uecnt : DWord := 0
  evwin : DWord := 0
  evras : DWord := 0
  uefence : BitVec 16 := 0
  ovfl : BitVec 14 := 0
  pcap : BitVec 4 := 0
  hubport : DWord := 0
  thermal : Bool := false
  /-- last access, retained, and end of wake, by layer of the column (R171) -/
  access : AMap Nat := []
  retained : List Nat := []
  waking : AMap Nat := []
  /-- the L1, most recently used first -/
  l1 : List L1Line := []
  deriving DecidableEq, Repr

/-- A directory entry (R178): holders with their marks (a scope code or none), owned or shared, in
transition, and the release record (R187): core, scope and 8-byte units. -/
structure Segment where
  own : Bool := false
  holders : List (Nat × Option Nat) := []
  trn : Bool := false
  rel : Option (Nat × Nat × List Nat) := none
  deriving DecidableEq, Repr

/-- What is done to a directory entry, or to a queue in memory, without a word, copy or request that waits for it (R178): the
release of a core at a scope (R180), a core's leaving (R179), the holders other than a core giving way to its pass (R190), the
advance of a queue's RD (R375), the discarding of a queue's records (R309). -/
inductive HubAct where
  | release (core scope : Nat)
  | leave (core : Nat)
  | giveWay (core : Nat)
  | advance (plan stage : Nat)
  | discard (ctx addr : Nat)
  deriving DecidableEq, Repr

/-- Who waits at the directory or for a bank (R171, R178): a cohort, copy, stage, load, inbound request or LAUNCH by its number; the
fill or spill of a tile; the dispatcher, for the tables of a plan (stage 0) or the queue of one of its stages; the context boundary;
or what the hub has to do, numbered in order of arrival. -/
inductive Waiter where
  | req (id : Nat)
  | tile (key : TileKey)
  | plan (id stage : Nat)
  | boundary
  | act (id : Nat) (what : HubAct)
  deriving DecidableEq, Repr

/-- A hall-pass entry (R189, R190). -/
structure HallPass where
  valid : Bool := false
  base : Nat := 0
  nseg : Nat := 0
  holder : Option Nat := none
  count : Nat := 0
  queue : List Nat := []
  deriving DecidableEq, Repr

/-- A generation of a bell line that has begun: its number, the cycle at which the waiters of earlier generations are released
(R198), and whether BL.GEN has not been written since (R313). -/
structure BellTurn where
  gen : Nat
  due : Nat
  live : Bool := true
  deriving DecidableEq, Repr

/-- A bell line (R197), with the generations whose waiters are still to be released. -/
structure Bell where
  target : Word := 0
  gen : Word := 0
  count : Nat := 0
  releasing : List BellTurn := []
  /-- the generation as waiters see it: the latest whose waiters have been released -/
  opened : Nat := 0
  deriving DecidableEq, Repr

/-- A line of the stacked cache: its slice and the set of it. -/
structure Line where
  line : Nat
  slice : Nat
  set : Nat
  owner : Nat
  dirty : Bool
  hit : Bool
  deriving DecidableEq, Repr

/-- A tensor layout record (R161). -/
structure Layout where
  surface : Bool
  ndim : Nat
  efmt : Nat
  fill : Nat
  base : Nat
  ext : List Nat
  /-- byte strides of dimensions 0 to 4; that of dimension 0 is 0 -/
  stride : List Nat
  box : List Nat
  hb : List Nat
  ha : List Nat
  swz : Nat
  planes : Bool
  pitch : Nat
  deriving DecidableEq, Repr

/-- A request of a copy to a peer that is not answered yet (R426): its number, the queue pair, whether it is a write, its bytes,
the address accessed with the level and the leaf that its page has. -/
structure Await where
  req : Nat
  qpn : Nat
  write : Bool
  n : Nat
  va : Nat
  level : Nat
  leaf : DWord
  deriving DecidableEq, Repr

/-- A copy in flight (R367 to R371). -/
structure Copy where
  id : Nat
  unit : Nat
  ctx : Nat
  team : Nat
  plan : Nat
  thread : Nat
  /-- 0 BOX, 1 BOXST, 2 LIN -/
  kind : Nat
  tag : Nat
  cp : Nat
  /-- source, or layout record; destination, or scratchpad offset; length -/
  a : Nat
  b : Nat
  len : Nat
  dsp : Bool
  ssp : Bool
  lay : Option Layout
  origin : List Int
  /-- COPYM's staged-command slot -/
  slot : Option Nat
  pc : Word
  lin : Nat
  lane : Nat
  priv : Bool
  /-- squashed by a pre-emption; replayed on resumption (R415) -/
  squashed : Bool := false
  /-- bytes (LIN) or elements (BOX) already transferred -/
  done : Nat := 0
  /-- touches a REMOTE page (R201) -/
  remote : Bool := false
  await : Option Await := none
  /-- what has been read, or written, of the element under way; of elements of less than a byte, the destination bytes as far as
  they are made up -/
  part : List Byte := []
  /-- failed 4 KiB blocks of the destination (R169) -/
  bad : List Nat := []
  /-- ended at a failing block; a flash block could not be read; every write performed -/
  failed : Bool := false
  err : Bool := false
  landed : Bool := false
  deriving DecidableEq, Repr

/-- A STAGE request in flight (R167, R376). -/
structure StageReq where
  id : Nat
  unit : Nat
  ctx : Nat
  team : Nat
  plan : Nat
  kind : Nat
  tag : Nat
  src : Nat
  dst : Nat
  len : Nat
  pc : Word
  lin : Nat
  lane : Nat
  priv : Bool
  squashed : Bool := false
  deriving DecidableEq, Repr

/-- Memory and the hub's tables. -/
structure Mem where
  gddr : Memory := []
  flash : Memory := []
  /-- poisoned 64-byte blocks of GDDR7 (R431) -/
  poison : List Nat := []
  dir : AMap Segment := []
  passes : AMap HallPass := []
  bells : AMap Bell := []
  l2 : List Line := []
  /-- dead-line counters of the slices: 65,536 × slice + the region's entry (R152) -/
  dead : AMap Nat := []
  /-- who waits at the directory, in order of arrival, with the segments that are to be accessed (R178) -/
  waiting : List (Waiter × List Nat) := []
  copies : List Copy := []
  stages : List StageReq := []
  /-- TLBs of the clusters (R418) -/
  ctlb : AMap (List TlbEntry) := []
  deriving DecidableEq, Repr

/-- A bound surface table entry (R153, R159); one bound as empty has no levels. -/
structure Ste where
  damage : Bool := false
  load : Bool
  keep : Bool
  fmt : Nat
  nl : Nat
  wm1 : Nat
  hm1 : Nat
  spill : Nat
  /-- the record number at which this binding came into force; a plan with a later one was placed under it -/
  since : Nat := 0
  /-- the 32 bytes as read, DAMAGE cleared -/
  raw : List Byte := []
  deriving DecidableEq, Repr

/-- The states of a tile (R157). -/
inductive TileState where
  | resident | spilling | spilled | filling
  deriving DecidableEq, Repr

/-- A surface tile (R154 to R158). -/
structure Tile where
  key : TileKey
  st : TileState
  /-- a fill waits for a frame (R158) -/
  wants : Bool := false
  dirty : Bool := false
  blank : Bool := false
  /-- the spill slot holds the tile as it is -/
  current : Bool := false
  /-- the spill slot holds the raw form -/
  raw : Bool := true
  /-- what the tile holds -/
  bytes : List Byte
  /-- poisoned 64-byte blocks of the frame -/
  poison : List Nat := []
  deriving DecidableEq, Repr

/-- A job of a bank unit (R231). -/
structure Job where
  id : Nat
  team : Nat
  record : Nat
  plan : Nat
  op : Nat
  tile : TileKey
  alpha : Word
  beta : Word
  rc : Nat := 0
  acc : List Word := List.replicate 16 0
  running : Bool := false
  suspended : Bool := false
  /-- its request has been refused six cycles running (R234) -/
  promoted : Bool := false
  deriving DecidableEq, Repr

/-- A thread's surface access that has been issued and not performed yet (R157, R379): 0 load, 1 store, 2 visibility minimum,
3 sample; the pixel; the data to be stored, of a sample u, v and its level of detail; the channels that a store writes; the
sampler state word; and the first name and the number of the word of the result. -/
structure SurfReq where
  id : Nat
  thread : Nat
  kind : Nat
  ctx : Nat
  slot : Nat
  level : Nat
  x : Nat := 0
  y : Nat := 0
  raw : Bool := false
  data : List Word := []
  chans : List Nat := []
  sampler : DWord := 0
  d : Nat := 0
  word : Nat := 0
  deriving DecidableEq, Repr

/-- Bound surfaces, tiles (least recently used first) and bank units. -/
structure Surf where
  bound : AMap Ste := []
  tiles : List Tile := []
  reqs : List SurfReq := []
  /-- requests that wait for tiles in order of arrival (R157): a surface access, a copy or a completed quad, and its tiles -/
  order : List (Nat × List TileKey) := []
  jobs : List Job := []
  deriving DecidableEq, Repr

/-- A quad (R219). -/
structure Quad where
  id : Nat
  plan : Nat
  d : Nat
  m : Nat
  prim : Nat
  x : Nat
  y : Nat
  cov : BitVec 4
  back : Bool
  tile : TileKey
  ordinal : Nat
  /-- the words of its triangle's vertices, 1 and 2 exchanged when it is back-facing (R136) -/
  verts : List (List Word)
  /-- the core of its rasteriser -/
  src : Nat
  /-- 0 waiting at the crossbar, 1 admitted, 2 in a launch, 3 completed -/
  phase : Nat := 0
  admitted : Nat := 0
  unit : Nat := 0
  /-- completed pixels: pixel, depth, exports -/
  pixels : List (Nat × Option Word × AMap (List Word)) := []
  deriving DecidableEq, Repr

/-- A meshlet's broadcast: its pair and its rectangle of ordering tiles, none when empty (R218). -/
structure Broadcast where
  id : Nat
  plan : Nat
  d : Nat
  m : Nat
  rect : Option (Nat × Nat × Nat × Nat)
  /-- quads sent to each tile, the end markers (R220) -/
  counts : List (TileKey × Nat)
  /-- tiles at which the rectangle, and at which the end marker, has arrived; the cycle by which the rectangle has reached
  every bank unit -/
  arrived : List TileKey := []
  marked : List TileKey := []
  due : Nat
  deriving DecidableEq, Repr

/-- The cursor of an ordering tile for a plan (R221). -/
structure Cursor where
  plan : Nat
  tile : TileKey
  d : Nat := 0
  m : Nat := 0
  blended : Nat := 0
  deriving DecidableEq, Repr

/-- The draw pipeline. -/
structure DrawSt where
  quads : List Quad := []
  bcasts : List Broadcast := []
  cursors : List Cursor := []
  /-- pairs already closed, by plan -/
  closed : List (Nat × Nat × Nat) := []
  /-- plans whose mesh stage is complete, so that an unclosed pair counts as closed and empty (R217) -/
  ended : List Nat := []
  deriving DecidableEq, Repr

/-- A context block (R313, R414). -/
structure Ctx where
  steps : BitVec 3 := 0
  stepsP : BitVec 3 := 0
  ways : BitVec 5 := 0
  waysP : BitVec 5 := 0
  stab : BitVec 52 := 0
  ptroot : BitVec 52 := 0
  xlen : Bool := false
  save : BitVec 52 := 0
  savesz : DWord := 0
  deriving DecidableEq, Repr

/-- The configuration (R312, R313); the bell lines, hall passes, counters and core blocks stand elsewhere. -/
structure Cfg where
  priv : Bool := false
  privP : Bool := false
  deferred : Bool := false
  ctxs : AMap Ctx := []
  deriving DecidableEq, Repr

/-- A queue pair (R425). -/
structure Qp where
  qpn : Nat
  peer : Nat
  ctx : Nat
  prio : Nat
  st : Nat
  rkey : BitVec 32
  rbase : DWord
  paddr : BitVec 128
  rq : Nat
  /-- send rate in 1/256 of line rate (R424), cycle of the last notification -/
  rate : Nat := 256
  cnp : Nat := 0
  /-- transport retries of the request under way (R422) -/
  retries : Nat := 0
  deriving DecidableEq, Repr

/-- An inbound region (R425). -/
structure Region where
  idx : Nat
  wr : Bool
  rd : Bool
  ctx : Nat
  key : BitVec 32
  base : Nat
  len : Nat
  deriving DecidableEq, Repr

/-- What leaves the port. -/
inductive Sent where
  /-- a datagram of a control reply: the address it goes to and its payload (R425) -/
  | control (dst : BitVec 128) (payload : List Byte)
  /-- the answer to an inbound RDMA request or SEND: queue pair, outcome (0 done, 1 NAK remote access
  error, 2 NAK invalid request, 3 RNR NAK), the bytes of a read -/
  | rdma (qpn outcome : Nat) (data : List Byte)
  /-- a request to a peer: queue pair, write, address, R_key, length, bytes of a write -/
  | request (qpn : Nat) (write : Bool) (addr : DWord) (rkey : BitVec 32) (len : Nat) (data : List Byte)
  /-- a Neighbour Advertisement for an address to an address -/
  | advert (target dst : BitVec 128)
  /-- a transport retry of a queue pair -/
  | retry (qpn : Nat)
  deriving DecidableEq, Repr

/-- A firmware slot of the system area (R428): the image, its signature, the vendor public key and version. -/
structure Firmware where
  image : List Byte
  sig : List Byte
  key : List Byte
  svn : Nat
  deriving DecidableEq, Repr

/-- Whether the module boots, runs or is in the safe state (R428, R429). -/
inductive Mode where
  | booting | running | safe
  deriving DecidableEq, Repr

/-- The port, the host's queues, and the security block. -/
structure HostSt where
  mode : Mode := .booting
  selftest : DWord := 0
  svn : Nat := 0
  image : List Byte := []
  fwA : Option Firmware := none
  fwB : Option Firmware := none
  provKey : List Byte := List.replicate 32 0
  counters : AMap DWord := []
  evq : List EventRec := []
  evp : AMap (List EventRec) := []
  seqs : AMap Nat := []
  faultq : AMap (List TrapRec) := []
  qps : AMap Qp := []
  regions : AMap Region := []
  keys : AMap (List Byte) := []
  /-- keys of context 0 and of KEYSET: context 0 uses the provisioned key unless this is set -/
  key0removed : Bool := false
  /-- the last 1,024 requests of each context, newest first, with the datagrams that answered them: context, source
  address, SEQ (R425) -/
  replay : List (Nat × BitVec 128 × BitVec 32 × List (List Byte)) := []
  addrs : AMap (BitVec 128) := []
  link : Bool := false
  pauses : AMap Nat := []
  chain : List Byte := List.replicate 64 0
  digests : List (List Byte) := []
  outbox : List Sent := []
  /-- requests to peers that are not answered: queue pair, copy, number (R426) -/
  flights : List (Nat × Nat × Nat) := []
  /-- inbound requests that wait for a transition, in order of arrival (R178, R202): 0 READ, 1 WRITE, 2 SEND, 3 SEND with
  immediate, 4 WRITE with immediate -/
  inbox : List (Nat × Nat × EvArg) := []
  /-- LAUNCH requests whose plan's first word the hub waits to read, each under a number of its own (R31, R178) -/
  launches : List (Nat × EvArg) := []
  deriving DecidableEq, Repr

/-- One item of the agenda: a cohort to issue, an event with its data, or the end of the cycle. -/
inductive Move where
  | issue (cohort : Nat)
  | op (i : Instr) (a : EvArg)
  | tick
  deriving DecidableEq, Repr

/-- A word that issued with a stall count of 0, which the next word of its cohort may follow in the same cycle:
cohort, class 00, the names, uniform registers and predicates it writes; whether the next word is
issuing (R39). -/
structure Dual where
  id : Nat
  vec : Bool
  names : List Nat
  uregs : List Nat
  preds : List Nat
  second : Bool := false
  deriving DecidableEq, Repr

/-- The clock and the model's own scheduling (log entry 1). -/
structure Sched where
  /-- CLK -/
  clk : Nat := 0
  /-- partitions that have issued in this cycle: 4 × unit + partition (R38) -/
  served : List Nat := []
  /-- events that may still happen by themselves in this cycle, and whether those that are due have all been offered in it -/
  budget : Nat := 0
  swept : Bool := false
  agenda : List Move := []
  /-- the cohort that issues -/
  cur : Option Nat := none
  /-- the data of the event being performed -/
  arg : EvArg := {}
  /-- two words in one cycle (R39) -/
  dual : Option Dual := none
  /-- counter to which the free values are applied (log entry 2) -/
  fresh : Nat := 0
  /-- next number for a new record -/
  next : Nat := 1
  deriving DecidableEq, Repr

/-- Threads, cohorts and the dispatcher. -/
structure Work where
  threads : AMap Thread := []
  cohorts : AMap Cohort := []
  lcohs : AMap LaunchCohort := []
  launches : AMap Launch := []
  teams : AMap Team := []
  plans : AMap Plan := []
  /-- the launch queues: plan numbers, head first (R31) -/
  queues : AMap (List Nat) := []
  /-- placements since each queue's head was last served (R32) -/
  since : AMap Nat := []
  /-- the cycle of the last reassignment of stages (R62) -/
  reassigned : Nat := 0
  notes : List Note := []
  /-- fused rings (R61) -/
  rings : AMap Ring := []
  /-- queue records released and not yet passed by RD: plan, stage, record (R375) -/
  released : List (Nat × Nat × Nat) := []
  /-- claimed records of queues in memory that a fused launch has given back for records of its ring (R61): plan, stage,
  record -/
  returned : List (Nat × Nat × Nat) := []
  deriving DecidableEq, Repr

/-- The machine. -/
structure State where
  sched : Sched := {}
  work : Work := {}
  /-- units by number; an unlisted one is as after reset -/
  cores : AMap Core := []
  mem : Mem := {}
  surf : Surf := {}
  draw : DrawSt := {}
  cfg : Cfg := {}
  host : HostSt := {}
  deriving DecidableEq, Repr

/-- The machine right after reset: booting, nothing placed, every register at the value that the manual
states or that log entries 1 to 5 name. -/
def State.reset : State := {}

end Sys2Proof.Machine
end

