-- ==== Sys2Proof/Machine/Ops.lean ====
section
/-! DEFINITION. The named operations over the state: maps, bytes of memory, records by number, free values,
events (R432), and taking and leaving a trap (R405 to R412). -/

namespace Sys2Proof.Machine

/-- One step of the machine. -/
abbrev Out := Host.Outcome State Fault Refusal

section Maps
variable {β : Type}

/-- The entry of a map. -/
def alookup : AMap β → Nat → Option β
  | [], _ => none
  | (k, v) :: r, n => if n = k then some v else alookup r n

/-- Sets an entry, keys staying in rising order. -/
def ainsert : AMap β → Nat → β → AMap β
  | [], n, v => [(n, v)]
  | (k, w) :: r, n, v =>
    if n = k then (n, v) :: r else if n < k then (n, v) :: (k, w) :: r else (k, w) :: ainsert r n v

/-- Removes an entry. -/
def aerase : AMap β → Nat → AMap β
  | [], _ => []
  | (k, w) :: r, n => if n = k then aerase r n else (k, w) :: aerase r n

/-- Changes an entry if it is there. -/
def amodify (m : AMap β) (n : Nat) (f : β → β) : AMap β :=
  match alookup m n with
  | some v => ainsert m n (f v)
  | none => m

/-- Keys strictly rising: the one form of a map. -/
def Rising (m : AMap β) : Prop := (m.map Prod.fst).Pairwise (· < ·)

end Maps

/-- Removes every element of a list from another. -/
def without (a b : List Nat) : List Nat := a.filter fun x => !b.contains x

/-- Inserts into a list sorted by a key, behind equal keys. -/
def insertBy {α : Type} (key : α → Nat) (x : α) : List α → List α
  | [] => [x]
  | y :: r => if key x < key y then x :: y :: r else y :: insertBy key x r

/-- Inserts into a list sorted by a key, before equal keys. -/
def insertFront {α : Type} (key : α → Nat) (x : α) : List α → List α
  | [] => [x]
  | y :: r => if key x ≤ key y then x :: y :: r else y :: insertFront key x r

/-- Sorts by a key, stably. -/
def sortBy {α : Type} (key : α → Nat) : List α → List α
  | [] => []
  | x :: r => insertFront key x (sortBy key r)

/-- The first of the elements with the least key. -/
def minBy {α : Type} (key : α → Nat) : List α → Option α
  | [] => none
  | x :: r =>
    match minBy key r with
    | none => some x
    | some y => if key x ≤ key y then some x else some y

section Bytes

/-- One byte (log entry 4). -/
def Memory.get (m : Memory) (a : Nat) : Byte := (alookup m a).getD 0

/-- Writes one byte; a zero byte is not listed. -/
def Memory.put (m : Memory) (a : Nat) (b : Byte) : Memory :=
  if b = 0 then aerase m a else ainsert m a b

/-- Bytes from an address upward. -/
def Memory.bytes (m : Memory) (a : Nat) : Nat → List Byte
  | 0 => []
  | n + 1 => m.get a :: Memory.bytes m (a + 1) n

/-- Writes bytes from an address upward. -/
def Memory.putBytes (m : Memory) (a : Nat) : List Byte → Memory
  | [] => m
  | b :: r => Memory.putBytes (m.put a b) (a + 1) r

/-- Removes every byte of a range, which then reads 0. -/
def Memory.clear (m : Memory) (a n : Nat) : Memory := m.filter fun c => !(decide (a ≤ c.1) && decide (c.1 < a + n))

/-- A little-endian value (R7). -/
def leNat : List Byte → Nat
  | [] => 0
  | b :: r => b.toNat + 256 * leNat r

/-- The bytes of a little-endian value (R7). -/
def leBytes : Nat → Nat → List Byte
  | 0, _ => []
  | n + 1, v => BitVec.ofNat 8 v :: leBytes n (v / 256)

/-- A doubleword of a list of bytes. -/
def dwordAt (bs : List Byte) (off : Nat) : Nat := leNat ((bs.drop off).take 8)

/-- A word of a list of bytes. -/
def wordAt (bs : List Byte) (off : Nat) : Nat := leNat ((bs.drop off).take 4)

/-- A field of a number: bits hi down to lo. -/
def nfld (v hi lo : Nat) : Nat := (v >>> lo) % 2 ^ (hi + 1 - lo)

/-- A number as a two's-complement integer of a width. -/
def toSigned (w v : Nat) : Int := if v % 2 ^ w < 2 ^ (w - 1) then (v % 2 ^ w : Nat) else (v % 2 ^ w : Nat) - 2 ^ w

/-- An integer as a pattern of a width: Wrap of R9. -/
def wrapTo (w : Nat) (v : Int) : Nat := (v % 2 ^ w).toNat

end Bytes

/-- Records that stand for one that does not exist. -/
def Thread.nil : Thread := ⟨0, 0, 0, 0, 0, 0, 0, 0, .exited, [], 0, [], [], 0, [], {}, true, 0, [], none, [], false, none, 0, false, [], none⟩
def Cohort.nil : Cohort := { unit := 0, part := 0, ctx := 0, launch := 0, stamp := 0, pc := 0, active := [] }
def LaunchCohort.nil : LaunchCohort := { team := 0, unit := 0, part := 0, threads := [] }
def Launch.nil : Launch := { plan := 0, stage := 0, levels := [], teamlv := 0, total := 0, teamSize := 0 }
def Team.nil : Team := { launch := 0, num := 0, units := [], windows := [], threads := [] }
def Plan.nil : Plan := { addr := 0, ctx := 0, queue := 0, prio := 0 }

namespace State
variable (s : State)

def core (u : Nat) : Core := (alookup s.cores u).getD {}
def setCore (u : Nat) (c : Core) : State := { s with cores := ainsert s.cores u c }
def modCore (u : Nat) (f : Core → Core) : State := s.setCore u (f (s.core u))

def thread (t : Nat) : Thread := (alookup s.work.threads t).getD .nil
def modThread (t : Nat) (f : Thread → Thread) : State :=
  { s with work := { s.work with threads := amodify s.work.threads t f } }
def cohort? (c : Nat) : Option Cohort := alookup s.work.cohorts c
def cohort (c : Nat) : Cohort := (s.cohort? c).getD .nil
def modCohort (c : Nat) (f : Cohort → Cohort) : State :=
  { s with work := { s.work with cohorts := amodify s.work.cohorts c f } }
def setCohort (c : Nat) (v : Cohort) : State :=
  { s with work := { s.work with cohorts := ainsert s.work.cohorts c v } }
def dropCohort (c : Nat) : State :=
  { s with work := { s.work with cohorts := aerase s.work.cohorts c } }
def lcoh (c : Nat) : LaunchCohort := (alookup s.work.lcohs c).getD .nil
def modLcoh (c : Nat) (f : LaunchCohort → LaunchCohort) : State :=
  { s with work := { s.work with lcohs := amodify s.work.lcohs c f } }
def launch (l : Nat) : Launch := (alookup s.work.launches l).getD .nil
def modLaunch (l : Nat) (f : Launch → Launch) : State :=
  { s with work := { s.work with launches := amodify s.work.launches l f } }
def team (t : Nat) : Team := (alookup s.work.teams t).getD .nil
def modTeam (t : Nat) (f : Team → Team) : State :=
  { s with work := { s.work with teams := amodify s.work.teams t f } }
def plan (p : Nat) : Plan := (alookup s.work.plans p).getD .nil
def modPlan (p : Nat) (f : Plan → Plan) : State :=
  { s with work := { s.work with plans := amodify s.work.plans p f } }
def modMem (f : Mem → Mem) : State := { s with mem := f s.mem }
def modHost (f : HostSt → HostSt) : State := { s with host := f s.host }
def modSched (f : Sched → Sched) : State := { s with sched := f s.sched }

/-- A new record's number. -/
def newId : Nat × State := (s.sched.next, s.modSched fun x => { x with next := x.next + 1 })

/-- A value that the manual leaves open, below n (log entry 2). -/
def free (n : Nat) : Nat × State :=
  (Config.freeNat s.sched.fresh % n, s.modSched fun x => { x with fresh := x.fresh + 1 })

/-- A choice that the manual leaves open (log entry 2). -/
def freeBit : Bool × State :=
  (Config.freeBit s.sched.fresh, s.modSched fun x => { x with fresh := x.fresh + 1 })

/-- The launch of a thread, its plan, its team. -/
def launchOf (t : Nat) : Launch := s.launch (s.thread t).launch
def planOf (t : Nat) : Plan := s.plan (s.launchOf t).plan
def teamOf (t : Nat) : Team := s.team (s.thread t).team
/-- The plan of a cohort. -/
def planC (c : Cohort) : Plan := s.plan (s.launch c.launch).plan

end State

/-- The cluster of a unit: of a core its cluster, of a cluster proctor its own (R172, R432). -/
def clusterOf (unit : Nat) : Nat := if unit < 256 then unit / 8 else unit - 256

/-- The unit of the hub proctor. -/
def hubUnit : Nat := 288

/-- The event queue of a source (R432): the cluster proctor's of a core and column, else the hub proctor's (32). -/
def eventQueueOf (src : Nat) : Nat := if src < 256 then src / 8 else 32

/-- Writes an event record to its two queues (R432); a full queue discards it. -/
def logEvent (s : State) (src kind ctx : Nat) (arg0 arg1 : DWord) : State :=
  let seq := (alookup s.host.seqs src).getD 0
  let r : EventRec := ⟨src, kind, seq, ctx, BitVec.ofNat 64 (arg0.toNat % 2 ^ 60), arg1, s.sched.clk⟩
  let q := eventQueueOf src
  let l := (alookup s.host.evp q).getD []
  s.modHost fun h => { h with
    seqs := ainsert h.seqs src ((seq + 1) % 2 ^ 32)
    evp := if l.length < 1024 then ainsert h.evp q (l ++ [r]) else h.evp
    evq := if h.evq.length < 4096 then h.evq ++ [r] else h.evq }

/-- An event record's four doublewords (R432). -/
def EventRec.dwords (e : EventRec) : List DWord :=
  [BitVec.ofNat 64 (e.src * 2 ^ 48 + e.kind * 2 ^ 32 + e.seq), BitVec.ofNat 64 (e.ctx * 2 ^ 60 + e.arg0.toNat),
   e.arg1, BitVec.ofNat 64 e.clk]

/-- The number of a trap code (R405). -/
def TrapCode.num : TrapCode → Nat
  | .illegalOpcode => 0x01 | .illegalField => 0x02 | .illegalPair => 0x03 | .stallShort => 0x04
  | .privileged => 0x05 | .pageFault => 0x08 | .protection => 0x09 | .misaligned => 0x0A
  | .spaceBound => 0x0B | .race => 0x0C | .overlayMiss => 0x10 | .callDepth => 0x11 | .badTarget => 0x12
  | .passbackTwice => 0x13 | .passbackRange => 0x14 | .swTrap => 0x18 | .breakpoint => 0x19
  | .engineFault => 0x20 | .queueFault => 0x22

/-- A trap record's eight doublewords (R408). -/
def TrapRec.dwords (r : TrapRec) : List DWord :=
  [BitVec.ofNat 64 (r.code.num * 2 ^ 56 + r.cause * 2 ^ 48 + r.nostop.toNat * 2 ^ 47 + r.proc.toNat * 2 ^ 46 +
     r.core * 2 ^ 32 + r.count * 2 ^ 16 + r.ctx),
   r.handle, r.rpc ++ r.tpc, BitVec.ofNat 64 (r.lin * 2 ^ 32 + r.lane * 2 ^ 24), r.info0, r.info1, r.info2, r.info3]

/-- The access class of a PAGE_FAULT record (R412): a write. -/
def TrapRec.isWrite (r : TrapRec) : Bool :=
  let a := r.info1.toNat % 256
  !(a == 0 || a == 3 || a == 4 || a == 6)

/-- Two PAGE_FAULT records coalesce (R412). -/
def TrapRec.coalesces (q r : TrapRec) : Bool :=
  q.code == .pageFault && r.code == .pageFault && q.ctx == r.ctx &&
  q.info0.toNat / 4096 == r.info0.toNat / 4096 && q.cause == r.cause && q.isWrite == r.isWrite &&
  q.nostop == r.nostop

/-- Joins a record to the first record of the queue that it coalesces with: that record's handle and the
queue, or nothing if there is no such record. -/
def coalesce (r : TrapRec) : List TrapRec → Option (DWord × List TrapRec)
  | [] => none
  | q :: rest =>
    if q.coalesces r then
      some (q.handle, { q with count := if q.count < 65535 then q.count + 1 else q.count } :: rest)
    else (coalesce r rest).map fun (h, l) => (h, q :: l)

/-- Puts the cohort that a handle names into the group of another handle's record (R412). -/
def joinGroup (s : State) (h lead : DWord) : State :=
  { s with work := { s.work with cohorts := s.work.cohorts.map fun (i, c) =>
      (i, match c.stop with
          | some st => if st.handle == h then { c with stop := some { st with lead := lead } } else c
          | none => c) } }

/-- Ends a WAIT of KIND 0 or 1 of a cluster proctor (R411). -/
def wakeProctor (s : State) (cluster : Nat) : State :=
  { s with work := { s.work with cohorts := s.work.cohorts.map fun (i, c) =>
      (i, if c.unit == 256 + cluster && c.priv then
            match c.wait with
            | .clock _ true => { c with wait := .none }
            | _ => c
          else c) } }

/-- Puts a record into a cluster proctor's fault queue, joins it to a queued one, or answers nothing when
the queue is full (R411, R412). -/
def queueRecord (s : State) (cluster : Nat) (r : TrapRec) : Option State :=
  let q := (alookup s.host.faultq cluster).getD []
  match coalesce r q with
  | some (lead, q') =>
    some (joinGroup (s.modHost fun h => { h with faultq := ainsert h.faultq cluster q' }) r.handle lead)
  | none =>
    if q.length < 256 then
      let s1 := s.modHost fun h => { h with faultq := ainsert h.faultq cluster (q ++ [r]) }
      some (if q.isEmpty then wakeProctor s1 cluster else s1)
    else none

/-- Delivers a trap record from a unit of a cluster; a record that finds the queue full, or records of its
core held before it, is held at the core (R411). -/
def deliver (s : State) (unit : Nat) (r : TrapRec) : State :=
  let hold := s.modCore unit fun c => { c with held := c.held ++ [r] }
  if (s.core unit).held.isEmpty then (queueRecord s (clusterOf unit) r).getD hold else hold

/-- A cohort handle (R409). -/
def handleOf (stopno : Word) (c : Cohort) : DWord :=
  BitVec.ofNat 64 (stopno.toNat * 2 ^ 32 + c.unit * 2 ^ 16 + c.part * 2 ^ 14 + c.ctx * 2 ^ 8)

/-- The words that a PC's instruction counts within its overlay: the PC n words on (R89, R279). -/
def pcAdd (pc : Word) (n : Int) : Word :=
  BitVec.ofNat 32 (pc.toNat / 65536 * 65536 + ((pc.toNat % 65536 : Nat) + n).toNat % 65536)

/-- What a trap carries beside its code: cause, recorded thread, cause-specific bytes, the resume point
relative to the trapping word and the length of the trapping word. -/
structure TrapInfo where
  cause : Nat := 0
  thread : Option Nat := none
  i0 : DWord := 0
  i1 : DWord := 0
  i2 : DWord := 0
  i3 : DWord := 0
  /-- the resume point is the word after the trapping one (R297, R308) -/
  after : Bool := false
  deriving DecidableEq, Repr

/-- The thread that a trap record names (R408): the given one, else that of the lowest active home lane. -/
def trapThread (c : Cohort) (i : TrapInfo) : Nat := i.thread.getD (c.active.headD 0)

/-- Enters the safe state (R429). -/
def enterSafe (s : State) : State := s.modHost fun h => { h with mode := .safe }

section Settle

/-- Writes a predicate; a write to p7 is discarded (R82). -/
def Thread.setPred (t : Thread) (p : Nat) (v : Bool) : Thread :=
  if p < 7 then
    let m : BitVec 7 := BitVec.ofNat 7 (2 ^ p)
    { t with preds := if v then t.preds ||| m else t.preds &&& ~~~m }
  else t

/-- Writes a uniform register; one that holds 0 is not listed. -/
def Cohort.setUreg (c : Cohort) (n : Nat) (v : DWord) : Cohort :=
  { c with uregs := if v = 0 then aerase c.uregs n else ainsert c.uregs n v }

/-- Applies one write to its thread: in place, or mapping the name to the row taken, and releasing it again
when a last-read mark said so (R68, R70, R71). -/
def Thread.apply (t : Thread) (p : Pend) : Thread :=
  match p.tgt with
  | .name n =>
    let v : Word := p.val.setWidth 32
    let row := match alookup t.names n with
      | some x => x.row
      | none => p.row.getD 0
    let names := ainsert t.names n ⟨row, v⟩
    { t with names := if p.release then aerase names n else names }
  | .pred q => t.setPred q (p.val.getLsbD 0)
  | .ureg _ => t

/-- Applies one write to its cohort's uniform registers. -/
def Cohort.apply (c : Cohort) (p : Pend) : Cohort :=
  match p.tgt with
  | .ureg n => c.setUreg n p.val
  | _ => c

/-- Applies, in issue order, the outstanding writes that a test selects. -/
def Thread.settle (t : Thread) (f : Pend → Bool) : Thread :=
  (t.writes.filter f).foldl Thread.apply { t with writes := t.writes.filter fun p => !f p }

/-- As `Thread.settle`, for uniform registers. -/
def Cohort.settle (c : Cohort) (f : Pend → Bool) : Cohort :=
  (c.writes.filter f).foldl Cohort.apply { c with writes := c.writes.filter fun p => !f p }

/-- Performs every outstanding write of a thread whose value is there: all but those of surface accesses that are still to be
performed (R346, R379, R406). -/
def settleThread (s : State) (t : Nat) : State := s.modThread t fun th => th.settle fun p => !p.held

/-- Performs every outstanding write of a cohort's threads and of its uniform registers (R406). -/
def settleCohort (s : State) (id : Nat) : State :=
  let c := s.cohort id
  let s1 := (c.active ++ c.groups.flatMap Group.threads).foldl settleThread s
  s1.modCohort id fun k => k.settle fun _ => true

end Settle

/-- Takes a trap (R405 to R411): the cohort stops at its word, which has no effect; its outstanding register writes
take effect (R406); the core's stop number counts on; the resume PC, the trapping PC and the handle are kept with the cohort; a trap record goes to
the cluster proctor's fault queue. In proctor mode the proctor stops: a cluster proctor's trap is an
event to the hub proctor's queue, a trap of the hub proctor puts the device into the safe state (R407). -/
def takeTrap (s : State) (id : Nat) (len : Nat) (code : TrapCode) (i : TrapInfo) : State :=
  let c := s.cohort id
  let n := (s.core c.unit).stopno + 1
  let h := handleOf n c
  let rpc := if i.after then pcAdd c.pc len else c.pc
  let t := s.thread (trapThread c i)
  let s0 := (settleCohort s id).modSched fun x => { x with fresh := x.fresh + 1 }
  let s1 := (s0.modCore c.unit fun k => { k with stopno := n }).modCohort id fun k =>
    { k with stop := some ⟨code, n, rpc, c.pc, len, h, h⟩, wait := .none }
  if c.priv then
    if c.unit == hubUnit then enterSafe s1
    else logEvent s1 (0x0210 + clusterOf c.unit) 0x0050 0 (BitVec.ofNat 64 (clusterOf c.unit))
      (BitVec.ofNat 64 code.num)
  else
    deliver s1 c.unit
      { code := code, cause := i.cause, core := c.unit, ctx := (s.planC c).ctx, handle := h, rpc := rpc,
        tpc := c.pc, lin := t.lin, lane := t.lane, info0 := i.i0, info1 := i.i1, info2 := i.i2, info3 := i.i3 }

/-- Writes a fault record, for which no cohort stops (R405, R370): of a core's operation to its cluster's
fault queue, of a cluster proctor's to its own with PROC set, of the hub proctor's an event. The resume PC
of such a record is left open by the manual (log entry 2). -/
def faultRecord (s : State) (unit : Nat) (priv : Bool) (ctx : Nat) (code : TrapCode) (cause : Nat) (pc : Word)
    (lin lane tag : Nat) (i0 i1 i2 i3 : DWord) : State :=
  if priv && unit == hubUnit then
    logEvent s 0x0205 0x0051 ctx i0 (BitVec.ofNat 64 (tag * 2 ^ 16 + code.num * 2 ^ 8 + cause))
  else
    let (rpc, s1) := s.free (2 ^ 32)
    deliver s1 unit
      { code := code, cause := cause, nostop := true, proc := priv, core := if priv then 0 else unit, ctx := ctx,
        tpc := pc, rpc := BitVec.ofNat 32 rpc, lin := if priv then 0 else lin, lane := lane, info0 := i0,
        info1 := i1, info2 := i2, info3 := i3 }

/-- The stopped cohort that a handle names (R409). -/
def stoppedBy (s : State) (h : DWord) : Option Nat :=
  ((s.work.cohorts.find? fun (_, c) =>
    match c.stop with
    | some st => st.handle == h
    | none => false)).map Prod.fst

/-- The stopped cohorts that CRESUME and CKILL of a handle act on: the one it names and, when that is the
handle of a record, those whose records joined it (R412). -/
def groupOf (s : State) (h : DWord) : List Nat :=
  (s.work.cohorts.filter fun (_, c) =>
    match c.stop with
    | some st => st.handle == h || st.lead == h
    | none => false).map Prod.fst

/-- Returns a stopped cohort from its trap (R308): it continues at a PC and is ready again under R38. A QPUSH that is tried again
goes on with the first of its records that is not committed yet (log entry 59). -/
def resume (s : State) (id : Nat) (pc : Word) : State :=
  s.modCohort id fun c => { c with stop := none, pc := pc, pushed := if pc = c.pc then c.pushed else 0 }

end Sys2Proof.Machine
end

