-- ==== Sys2Proof/Machine/Cohorts.lean ====
section
/-! DEFINITION. Cohorts, homeroom bins and rows: reading and writing names, rows taken and released
(R66 to R72), outstanding writes (R70, R256, R257), filing and pending groups (R40 to R43). -/

namespace Sys2Proof.Machine

/-- A name's value (R69): 0 when unmapped, or once a last-read mark has released it (R71). -/
def Thread.readName (t : Thread) (n : Nat) : Word :=
  if t.writes.any fun p => p.tgt == .name n && p.release then 0
  else match alookup t.names n with
    | some v => v.val
    | none => 0

/-- A 64-bit vector operand (R64). -/
def Thread.readPair (t : Thread) (n : Nat) : DWord := t.readName (n + 1) ++ t.readName n

/-- A predicate; p7 reads 1 (R82). -/
def Thread.readPred (t : Thread) (p : Nat) : Bool := p == 7 || t.preds.getLsbD p

/-- A uniform register (R81). -/
def Cohort.readUreg (c : Cohort) (n : Nat) : DWord := (alookup c.uregs n).getD 0

/-- The thread does not map the name, now or by an outstanding write that is not released again (R68, R71). -/
def Thread.lacks (t : Thread) (n : Nat) : Bool :=
  (t.writes.any fun p => p.tgt == .name n && p.release) ||
  ((alookup t.names n).isNone && !(t.writes.any fun p => p.tgt == .name n))

/-- The physical rows in use in a partition: mapped, or taken by an outstanding write (R66, R68). -/
def rowsUsed (s : State) (unit part : Nat) : List Nat :=
  s.work.threads.flatMap fun (_, t) =>
    if t.unit == unit && t.part == part then
      (t.names.filterMap fun (_, v) => if v.row < 2048 then some v.row else none) ++
      t.writes.filterMap fun p => p.row
    else []

/-- The first number from start upward that is not in use. -/
def firstFree (used : List Nat) (start : Nat) : Nat → Option Nat
  | 0 => none
  | n + 1 => if used.contains start then firstFree used (start + 1) n else some start

/-- A free row of a bank (R66, R68). -/
def freeRow (used : List Nat) (bank : Nat) : Option Nat := firstFree used (512 * bank) 512

/-- Takes a row for each name that some of the threads lack; the bank that has none otherwise (R68, R73). -/
def takeRows (s : State) (ths : List Nat) (names : List Nat) (used : List Nat) :
    Except Nat (List (Nat × Nat)) :=
  match names with
  | [] => .ok []
  | n :: r =>
    if ths.any fun t => (s.thread t).lacks n then
      match freeRow used (n % 4) with
      | none => .error (n % 4)
      | some row =>
        match takeRows s ths r (row :: used) with
        | .error b => .error b
        | .ok l => .ok ((n, row) :: l)
    else takeRows s ths r used

/-- Free rows for a list of banks, one for each entry (R73). -/
def rowsFit (used : List Nat) : List Nat → Bool
  | [] => true
  | b :: r =>
    match freeRow used b with
    | some row => rowsFit (row :: used) r
    | none => false

/-- The bank of each new row that threads need for names (R68, R72), less those that the word's own marks free (R71):
`now` are the rows in use, `after` those in use once it has released its marked names. -/
def rowNeeds (s : State) (ths names now after : List Nat) : List Nat :=
  (now.filter fun x => !after.contains x).eraseDups.foldl (fun l x => l.erase (x / 512))
    ((names.filter fun n => ths.any fun t => (s.thread t).lacks n).map (· % 4))

/-- The first cloak row from 2,048 upward that no thread of the partition uses. -/
def cloakRowsUsed (s : State) (unit part : Nat) : List Nat :=
  s.work.threads.flatMap fun (_, t) =>
    if t.unit == unit && t.part == part then
      t.names.filterMap fun (_, v) => if 2048 ≤ v.row then some v.row else none
    else []

/-- A write whose write time has come (R70). -/
def Pend.isDue (clk : Nat) (p : Pend) : Bool := (!p.var || p.timed) && decide (p.due ≤ clk)

/-- Performs every fixed-latency write that is due (R70). -/
def settleDue (s : State) : State :=
  { s with work := { s.work with
      threads := s.work.threads.map fun (i, t) => (i, t.settle (Pend.isDue s.sched.clk))
      cohorts := s.work.cohorts.map fun (i, c) => (i, c.settle (Pend.isDue s.sched.clk)) } }

/-- Releases a name of a thread: at once, or right after an outstanding write to the name; a name that such a write
releases already reads as unmapped, and a further release has no effect (R71). -/
def Thread.release (t : Thread) (n : Nat) : Thread :=
  if t.writes.any fun p => p.tgt == .name n then
    { t with writes := t.writes.map fun p => if p.tgt == .name n then { p with release := true } else p }
  else { t with names := aerase t.names n }

/-- An outstanding write's value is replaced, and with it the value that the checkpoint takes from it (R47, R289). -/
def Thread.resample (t : Thread) (p : Pend) (v : DWord) : Thread :=
  { t with
    writes := t.writes.map fun q => if q.id == p.id && q.tgt == p.tgt then { q with val := v } else q
    ckpt := if p.ckpt then { t.ckpt with live := t.ckpt.live.map fun (n, x) =>
        (n, if p.tgt == .name n then some (v.setWidth 32) else x) } else t.ckpt }

/-- Adds outstanding writes. -/
def addWrites (s : State) (ws : List (Nat × Pend)) : State :=
  ws.foldl (fun s (t, p) => s.modThread t fun th => { th with writes := th.writes ++ [p] }) s

/-- Adds an outstanding write of a uniform register. -/
def addUwrite (s : State) (c : Nat) (p : Pend) : State :=
  s.modCohort c fun co => { co with writes := co.writes ++ [p] }

/-- Sorts threads by home lane. -/
def byLane (s : State) (ths : List Nat) : List Nat := sortBy (fun t => (s.thread t).lane) ths

/-- The lowest seat among threads; more than any seat when there is none. -/
def lowestSeat (s : State) (ths : List Nat) : Nat := ths.foldl (fun m t => Nat.min m (s.thread t).seat) 4096

/-- A cohort's context is free: it is no longer its partition's current cohort (R14). -/
def freeContext (s : State) (id : Nat) : State :=
  let c := s.cohort id
  let s1 := s.dropCohort id
  if alookup (s.core c.unit).current c.part == some id then
    s1.modCore c.unit fun k => { k with current := aerase k.current c.part }
  else s1

/-- The active group has ended: the pending group with the lowest seat becomes active and goes on at its own
PC, or, when there is none, the context is freed (R43, R290, R291). Of groups with the same lowest seat, in threads of
several teams, the one that became pending first goes on (log entry 57). -/
def nextGroup (s : State) (id : Nat) : State :=
  let c := s.cohort id
  match minBy (fun g : Group => lowestSeat s g.threads) c.groups with
  | none => freeContext s id
  | some g => s.modCohort id fun c =>
      { c with pc := g.pc, active := byLane s g.threads, groups := c.groups.erase g, wait := .none, stop := none, pushed := 0 }

/-- Of the threads that a stalled word waits for, those that pass a test: the others have left the cohort. -/
def Stall.only (keep : Nat → Bool) : Stall → Stall
  | .passback n k w l => .passback n k w (l.filter keep)
  | .tag any m pd d l => .tag any m pd d (l.filter keep)
  | .meshlet l => .meshlet (l.filter keep)
  | r => r

/-- The threads of a cohort, active or pending. -/
def Cohort.members (c : Cohort) : List Nat := c.active ++ c.groups.flatMap Group.threads

/-- Ends the active group's part in a cohort when nothing of it is left. -/
def settleGroup (s : State) (id : Nat) : State :=
  if (s.cohort id).active.isEmpty then nextGroup s id else s

/-- Threads as they file now. -/
def filedNow (s : State) (ths : List Nat) : List Filed := ths.map fun t => { thread := t, time := s.sched.clk }

/-- Files threads of a launch on a unit into the bin with the same key and release condition, else into the lowest empty bin,
which receives the uniform registers given (R41, R81); nothing when no bin matches or is empty. -/
def fileAt (s : State) (unit launch : Nat) (pc : Word) (cond : BinCond) (filed : List Filed) (uregs : AMap DWord)
    (priv : Bool) : Option State :=
  let k := s.core unit
  let ths := filed.map Filed.thread
  let put (n : Nat) (b : Bin) : State :=
    ths.foldl (fun s t => s.modThread t fun th => { th with place := .bin unit n })
      (s.setCore unit { k with bins := ainsert k.bins n b })
  match k.bins.find? fun (_, b) => b.launch == launch && b.pc == pc && b.cond == cond with
  | some (n, b) => some (put n { b with threads := b.threads ++ filed })
  | none =>
    match firstFree (k.bins.map Prod.fst) 0 64 with
    | some n => some (put n { launch := launch, pc := pc, cond := cond, threads := filed, uregs := uregs, priv := priv })
    | none => none

/-- Files threads of a cohort (R41); the bin's copy of the uniform registers is the cohort's. -/
def fileIn (s : State) (id : Nat) (pc : Word) (cond : BinCond) (filed : List Filed) : Option State :=
  let c := s.cohort id
  fileAt s c.unit c.launch pc cond filed c.uregs c.priv

/-- Removes threads from a cohort's active group. -/
def leaveActive (s : State) (id : Nat) (ths : List Nat) : State :=
  s.modCohort id fun c => { c with active := without c.active ths }

/-- Files a group of active threads, or makes it a pending group of its cohort when no bin takes it (R41, R43). -/
def fileOrPend (s : State) (id : Nat) (pc : Word) (cond : BinCond) (ths : List Nat) : State :=
  if ths.isEmpty then s
  else
    let s1 := leaveActive s id ths
    match fileIn s1 id pc cond (filedNow s1 ths) with
    | some s2 => s2
    | none => s1.modCohort id fun c => { c with groups := c.groups ++ [⟨pc, ths⟩] }

end Sys2Proof.Machine
end

