-- ==== Sys2Proof/Machine/Operands.lean ====
section
/-! DEFINITION. Operand forms (R242 to R247), guards (R67), passback operands (R48 to R53), the waits and
checks before a word issues (R253, R256, R257, R73), and what every issued word does (R255, R71). -/

namespace Sys2Proof.Machine

/-- A source operand. -/
inductive Src where
  | zero
  /-- a vector name, or a pair when wide -/
  | name (n : Nat) (wide : Bool)
  /-- a uniform register; bits [31:0] unless wide -/
  | ureg (n : Nat) (wide : Bool)
  | lit (v : DWord)
  /-- a passback operand: name, distance k, pair -/
  | back (n k : Nat) (wide : Bool)
  deriving DecidableEq, Repr

/-- What a word reads and writes, as its issue looks at it. -/
structure Acc where
  pg : Nat := 7
  pn : Bool := false
  names : List Nat := []
  uregs : List Nat := []
  preds : List Nat := []
  marks : List Nat := []
  /-- passback operand: first name, distance, number of names -/
  back : Option (Nat × Nat × Nat) := none
  wNames : List Nat := []
  wUregs : List Nat := []
  wPreds : List Nat := []
  /-- fixed latency, or variable (R256) -/
  lat : Option Nat := none
  /-- words of the instruction, and its stall count -/
  len : Nat := 1
  st : Nat := 0
  /-- the class of the word (R241) -/
  cls : Nat := 2
  /-- names and predicates are read from the acting thread alone (R280, R321) -/
  once : Bool := false
  deriving DecidableEq, Repr

/-- A word that may issue: its cohort, its executing threads in ascending home-lane order, the rows taken for
its destinations, by name. -/
structure Ready where
  id : Nat
  ths : List Nat
  rows : List (Nat × Nat)
  deriving DecidableEq, Repr

/-- What comes of the checks before a word issues. -/
inductive Prep where
  /-- no cohort is issuing -/
  | noIssuer
  /-- the word waits -/
  | stall (r : Stall)
  | trap (code : TrapCode) (i : TrapInfo)
  /-- threads leave for a bin held until their passback value is published (R53) -/
  | refile (name k n : Nat) (ths : List Nat)
  | go (r : Ready)
  deriving DecidableEq, Repr

/-- A thread's guard holds (R67, R244). -/
def Thread.guardOk (t : Thread) (pg : Nat) (pn : Bool) : Bool := t.readPred pg != pn

/-- The threads of a cohort that execute a word (R67). -/
def executing (s : State) (c : Cohort) (a : Acc) : List Nat :=
  c.active.filter fun t => (s.thread t).guardOk a.pg a.pn

/-- The thread that a word acts for when it acts once for the cohort: the lowest seat, among equal seats the
lowest LIN (R280). -/
def actingThread (s : State) (ths : List Nat) : Option Nat :=
  minBy (fun t => (s.thread t).seat * 2 ^ 32 + (s.thread t).lin) ths

/-- A note of a launch's thread for a name (R54). -/
def noteOf (s : State) (launch lin name : Nat) : Option Note :=
  s.work.notes.find? fun n => n.launch == launch && n.lin == lin && n.name == name

/-- A passback value: the seed for LIN below k (R51), else the predecessor's published value, which a core of
its own sees 8 cycles after publication (R52, R54). -/
def passValue (s : State) (t name k : Nat) : Option Word :=
  let th := s.thread t
  if th.lin < k then
    some (((s.planOf t).pass.find? fun x => x.1 == name).map Prod.snd |>.getD 0)
  else
    match noteOf s th.launch (th.lin - k) name with
    | some n => if n.unit == th.unit && s.sched.clk < n.time + 8 then none else some n.val
    | none => none

/-- The value of a source for one thread. -/
def srcVal (s : State) (c : Cohort) (t : Nat) : Src → DWord
  | .zero => 0
  | .name n wide => if wide then (s.thread t).readPair n else ((s.thread t).readName n).setWidth 64
  | .ureg n wide => if wide then c.readUreg n else ((c.readUreg n).setWidth 32).setWidth 64
  | .lit v => v
  | .back n k wide =>
    let lo := (passValue s t n k).getD 0
    if wide then (passValue s t (n + 1) k).getD 0 ++ lo else lo.setWidth 64

/-- The names a source reads. -/
def Src.names : Src → List Nat
  | .name n wide => if wide then [n, n + 1] else [n]
  | _ => []

/-- The uniform registers a source reads. -/
def Src.uregs : Src → List Nat
  | .ureg n _ => [n]
  | _ => []

/-- The passback operand of a source. -/
def Src.back? : Src → Option (Nat × Nat × Nat)
  | .back n k wide => some (n, k, if wide then 2 else 1)
  | _ => none

/-- A source of an extended form (R245, R246). -/
def opndSrc (o : Opnd) (wide passback : Bool) (k : Nat) : Src :=
  if o.kind then .ureg o.idx.toNat wide
  else if passback then .back o.idx.toNat k wide
  else .name o.idx.toNat wide

/-- A used operand of an extended form; nothing where the field carries none. -/
def extSrc (o : Opnd) (u : Use) (wide : Bool) (back : Bool) (k : Nat) : Src :=
  if u.used then opndSrc o wide back k else .zero

/-- The names that a field's last-read mark releases; none for a uniform or a passback operand (R71). -/
def opndMarks (o : Opnd) (n : Nat) (passback : Bool) : List Nat :=
  if o.mark && !o.kind && !passback then (List.range n).map (o.idx.toNat + ·) else []

/-- An outstanding write that a read has to wait for: a variable-latency one (R256). -/
def waitsOn (ws : List Pend) (t : Target) : Bool := ws.any fun p => p.tgt == t && p.var && !p.release

/-- An outstanding fixed-latency write, whose old value an early read sees (R70). -/
def early (ws : List Pend) (t : Target) : Bool := ws.any fun p => p.tgt == t && !p.var && !p.release

/-- An outstanding write that keeps a word that writes the same register from issuing (R257). -/
def interlocks (ws : List Pend) (t : Target) (due : Option Nat) : Bool :=
  ws.any fun p => p.tgt == t && (p.var ||
    match due with
    | some d => decide (d < p.due)
    | none => true)

/-- The first register of a list that some thread reads early, as STALL_SHORT's kind and index (R410). -/
def earlyRead (s : State) (c : Cohort) (act ths : List Nat) (a : Acc) : Option (Nat × Nat) :=
  match a.names.find? fun n => ths.any fun t => early (s.thread t).writes (.name n) with
  | some n => some (0, n)
  | none =>
    match a.uregs.find? fun n => !ths.isEmpty && early c.writes (.ureg n) with
    | some n => some (1, n)
    | none =>
      if a.pg < 7 && act.any fun t => early (s.thread t).writes (.pred a.pg) then some (2, a.pg)
      else (a.preds.find? fun p => ths.any fun t => early (s.thread t).writes (.pred p)).map fun p => (2, p)

/-- The names that a passback operand covers. -/
def backNames (n w : Nat) : List Nat := (List.range w).map (n + ·)

/-- The first thread whose passback operand is outside the set (R49). -/
def passbackBad (s : State) (ths : List Nat) (n k w : Nat) : Option Nat :=
  ths.find? fun t =>
    let p := s.planOf t
    !((backNames n w).all fun x => p.pass.any fun e => e.1 == x) || decide (p.passk < k) || (s.launchOf t).stage != 0

/-- A thread's passback value is not published yet (R51, R52). -/
def unpublished (s : State) (n k w : Nat) (t : Nat) : Bool :=
  let th := s.thread t
  decide (k ≤ th.lin) && (backNames n w).any fun x => (noteOf s th.launch (th.lin - k) x).isNone

/-- A thread's passback value cannot be read yet: it is not published, or its own core sees it only later (R54). -/
def unseen (s : State) (n k w : Nat) (t : Nat) : Bool :=
  (backNames n w).any fun x => (passValue s t x k).isNone

/-- The predecessors, at a distance, of those of some threads whose values are not published yet (R51, R52). -/
def predsOf (s : State) (n k w : Nat) (ths : List Nat) : List Nat :=
  (ths.filter (unpublished s n k w)).flatMap fun t =>
    let th := s.thread t
    (s.work.threads.filter fun (_, x) =>
      x.launch == th.launch && x.lin + k == th.lin && x.place != .exited && x.place != .lost).map Prod.fst

/-- The threads for whose passback values a thread waits in a bin, or its cohort waits (R53). -/
def passWaits (s : State) (u : Nat) : List Nat :=
  match (s.thread u).place with
  | .bin unit b =>
    match (alookup (s.core unit).bins b).map Bin.cond with
    | some (.passback n k w) => predsOf s n k w [u]
    | _ => []
  | .cohort id =>
    match (s.cohort id).wait with
    | .stall (.passback n k w ths) _ => predsOf s n k w ths
    | _ => []
  | _ => []

/-- Among some threads, or those for whose passback values they wait, directly or not, is one of a cohort's members. -/
def waitsForOwn (s : State) (mine : List Nat) : Nat → List Nat → Bool
  | 0, us => us.any mine.contains
  | fuel + 1, us => us.any mine.contains || (!us.isEmpty && waitsForOwn s mine fuel (us.flatMap (passWaits s)).eraseDups)

/-- The cohort holds the thread's predecessor (R53), or the predecessor waits for a passback value that can only come from this
cohort: were the thread to wait as step 2 has it, the two would wait for each other for ever, which R63 excludes (log entry 39). -/
def predInCohort (s : State) (c : Cohort) (n k w t : Nat) : Bool :=
  waitsForOwn s c.members s.work.threads.length (predsOf s n k w [t])

/-- The word reads what the first word of the cycle writes (R39). -/
def dependsOnFirst (s : State) (id : Nat) (a : Acc) : Bool :=
  match s.sched.dual with
  | some d =>
    d.second && d.id == id &&
    ((a.names ++ (a.back.map fun b => backNames b.1 b.2.2).getD []).any d.names.contains || a.uregs.any d.uregs.contains || (a.pg :: a.preds).any d.preds.contains)
  | none => false

/-- The threads whose names and predicates a word reads. -/
def readers (s : State) (a : Acc) (ths : List Nat) : List Nat :=
  if a.once then (actingThread s ths).toList else ths

/-- A seat read that some thread of the cohort has executed has not written every thread's name yet, be that thread in the
cohort still or not: a later word that reads the name waits for all of them (R341). -/
def seatPending (s : State) (c : Cohort) (n : Nat) : Bool :=
  s.work.threads.any fun (_, t) => t.writes.any fun p => p.tgt == .name n && p.peers.any c.members.contains

/-- A word reads a name, predicate or uniform register with a variable-latency write outstanding (R256, R341). -/
def mustWait (s : State) (c : Cohort) (a : Acc) (rd : List Nat) : Bool :=
  (a.names.any fun n => rd.any fun t => waitsOn (s.thread t).writes (.name n)) ||
  (a.preds.any fun p => rd.any fun t => waitsOn (s.thread t).writes (.pred p)) ||
  (!rd.isEmpty && ((a.uregs.any fun n => waitsOn c.writes (.ureg n)) || a.names.any (seatPending s c)))

/-- A word writes a register to which an earlier word has a write outstanding that must come first (R257). -/
def mustFollow (s : State) (c : Cohort) (a : Acc) (ths : List Nat) : Bool :=
  let due := a.lat.map (s.sched.clk + ·)
  (a.wNames.any fun n => ths.any fun t => interlocks (s.thread t).writes (.name n) due) ||
  (a.wPreds.any fun p => ths.any fun t => interlocks (s.thread t).writes (.pred p) due) ||
  (!ths.isEmpty && a.wUregs.any fun n => interlocks c.writes (.ureg n) due)

/-- What a passback operand comes to (R53): the threads that file, then a wait for values of other cohorts, then for
values that this core does not see yet (R54). A word that acts once reads the acting thread's value, and all its
executing threads wait and file (log entry 56). -/
def passCheck (s : State) (id : Nat) (c : Cohort) (ths : List Nat) : Option (Nat × Nat × Nat) → Prep
  | none => .go ⟨id, ths, []⟩
  | some (n, k, w) =>
    let missing := ths.filter (unpublished s n k w)
    let own := missing.filter (predInCohort s c n k w)
    if !own.isEmpty then .refile n k w own
    else if !missing.isEmpty then .stall (.passback n k w ths)
    else if ths.any (unseen s n k w) then .stall .scoreboard
    else .go ⟨id, ths, []⟩

/-- The waits and checks of a word that is decoded: outstanding variable writes to what it reads (R256), check 6
(R49), interlocks (R257), passback values (R53). -/
def checkFor (s : State) (id : Nat) (c : Cohort) (a : Acc) : Prep :=
  if dependsOnFirst s id a then .stall .second
  else if a.pg < 7 && c.active.any fun t => waitsOn (s.thread t).writes (.pred a.pg) then .stall .scoreboard
  else
    let ths := executing s c a
    let rd := readers s a ths
    match a.back.bind fun (n, k, w) => (passbackBad s rd n k w).map fun t => (n, k, t) with
    | some (n, k, t) =>
      .trap .passbackRange
        { thread := some t, i0 := BitVec.ofNat 64 ((if (s.launchOf t).stage != 0 then 2 ^ 16 else 0) + k * 2 ^ 8 + n) }
    | none =>
      if mustWait s c a rd || mustFollow s c a ths then .stall .scoreboard
      else passCheck s id c ths a.back

/-- The state with the marks of a word released, which row taking is judged by (R68, R71). -/
def marked (s : State) (ths : List Nat) (a : Acc) : State :=
  ths.foldl (fun s t => s.modThread t fun th => a.marks.foldl Thread.release th) s

/-- The rows that a word takes for its destinations, or the banks of the rows for which its cohort is grow-stalled (R73). -/
def rowsFor (s : State) (c : Cohort) (a : Acc) (ths : List Nat) : Except (List Nat) (List (Nat × Nat)) :=
  if a.wNames.isEmpty then .ok []
  else
    let s1 := marked s ths a
    let used := rowsUsed s1 c.unit c.part
    match takeRows s1 ths a.wNames used with
    | .ok l => .ok l
    | .error _ => .error (rowNeeds s1 ths a.wNames (rowsUsed s c.unit c.part) used)

/-- Check 7 (R253), made on a word that issues: the first register that it reads early, with LP.CHECK = 1 (R70). -/
def shortRead (s : State) (c : Cohort) (a : Acc) (ths : List Nat) : Option (Nat × Nat) :=
  if (s.planC c).check then earlyRead s c c.active (readers s a ths) a else none

/-- The trap of check 7, for a register as its kind and index (R410). -/
def shortTrap (x : Nat × Nat) : Prep := .trap .stallShort { i0 := BitVec.ofNat 64 (x.1 * 2 ^ 8 + x.2) }

/-- The checks of a word whose passback operand, if any, is served, and the rows it takes (R73, R253). -/
def rowCheck (s : State) (c : Cohort) (a : Acc) : Prep → Prep
  | .go r =>
    match rowsFor s c a r.ths with
    | .error bs => .stall (.grow bs)
    | .ok rows =>
      match shortRead s c a r.ths with
      | some x => shortTrap x
      | none => .go { r with rows := rows }
  | p => p

/-- A word that does not issue for a reason of its own is not judged by check 7, which is made on a word that issues (R253):
it waits. -/
def Prep.unless (p : Prep) (waits : Bool) : Prep :=
  match p with
  | .trap .stallShort _ | .go _ => if waits then .stall .scoreboard else p
  | _ => p

/-- The checks of a word, and the rows it takes. Threads file at a passback read only if the word does not then trap with
the others in this very cycle, since check 7 comes before any effect (R53, R253). -/
def prepFor (s : State) (id : Nat) (c : Cohort) (a : Acc) : Prep :=
  match checkFor s id c a with
  | .refile n k w own =>
    let rest := { c with active := without c.active own }
    if rest.active.isEmpty then .refile n k w own
    else
      match rowCheck s rest a (checkFor s id rest a) with
      | .trap .stallShort i => .trap .stallShort i
      | _ => .refile n k w own
  | p => rowCheck s c a p

/-- `prepFor` for the issuing cohort. -/
def prep (s : State) (a : Acc) : Prep :=
  match s.sched.cur with
  | none => .noIssuer
  | some id =>
    match s.cohort? id with
    | none => .noIssuer
    | some c => prepFor s id c a

/-- A wait on this condition is one that another cohort, an engine or the dispatcher must end (R77). -/
def Stall.blocks : Stall → Bool
  | .scoreboard | .second | .transition | .drain | .settle | .instruction => false
  | _ => true

/-- The word at the PC does not issue; it is tried again (R38). -/
def stallAt (s : State) (id : Nat) (r : Stall) : State :=
  s.modCohort id fun c =>
    { c with
      waitSince := match c.wait with
        | .stall r0 _ => if r0 = r then c.waitSince else s.sched.clk
        | _ => s.sched.clk
      wait := .stall r s.sched.clk }

/-- The word that issues is the second of its cycle. -/
def isSecond (s : State) : Bool := (s.sched.dual.map Dual.second).getD false

/-- What a word that issues leaves for a second word of the cycle: nothing when it is itself the second, is of
CLS 10 or has a stall count (R39). -/
def offerSecond (s : State) (id : Nat) (a : Acc) : Option Dual :=
  if isSecond s || a.st != 0 || a.cls == 2 then none
  else some ⟨id, a.cls == 0, a.wNames, a.wUregs, a.wPreds, false⟩

/-- The issuing cohort has issued its word: the PC moves past it, the stall count holds the next word back
(R255), the cycle counts toward the issue cap, the cohort is its partition's current one (R38), and the
partition has had its turn. -/
def issued (s : State) (id : Nat) (a : Acc) : State :=
  let c := s.cohort id
  let was := alookup (s.core c.unit).current c.part == some id && decide (c.issued < 256)
  let second := isSecond s
  let s1 := s.modCohort id fun c =>
    { c with
      pc := pcAdd c.pc a.len
      nextIssue := s.sched.clk + 1 + a.st
      issued := if second then c.issued else if was then c.issued + 1 else 1
      capMark := if second then c.capMark else was && (c.capMark || decide (256 ≤ c.issued + 1))
      wait := .none
      pushed := 0 }
  (s1.modCore c.unit fun k => { k with current := ainsert k.current c.part id }).modSched
    fun x => { x with served := (4 * c.unit + c.part) :: x.served, dual := offerSecond s id a }

/-- Releases the marked names of the executing threads (R71). -/
def applyMarks (s : State) (r : Ready) (a : Acc) : State := marked s r.ths a

/-- What a word's own effect comes to: the state after it, a wait, or a trap. -/
inductive Eff where
  | ok (s : State)
  | stall (s : State) (r : Stall)
  | trap (code : TrapCode) (i : TrapInfo)

/-- The outcome of an effect. A wait leaves the word at the PC; a trap undoes everything the word did. -/
def Eff.out (s : State) (id len : Nat) : Eff → Out
  | .ok s1 => .next s1
  | .stall s1 r => .next (stallAt s1 id r)
  | .trap code i => .next (takeTrap s id len code i)

/-- The outcome of a word's checks, and of its effect once they have passed. -/
def Prep.run (s : State) (len : Nat) (f : Ready → Eff) : Prep → Out
  | .noIssuer => .fault .noIssuer
  | .stall r => .next (stallAt s (s.sched.cur.getD 0) r)
  | .trap code i => .next (takeTrap s (s.sched.cur.getD 0) len code i)
  | .refile n k w ths =>
    let id := s.sched.cur.getD 0
    .next (settleGroup (fileOrPend s id (s.cohort id).pc (.passback n k w) ths) id)
  | .go r => (f r).out s r.id len

/-- Runs a word's effect behind the checks every word passes. The effect sees the state before the word
and answers the state after it, its issue and its marks included. -/
def withPrep (s : State) (a : Acc) (f : Ready → Eff) : Out := (prep s a).run s a.len f

/-- The outstanding writes of a vector result of some words: one for each name. -/
def namePends (r : Ready) (w : Nat) (var : Bool) (due : Nat) (n words v : Nat) : List Pend :=
  (List.range words).map fun i =>
    { id := w, tgt := .name (n + i), var := var, due := due, val := BitVec.ofNat 64 ((v >>> (32 * i)) % 2 ^ 32),
      row := (r.rows.find? fun x => x.1 == n + i).map Prod.snd }

/-- The outstanding write of a predicate; none for p7 (R82). -/
def predPends (w : Nat) (var : Bool) (due : Nat) (p : Nat) (v : Bool) : List Pend :=
  if p < 7 then [{ id := w, tgt := .pred p, var := var, due := due, val := if v then 1 else 0 }] else []

/-- A word has issued with these outstanding writes of its threads. -/
def commit (s : State) (r : Ready) (a : Acc) (ws : List (Nat × Pend)) : State :=
  issued (addWrites (applyMarks s r a) ws) r.id a

/-- The guard, the stall count and the length of an extended form of class 10 (R244). -/
def extAcc (x : Ext) (lit : Bool) : Acc :=
  { pg := x.pg.toNat, pn := x.pn, len := if lit then 5 else 3, st := x.st.toNat }

/-- Adds what some operands read to a word's accesses. -/
def Acc.reads (a : Acc) (l : List Src) : Acc :=
  { a with
    names := a.names ++ l.flatMap Src.names
    uregs := a.uregs ++ l.flatMap Src.uregs
    back := match a.back with
      | some b => some b
      | none => l.findSome? Src.back? }

/-- A word that writes nothing and reads nothing has issued. -/
def plainIssue (s : State) (r : Ready) (a : Acc) : State := commit s r a []

/-- The result of a word that acts once for the cohort, in a uniform register, variable (R256), from a cycle on. -/
def uregResultAt (s : State) (id w d due : Nat) (v : DWord) : State :=
  addUwrite s id { id := w, tgt := .ureg d, var := true, due := due, val := v }

/-- The result of a word that acts once for the cohort, in a uniform register, variable (R256). -/
def uregResult (s : State) (id : Nat) (w : Nat) (d : Nat) (v : DWord) : State := uregResultAt s id w d (s.sched.clk + 1) v

end Sys2Proof.Machine
end

