-- ==== Sys2Proof/Machine/Memory.lean ====
section
/-! DEFINITION. Global memory: physical bytes and poison (R431), translation (R417, R418), homes and the stacked
cache (R148 to R152), the segment directory (R178, R179), releases and acquires (R180, R181), the widening of
narrow releases (R187), hall passes (R191) and races (R183, R184). -/

namespace Sys2Proof.Machine

/-- Bytes of GDDR7; a poisoned block holds zeros (R431). -/
def readPa (s : State) (pa n : Nat) : List Byte := s.mem.gddr.bytes pa n

/-- Writes bytes of GDDR7; a write of any byte of a poisoned block clears the poison (R431). -/
def writePa (s : State) (pa : Nat) (bs : List Byte) : State :=
  s.modMem fun m => { m with
    gddr := m.gddr.putBytes pa bs
    poison := m.poison.filter fun b => decide (b < pa / 64) || decide ((pa + bs.length - 1) / 64 < b) }

/-- Counts a core's column as fenced; its homes pass to the next unfenced column of the stack (R148). -/
def unfencedColumn (s : State) (stack col : Nat) : Nat → Nat
  | 0 => col
  | n + 1 => if (s.core (128 * stack + col)).fenced then unfencedColumn s stack ((col + 1) % 128) n else col

/-- The home slice of a physical address, as a core column number 0 to 255 (R148). -/
def homeOf (s : State) (pa : Nat) : Nat :=
  let p := pa / 256
  let x (hi lo : Nat) := nfld p hi lo
  let ch := (x 6 0) ^^^ (x 13 7) ^^^ (x 20 14) ^^^ (x 27 21) ^^^ (x 29 28)
  let stack := (x 7 7) ^^^ (x 21 21)
  128 * stack + unfencedColumn s stack ch 128

/-- A context's block. -/
def ctxOf (s : State) (x : Nat) : Ctx :=
  (alookup s.cfg.ctxs x).getD { ways := if x == 0 then 16 else 0, waysP := if x == 0 then 16 else 0 }

/-- Changes a context's block. -/
def modCtx (s : State) (x : Nat) (f : Ctx → Ctx) : State :=
  { s with cfg := { s.cfg with ctxs := ainsert s.cfg.ctxs x (f (ctxOf s x)) } }

section Caches

/-- Surface steps of all contexts together: Σ (R146). -/
def surfSteps (s : State) : Nat := (s.cfg.ctxs.map fun x => x.2.steps.toNat).foldl (· + ·) 0

/-- Sets of a slice: 32 to each of the banks 8 to 255 − 32·Σ of its column, at 16 lines of 256 bytes to a set (R146, R149). -/
def sliceSets (s : State) : Nat := 32 * (248 - 32 * surfSteps s)

/-- The slice that a line of the stacked cache is homed on, and its set there, which the device chooses (log entry 7). -/
def setOf (s : State) (line : Nat) : Nat × Nat := (homeOf s (line * 256), Config.cacheSet line % sliceSets s)

/-- The layer of the bank that holds a set (R146, log entry 7). -/
def setLayer (set : Nat) : Nat := (8 + set / 32) / 64

section Domains

/-- The power domain of a layer of a column is in retention or waking (R171). -/
def domainAsleep (s : State) (col layer : Nat) : Bool :=
  let k := s.core col
  k.retained.contains layer || (alookup k.waking layer).isSome

/-- The wake latency of a domain (R171). -/
def wakeLatency (col layer : Nat) : Nat := 96 + 24 * layer + 8 * (col % 8)

/-- The cycle from which a domain serves an access that is made now (R171). -/
def awakeAt (s : State) (col layer : Nat) : Nat :=
  let k := s.core col
  if k.retained.contains layer then s.sched.clk + wakeLatency col layer
  else Nat.max s.sched.clk ((alookup k.waking layer).getD 0)

/-- An access begins to wake its domain (R171). -/
def wakeDomain (s : State) (col layer : Nat) : State :=
  if (s.core col).retained.contains layer then
    s.modCore col fun c => { c with
      retained := c.retained.erase layer
      waking := ainsert c.waking layer (s.sched.clk + wakeLatency col layer) }
  else s

/-- An access to a domain: it is noted, and wakes it (R171). -/
def touchDomain (s : State) (col layer : Nat) : State :=
  (wakeDomain s col layer).modCore col fun k => { k with access := ainsert k.access layer s.sched.clk }

/-- The domain of the bank that holds a physical address in the stacked cache. -/
def domainOf (s : State) (pa : Nat) : Nat × Nat := let x := setOf s (pa / 256); (x.1, setLayer x.2)

end Domains

/-- The last line of a list that a test selects. -/
def lastSuch (f : Line → Bool) (l : List Line) : Option Line := (l.filter f).getLast?

/-- The entry of a line's region in the table of a slice (R152). -/
def deadKey (slice line : Nat) : Nat := 65536 * slice + line * 256 / 4096 % 65536

/-- The dead-line counter of a line's region on its slice (R152). -/
def deadOf (s : State) (slice line : Nat) : Nat := (alookup s.mem.dead (deadKey slice line)).getD 0

/-- An access misses the stacked cache in a region that is predicted dead: it is served as no-allocate (R152). -/
def deadMiss (s : State) (pa : Nat) : Bool :=
  !(s.mem.l2.any fun l => l.line == pa / 256) && deadOf s (homeOf s (pa / 256 * 256)) (pa / 256) == 3

/-- Sets a dead-line counter. -/
def setDead (s : State) (slice line n : Nat) : State :=
  let k := deadKey slice line
  s.modMem fun m => { m with dead := if n = 0 then aerase m.dead k else ainsert m.dead k n }

/-- Takes a line out of the stacked cache; one that was never hit counts as dead (R152). -/
def evictLine (s : State) (l : Line) : State :=
  let s1 := s.modMem fun m => { m with l2 := m.l2.filter fun x => x.line != l.line }
  if l.hit then s1 else setDead s1 l.slice l.line (Nat.min 3 (deadOf s l.slice l.line + 1))

/-- In private mode a partition without ways has every access served as no-allocate (R150, R314). -/
def waysFor (s : State) (ctx cp : Nat) : Nat := if s.cfg.priv && (ctxOf s ctx).ways == 0 then 2 else cp

/-- Makes room for a line and allocates it: as most recently used, or as least recently used under
evict-first; in private mode within the ways of the requester's partition (R149 to R151). -/
def allocLine (s : State) (l : Line) (ef : Bool) : State :=
  let mine (x : Line) : Bool := x.slice == l.slice && x.set == l.set && (!s.cfg.priv || x.owner == l.owner)
  let ways := if s.cfg.priv then (ctxOf s l.owner).ways.toNat else 16
  let s1 := if (s.mem.l2.filter mine).length < ways then s
    else match lastSuch mine s.mem.l2 with
      | some v => evictLine s v
      | none => s
  s1.modMem fun m => { m with l2 := if ef then m.l2 ++ [l] else l :: m.l2 }

/-- An access to GDDR7 passes the home slice of its block (R149 to R152, R171). -/
def touchL2 (s : State) (pa ctx cp : Nat) (write : Bool) : State :=
  let line := pa / 256
  let (slice, set) := setOf s line
  let s0 := touchDomain s slice (setLayer set)
  match s.mem.l2.find? fun l => l.line == line with
  | some l =>
    setDead (s0.modMem fun m => { m with
      l2 := { l with dirty := l.dirty || write, hit := true } :: m.l2.filter fun x => x.line != line }) slice line 0
  | none =>
    let cp := waysFor s ctx cp
    if cp == 2 || deadOf s slice line == 3 then s0
    else allocLine s0 { line := line, slice := slice, set := set, owner := ctx, dirty := write, hit := false } (cp == 1)

/-- The lines of n bytes pass the stacked cache. -/
def touchLines (s : State) (pa n ctx cp : Nat) (write : Bool) : State :=
  ((List.range ((pa + n - 1) / 256 + 1 - pa / 256)).map fun i => pa / 256 + i).foldl
    (fun s l => touchL2 s (l * 256) ctx cp write) s

/-- Blocks that the L1 of a core holds under its carve-out setting (R144). -/
def l1Blocks (carve : Nat) : Nat :=
  4 * (if carve == 0 then 448 else if carve == 1 then 384 else if carve == 2 then 256 else if carve == 3 then 128 else 64)

/-- Scratchpad bytes of a carve-out setting (R144). -/
def scratchBytes (carve : Nat) : Nat :=
  1024 * (if carve == 0 then 64 else if carve == 1 then 128 else if carve == 2 then 256 else if carve == 3 then 384 else 448)

/-- A dirty block of an L1 is written back (R149, R180). -/
def writeBack (s : State) (l : L1Line) : State := if l.dirty then touchL2 s (l.block * 256) l.ctx 0 true else s

/-- The blocks of a core's L1 that a test selects are written back and stay (R180). -/
def cleanL1 (s : State) (unit : Nat) (f : Nat → Bool) : State :=
  if (s.core unit).l1.any (fun l => l.dirty && f l.block) then
    (((s.core unit).l1.filter fun l => f l.block).foldl writeBack s).modCore unit fun k =>
      { k with l1 := k.l1.map fun l => if f l.block then { l with dirty := false } else l }
  else s

/-- The blocks of a core's L1 that a test selects are written back and leave it (R179). -/
def dropL1 (s : State) (unit : Nat) (f : Nat → Bool) : State :=
  if (s.core unit).l1.any (fun l => f l.block) then
    (cleanL1 s unit f).modCore unit fun k => { k with l1 := k.l1.filter fun l => !f l.block }
  else s

/-- The block lies in a segment; in n bytes at an address. -/
def inSegment (n block : Nat) : Bool := block / 16 == n
def inBytes (pa n block : Nat) : Bool := decide (pa / 256 ≤ block) && decide (block ≤ (pa + n - 1) / 256)

/-- Puts a block into a core's L1: as most recently used, or as least recently used under evict-first; a block that it
displaces is written back. -/
def fillL1 (s : State) (unit : Nat) (l : L1Line) (ef : Bool) : State :=
  let k := s.core unit
  let n := l1Blocks k.carve
  let keep := if n ≤ k.l1.length then k.l1.take (n - 1) else k.l1
  ((k.l1.drop keep.length).foldl writeBack s).modCore unit fun k => { k with l1 := if ef then keep ++ [l] else l :: keep }

/-- A block is in a core's L1. -/
def inL1 (s : State) (unit pa : Nat) : Bool := (s.core unit).l1.any fun l => l.block == pa / 256

/-- A plain access of a core: a block held in the L1 is served there; another passes the stacked cache, and comes into the
L1 as the policy says (R144, R151). -/
def touchCaches (s : State) (unit pa ctx cp : Nat) (write : Bool) : State :=
  let b := pa / 256
  let cp := waysFor s ctx cp
  match (s.core unit).l1.find? fun l => l.block == b with
  | some l => s.modCore unit fun k => { k with
      l1 := { l with dirty := l.dirty || write } :: k.l1.filter fun x => x.block != b }
  | none =>
    if cp == 2 || deadMiss s pa then touchL2 s pa ctx 2 write
    else fillL1 (touchL2 s pa ctx cp false) unit { block := b, ctx := ctx, dirty := write } (cp == 1)

end Caches

section Directory

/-- A segment's directory entry (R178). -/
def segAt (s : State) (n : Nat) : Segment := (alookup s.mem.dir n).getD {}

/-- Sets a segment's entry; one as after reset is not listed. -/
def setSeg (s : State) (n : Nat) (g : Segment) : State :=
  s.modMem fun m => { m with dir := if g = {} then aerase m.dir n else ainsert m.dir n g }

/-- A scope covers core b relative to core a (R172). -/
def covers (scope a b : Nat) : Bool :=
  if scope ≤ 1 then a == b else if scope == 2 then a / 8 == b / 8 else if scope == 3 then a / 128 == b / 128 else true

/-- A holder is released for a core (R178). -/
def releasedFor (h : Nat × Option Nat) (c : Nat) : Bool :=
  match h.2 with
  | some x => covers x h.1 c
  | none => false

/-- Holders other than c that are not released for it. -/
def unreleased (g : Segment) (c : Nat) : List (Nat × Option Nat) :=
  g.holders.filter fun h => h.1 != c && !releasedFor h c

/-- A plain or copy access of core c to the segment raises RACE (R179). -/
def raceAt (g : Segment) (c : Nat) (write : Bool) : Bool :=
  (g.own || write) && !(unreleased g c).isEmpty

/-- The entry after a plain or copy access of core c that raises no RACE, in transition when data moves (R178, R179). -/
def claim (g : Segment) (c : Nat) (write : Bool) : Segment :=
  let held := g.holders.any fun h => h.1 == c
  if g.own then
    if held then { g with holders := [(c, none)] }
    else { g with own := write, holders := [(c, none)], trn := true }
  else if write then { g with own := true, holders := [(c, none)], trn := true }
  else if held then { g with holders := g.holders.map fun h => if h.1 == c then (c, none) else h }
  else { g with holders := insertFront Prod.fst (c, none) g.holders, trn := true }

/-- Holders that a new entry no longer has write back and are invalidated in their L1; an owner that stays a mere holder
writes back (R179). -/
def dropHolders (s : State) (n : Nat) (old new : Segment) : State :=
  let stays (h : Nat × Option Nat) : Bool := new.holders.any fun k => k.1 == h.1
  old.holders.foldl (fun s h =>
    if !stays h then dropL1 s h.1 (inSegment n) else if old.own && !new.own then cleanL1 s h.1 (inSegment n) else s) s

/-- Puts a new entry in force. -/
def changeSeg (s : State) (n : Nat) (g : Segment) : State := setSeg (dropHolders s n (segAt s n) g) n g

/-- A synchronising, window or walker's read at home: an owner writes back and keeps a read copy (R179). -/
def homeRead (s : State) (n : Nat) : State :=
  let g := segAt s n
  if g.own then changeSeg s n { g with own := false, trn := true } else s

/-- A synchronising, inbound or stage write at home: every holder writes back and is invalidated (R179). -/
def homeWrite (s : State) (n : Nat) : State :=
  let g := segAt s n
  if g.holders.isEmpty then s else changeSeg s n { g with own := false, holders := [], trn := true }

end Directory

section Waiting

/-- Who waits at the directory still does. -/
def stillWaits (s : State) : Waiter → Bool
  | .req id =>
    (match (s.cohort id).wait with
     | .stall .transition _ => true
     | _ => false) ||
    (s.mem.copies.any fun c => c.id == id && !c.squashed) || (s.mem.stages.any fun q => q.id == id && !q.squashed) ||
    (s.host.inbox.any fun x => x.1 == id) || (s.host.launches.any fun x => x.1 == id) ||
    s.cores.any fun (_, k) => k.loads.any fun l => l.id == id
  | .tile k => s.surf.tiles.any fun t => t.key == k && (t.st == .filling || t.st == .spilling)
  | .plan p j =>
    match alookup s.work.plans p with
    | some x => !x.done && !x.killed && (j != 0 || !x.begun)
    | none => false
  | .boundary => s.cfg.deferred
  | .act .. => true

/-- An access to segments must wait: one of them is in transition, or someone who came before waits for it (R178). -/
def blockedFor (s : State) (w : Waiter) (segs : List Nat) : Bool :=
  (segs.any fun n => (segAt s n).trn) ||
  (s.mem.waiting.takeWhile fun x => x.1 != w).any fun x => x.2.any segs.contains && stillWaits s x.1

/-- Someone joins those that wait, or goes on waiting in his place. -/
def enqueueFor (s : State) (w : Waiter) (segs : List Nat) : State :=
  let l := s.mem.waiting
  let l1 := if l.any fun x => x.1 == w then l.map fun x => if x.1 == w then (w, segs) else x else l ++ [(w, segs)]
  s.modMem fun m => { m with waiting := l1 }

/-- Someone has been served. -/
def dequeueFor (s : State) (w : Waiter) : State :=
  if s.mem.waiting.any (fun x => x.1 == w) then s.modMem fun m => { m with waiting := m.waiting.filter fun x => x.1 != w } else s

/-- As `blockedFor`, `enqueueFor` and `dequeueFor`, of a cohort, copy, stage, load or request by its number. -/
def blockedAt (s : State) (id : Nat) (segs : List Nat) : Bool := blockedFor s (.req id) segs
def enqueueAt (s : State) (id : Nat) (segs : List Nat) : State := enqueueFor s (.req id) segs
def dequeueAt (s : State) (id : Nat) : State := dequeueFor s (.req id)

/-- The segments of ranges of physical bytes. -/
def spanSegs (l : List (Nat × Nat)) : List Nat := (l.map fun x => x.1 / 4096).eraseDups

/-- The power domains of the banks that ranges of physical bytes pass (R149, R171). -/
def spanDomains (s : State) (l : List (Nat × Nat)) : List (Nat × Nat) :=
  l.flatMap fun x => (List.range ((x.1 + x.2 - 1) / 256 + 1 - x.1 / 256)).map fun i => domainOf s (x.1 + 256 * i)

/-- Someone accesses segments and power domains: whether he is served now, and the state in which he goes on or waits: for the end
of a transition, for those that came before, for the wake of a domain (R171, R178). -/
def admitTo (s : State) (w : Waiter) (segs : List Nat) (domains : List (Nat × Nat)) : Bool × State :=
  if blockedFor s w segs then (false, enqueueFor s w segs)
  else
    let asleep := domains.filter fun d => domainAsleep s d.1 d.2
    if asleep.isEmpty then (true, dequeueFor s w)
    else (false, enqueueFor (asleep.foldl (fun s d => wakeDomain s d.1 d.2) s) w segs)

/-- As `admitTo`, of ranges of physical bytes accessed at home. -/
def takeTurn (s : State) (w : Waiter) (l : List (Nat × Nat)) : Bool × State := admitTo s w (spanSegs l) (spanDomains s l)

/-- Segments that are in transition or for which someone waits. -/
def movingSeg (s : State) (n : Nat) : Bool :=
  (segAt s n).trn || s.mem.waiting.any fun x => x.2.contains n && stillWaits s x.1

/-- The last to wait for one of the segments is the hub, to do this very thing with them. -/
def postponed (s : State) (what : HubAct) (segs : List Nat) : Bool :=
  match s.mem.waiting.reverse.find? fun x => x.2.any segs.contains with
  | some (.act _ w, l) => w == what && l == segs
  | _ => false

/-- The hub has to do something with segments once they are free (R178); twice in a row is once. -/
def postpone (s : State) (what : HubAct) (segs : List Nat) : State :=
  if postponed s what segs then s
  else
    let (id, s1) := s.newId
    enqueueFor s1 (.act id what) segs

end Waiting

section Releases

/-- The wider of a mark and a scope; SYSTEM marks as DEVICE (R180). -/
def widerMark (m : Option Nat) (scope : Nat) : Option Nat := some (Nat.max (m.getD 0) (Nat.min scope 4))

/-- A core holds the segment of a block OWN. -/
def ownsBlock (s : State) (core block : Nat) : Bool :=
  let g := segAt s (block / 16)
  g.own && g.holders.any fun h => h.1 == core

/-- A core holds a segment. -/
def Segment.heldBy (g : Segment) (core : Nat) : Bool := g.holders.any fun h => h.1 == core

/-- A core's L1 holds dirty data of a segment. -/
def dirtyIn (s : State) (core n : Nat) : Bool := (s.core core).l1.any fun l => l.dirty && inSegment n l.block

/-- A segment's entry after a release of a core at a scope, in transition when dirty data move (R179, R180). -/
def Segment.released (g : Segment) (core scope : Nat) (dirty : Bool) : Segment :=
  { g with
    holders := g.holders.map fun h => if h.1 == core then (core, widerMark h.2 scope) else h
    trn := g.trn || (g.own && g.heldBy core && dirty) }

/-- A segment's entry after a core has left it; an owner's write-back passes through a transition (R179). -/
def Segment.left (g : Segment) (core : Nat) : Segment :=
  if g.heldBy core then
    let hs := g.holders.filter fun h => h.1 != core
    { g with holders := hs, own := g.own && !hs.isEmpty, trn := g.trn || g.own }
  else g

/-- A segment's entry when every holder but a core has given way to its pass (R190). -/
def Segment.givenWay (g : Segment) (core : Nat) : Segment :=
  { g with
    holders := g.holders.filter fun h => h.1 == core
    own := g.own && g.heldBy core
    trn := g.trn || g.holders.any fun h => h.1 != core }

/-- The segments that a core holds of which a transition is under way, or for which others wait: what the core does to their entries
waits too (R178). -/
def heldMoving (s : State) (core : Nat) : List Nat :=
  (s.mem.dir.filter fun (n, g) => g.heldBy core && movingSeg s n).map Prod.fst

/-- A release of a core at a scope: at CLUSTER or wider it writes back every segment that it holds OWN and marks every one
that it holds (R180). -/
def releaseCore (s : State) (core scope : Nat) : State :=
  if scope < 2 then s
  else
    let late := heldMoving s core
    let s1 := (cleanL1 s core fun b => ownsBlock s core b && !late.contains (b / 16)).modMem fun m => { m with
      dir := m.dir.map fun (n, g) => (n, if late.contains n then g else g.released core scope (dirtyIn s core n)) }
    late.foldl (fun s n => postpone s (.release core scope) [n]) s1

/-- A core leaves every entry: conversion and fence (R179). -/
def leaveDirectory (s : State) (core : Nat) : State :=
  let late := heldMoving s core
  let d := s.mem.dir.map fun (n, g) => (n, if late.contains n then g else g.left core)
  late.foldl (fun s n => postpone s (.leave core) [n]) (s.modMem fun m => { m with dir := d.filter fun x => x.2 ≠ {} })

/-- What waited for a segment is done to its entry. -/
def actOnSeg (s : State) (what : HubAct) (n : Nat) : State :=
  match what with
  | .release core scope =>
    let g := segAt s n
    setSeg (if g.own && g.heldBy core then cleanL1 s core (inSegment n) else s) n (g.released core scope (dirtyIn s core n))
  | .leave core => setSeg s n ((segAt s n).left core)
  | .giveWay core => changeSeg s n ((segAt s n).givenWay core)
  | _ => s

/-- Records a release write (R187). -/
def recordRelease (s : State) (pa n core scope : Nat) : State :=
  setSeg s (pa / 4096) { segAt s (pa / 4096) with
    rel := some (core, scope, (List.range ((pa + n - 1) / 8 - pa / 8 + 1)).map (pa / 8 + ·)) }

/-- A write by an agent other than the recorded core to a recorded unit removes the record (R187). -/
def unrecord (s : State) (pa n : Nat) (agent : Option Nat) : State :=
  let g := segAt s (pa / 4096)
  match g.rel with
  | some (core, _, units) =>
    if agent != some core && units.any fun u => decide (pa / 8 ≤ u) && decide (u ≤ (pa + n - 1) / 8) then
      setSeg s (pa / 4096) { g with rel := none }
    else s
  | none => s

/-- An acquire at CLUSTER or wider by core c that reads a recorded unit whose scope does not cover c has the
recorded core perform a release at its scope first (R187). -/
def widen (s : State) (pa n c scope : Nat) : State :=
  let g := segAt s (pa / 4096)
  match g.rel with
  | some (core, sc, units) =>
    if core != c && !covers sc core c && units.any fun u => decide (pa / 8 ≤ u) && decide (u ≤ (pa + n - 1) / 8) then
      let s1 := releaseCore s core scope
      setSeg s1 (pa / 4096) { segAt s1 (pa / 4096) with rel := some (core, scope, units) }
    else s
  | none => s

/-- The hall pass whose range holds a segment: its number and entry (R189). -/
def passOver (s : State) (n : Nat) : Option (Nat × HallPass) :=
  s.mem.passes.find? fun (_, p) => p.valid && decide (p.base ≤ n) && decide (n < p.base + p.nseg)

/-- The pass held by a core other than c over a segment (R191). -/
def foreignPass (s : State) (n c : Nat) : Option (Nat × Nat) :=
  match passOver s n with
  | some (i, p) =>
    match p.holder with
    | some h => if h != c then some (i, h) else none
    | none => none
  | none => none

/-- The pass is held by core c itself, whose plain and copy accesses then make no directory transaction (R191). -/
def ownPass (s : State) (n c : Nat) : Bool :=
  match passOver s n with
  | some (_, p) => p.holder == some c
  | none => false

/-- The core that holds a pass over a segment writes the blocks of an access at home back, and for a write loses them
(R191). -/
def passBlocks (s : State) (pa n : Nat) (write : Bool) : State :=
  match (passOver s (pa / 4096)).bind fun x => x.2.holder with
  | some h => if write then dropL1 s h (inBytes pa n) else cleanL1 s h (inBytes pa n)
  | none => s

/-- An access at home to bytes of one segment: of a proctor, of the hub, of the port, a stage or a synchronising access (R179, R191,
R202, R434). -/
def homeAccess (s : State) (pa n ctx cp : Nat) (write : Bool) : State :=
  let s1 := if write then homeWrite s (pa / 4096) else homeRead s (pa / 4096)
  touchLines (passBlocks s1 pa n write) pa n ctx cp write

/-- A write at home by an agent that is no core. -/
def homePut (s : State) (pa ctx cp : Nat) (bs : List Byte) : State :=
  writePa (unrecord (homeAccess s pa bs.length ctx cp true) pa bs.length none) pa bs

end Releases

section Translation

/-- What a leaf says of a page (R417). -/
inductive LeafKind where
  | gddr | tier | remote
  deriving DecidableEq, Repr

/-- What translation answers: the physical (or flash, or remote page) address and the leaf; or a fault with
its cause, the walk level (255 for none) and the entry read. -/
inductive Xlat where
  | ok (k : LeafKind) (addr : Nat) (leaf : DWord)
  | fault (code : TrapCode) (cause level : Nat) (entry : DWord)
  deriving DecidableEq, Repr

/-- Index bits and shift of a walk level (R417). -/
def levelShift (l : Nat) : Nat := if l == 0 then 42 else if l == 1 then 31 else if l == 2 then 21 else 12
def levelBits (l : Nat) : Nat := if l == 1 then 11 else if l == 3 then 9 else 10

/-- A table entry is malformed (R417): entry e of level l as a number. -/
def badTable (l e : Nat) : Bool :=
  nfld e 63 52 != 0 || nfld e 11 10 != 0 || nfld e 9 4 != 0 || nfld e 2 1 != 0 || nfld e 51 38 != 0 ||
  l == 3 || (l == 0 && nfld e 13 12 != 0) || (l == 1 && nfld e 12 12 != 0)

/-- A leaf is malformed (R417). -/
def badLeaf (l e : Nat) : Bool :=
  let tier := nfld e 5 5 == 1
  let remote := nfld e 4 4 == 1
  nfld e 63 52 != 0 || nfld e 11 10 != 0 || (nfld e 9 9 == 1 && l != 3) || nfld e 8 7 == 3 || (tier && remote) ||
  l == 0 || (!tier && !remote && (nfld e 51 38 != 0 || nfld e (levelShift l - 1) 12 != 0 && l != 3))

/-- Walks the tables from a level down (R417): the leaf and its level, or the level where it stops and the
entry; and the addresses of the entries read, the last one first. -/
def walk (s : State) (va table l : Nat) (read : List Nat) : Nat → (Option (Nat × Nat) × Nat × Nat) × List Nat
  | 0 => ((none, l, 0), read)
  | fuel + 1 =>
    let a := table + 8 * (va / 2 ^ levelShift l % 2 ^ levelBits l)
    let e := leNat (readPa s a 8)
    let read := a :: read
    if nfld e 0 0 == 0 then ((none, l, e), read)
    else if nfld e 3 3 == 1 then
      if badLeaf l e then ((none, l, e), read) else ((some (l, e), l, e), read)
    else if badTable l e then ((none, l, e), read)
    else walk s va (nfld e 37 12 * 4096) (l + 1) read fuel

/-- Pages that a leaf of a level covers. -/
def leafPages (l : Nat) : Nat := 2 ^ (levelShift l - 12)

/-- The TLB entry that a walk installs: a 64 KiB one when the sixteen leaves of a CONTIG group agree (R418). -/
def tlbFor (s : State) (ctx va entry l e : Nat) : TlbEntry :=
  let page := va / 4096
  if l == 3 && nfld e 9 9 == 1 then
    let first := page / 16 * 16
    let leaf (i : Nat) := leNat (readPa s (entry / 4096 * 4096 + 8 * ((first + i) % 512)) 8)
    let l0 := leaf 0
    if (l0 / 4096) % 16 == 0 && (List.range 16).all fun i => leaf i == l0 + 4096 * i then
      ⟨ctx, first, 16, BitVec.ofNat 64 l0⟩
    else ⟨ctx, page, 1, BitVec.ofNat 64 e⟩
  else ⟨ctx, page / leafPages l * leafPages l, leafPages l, BitVec.ofNat 64 e⟩

/-- The address of a page offset under a leaf that covers pages from `first`. A TIER leaf names any of 2^40 pages; the manual
says nothing of one beyond the 32 TB of the array, and the model's flash serves it like any other (log entry 66). -/
def leafAddr (leaf : DWord) (first va : Nat) : Nat := (nfld leaf.toNat 51 12 + (va / 4096 - first)) * 4096 + va % 4096

/-- The leaf of a page as it is read: in a CONTIG group, whose entry keeps the first of its sixteen leaves, the page's own (R410,
R418). -/
def pageLeaf (e : TlbEntry) (va : Nat) : DWord :=
  if e.pages == 16 then e.leaf + BitVec.ofNat 64 (4096 * (va / 4096 - e.page)) else e.leaf

/-- Judges a leaf for an access (R417, R352): TIER and REMOTE pages, PRIV outside proctor mode, W for a write. -/
def judge (e : TlbEntry) (va level : Nat) (write priv copy : Bool) : Xlat :=
  let l := e.leaf.toNat
  let kind := if nfld l 5 5 == 1 then LeafKind.tier else if nfld l 4 4 == 1 then .remote else .gddr
  let read := pageLeaf e va
  if kind == .tier && !copy then .fault .pageFault 2 level read
  else if kind == .remote && !copy then .fault .pageFault 3 level read
  else if (write && nfld l 1 1 == 0) || (nfld l 6 6 == 1 && !priv) then .fault .protection 0 level read
  else .ok kind (leafAddr e.leaf e.page va) read

/-- A TLB entry for an address. -/
def tlbHit (l : List TlbEntry) (ctx va : Nat) : Option TlbEntry :=
  l.find? fun e => e.ctx == ctx && decide (e.page ≤ va / 4096) && decide (va / 4096 < e.page + e.pages)

/-- A TLB of n entries with one more; the oldest one goes when it is full (R418, log entry 7). -/
def tlbPut (l : List TlbEntry) (n : Nat) (e : TlbEntry) : List TlbEntry := (e :: l.filter (· != e)).take n

/-- The clusters' TLB of a unit. -/
def clusterTlb (s : State) (unit : Nat) : List TlbEntry := (alookup s.mem.ctlb (clusterOf unit)).getD []

/-- The entry that a unit's TLBs hold for an address (R418). -/
def tlbHeld (s : State) (unit : Option Nat) (ctx va : Nat) : Option TlbEntry :=
  unit.bind fun u => match tlbHit (s.core u).tlb ctx va with
    | some e => some e
    | none => tlbHit (clusterTlb s u) ctx va

/-- An entry comes into a core's TLB of 64 entries, and, when a walk has found it, into its cluster's of 2,048 (R418). -/
def tlbInstall (s : State) (unit : Option Nat) (e : TlbEntry) (walked : Bool) : State :=
  match unit with
  | none => s
  | some u =>
    let s1 := if (s.core u).tlb.contains e then s else s.modCore u fun k => { k with tlb := tlbPut k.tlb 64 e }
    if walked && !(clusterTlb s u).contains e then
      s1.modMem fun m => { m with ctlb := ainsert m.ctlb (clusterOf u) (tlbPut (clusterTlb s u) 2048 e) }
    else s1

/-- What a walk finds for an address: the entry that it installs with its level, or the level at which it stops and the
entry there; and the addresses of the entries read, the last one first (R417, R418). -/
def walkFor (s : State) (ctx va : Nat) : (Option (TlbEntry × Nat) × Nat × Nat) × List Nat :=
  let root := nfld (ctxOf s ctx).ptroot.toNat 51 12 * 4096
  let w := walk s va root 0 [] 4
  match w.1.1 with
  | some (l, e) => ((some (tlbFor s ctx va (w.2.headD 0) l e, l), l, e), w.2)
  | none => ((none, w.1.2.1, w.1.2.2), w.2)

/-- Translates an address for an access of a unit (none for the hub's own) in a context (R417, R418). An entry of the core's or
its cluster's TLB serves; where none does, a walk reads the tables at home. An entry that differs from what the walk would find
may be used in its place: a free choice (log entry 7). `copy` admits TIER and REMOTE leaves. -/
def translate (s : State) (unit : Option Nat) (ctx va : Nat) (write priv copy : Bool) : Xlat × State :=
  if va / 2 ^ 52 != 0 || !(ctxOf s ctx).xlen then (.fault .pageFault 1 255 0, s)
  else
    let (found, stop) := walkFor s ctx va
    let missed (s : State) : Xlat × State :=
      let s1 := stop.foldl (fun s a => homeAccess s a 8 ctx 0 false) s
      match found.1 with
      | some (e, l) => (judge e va l write priv copy, tlbInstall s1 unit e true)
      | none => (.fault .pageFault 1 found.2.1 (BitVec.ofNat 64 found.2.2), s1)
    match tlbHeld s unit ctx va with
    | none => missed s
    | some h =>
      let used (s : State) : Xlat × State :=
        (judge h va ((found.1.map Prod.snd).getD 255) write priv copy, tlbInstall s unit h false)
      if (found.1.map fun f => leafAddr f.1.leaf f.1.page va) == some (leafAddr h.leaf h.page va) &&
          (found.1.map fun f => f.1.leaf.toNat % 4096) == some (h.leaf.toNat % 4096) then used s
      else
        let (b, s1) := s.freeBit
        if b then used s1 else missed s1

/-- What translating an address reads: a walk's entries, nothing where a TLB serves. -/
def walkSpans (s : State) (unit : Option Nat) (ctx va : Nat) : List (Nat × Nat) :=
  if va / 2 ^ 52 != 0 || !(ctxOf s ctx).xlen || (tlbHeld s unit ctx va).isSome then []
  else (walkFor s ctx va).2.map fun a => (a, 8)

/-- The segments of those entries. -/
def walkSegs (s : State) (unit : Option Nat) (ctx va : Nat) : List Nat := (walkSpans s unit ctx va).map fun x => x.1 / 4096

/-- The cache policy of an access: a no-allocate page makes every access no-allocate (R151). -/
def policy (leaf : DWord) (cp : Nat) : Nat := if nfld leaf.toNat 8 7 == 2 then 2 else cp

end Translation

section Hub

/-- Pages that an access of n bytes can touch. -/
def pageCount (n : Nat) : Nat := n / 4096 + 2

/-- The physical pieces, page by page with the page's cache policy, of a range that the hub accesses, which is not in proctor mode;
none when a page does not translate to GDDR7, is privileged, or is not writable for a write (R28, R151, R159, R213, R417, R422). -/
def pieces (s : State) (ctx va n : Nat) (write : Bool) : Nat → Option (List (Nat × Nat × Nat)) × State
  | 0 => (some [], s)
  | fuel + 1 =>
    if n == 0 then (some [], s)
    else
      let k := Nat.min n (4096 - va % 4096)
      match translate s none ctx va write false false with
      | (.ok _ pa leaf, s1) =>
        let (r, s2) := pieces s1 ctx (va + k) (n - k) write fuel
        (r.map fun l => (pa, k, policy leaf 0) :: l, s2)
      | (.fault .., s1) => (none, s1)

/-- The bytes of a virtual range as they stand at home. -/
def readHome (s : State) (ctx va n : Nat) : Option (List Byte) :=
  (pieces s ctx va n false (pageCount n)).1.map fun l => l.flatMap fun p => readPa s p.1 p.2.1

/-- The hub reads a virtual range at home: what the accesses do to the directory and the caches (R149, R179). -/
def visitHome (s : State) (ctx va n : Nat) : State :=
  match pieces s ctx va n false (pageCount n) with
  | (some l, s1) => l.foldl (fun s p => homeAccess s p.1 p.2.1 ctx p.2.2 false) s1
  | (none, s1) => s1

/-- The ranges of physical bytes that an access of the hub to a virtual range reads or writes: walks and pages, up to one that faults. -/
def homeSpans (s : State) (ctx va n : Nat) : Nat → List (Nat × Nat)
  | 0 => []
  | fuel + 1 =>
    if n == 0 then []
    else
      let k := Nat.min n (4096 - va % 4096)
      walkSpans s none ctx va ++
        match (translate s none ctx va false false false).1 with
        | .ok _ pa _ => (pa, k) :: homeSpans s ctx (va + k) (n - k) fuel
        | .fault .. => []

/-- The ranges of physical bytes of virtual ranges of a context. -/
def rangeSpans (s : State) (ctx : Nat) (l : List (Nat × Nat)) : List (Nat × Nat) :=
  l.flatMap fun x => homeSpans s ctx x.1 x.2 (pageCount x.2)

/-- Someone's access to virtual ranges of a context at home: whether it is made now, and the state in which he goes on or
waits (R171, R178). -/
def admitRanges (s : State) (w : Waiter) (ctx : Nat) (l : List (Nat × Nat)) : Bool × State := takeTurn s w (rangeSpans s ctx l)

/-- The hub reads some virtual ranges of a context (R149). -/
def visitAll (s : State) (ctx : Nat) (l : List (Nat × Nat)) : State := l.foldl (fun s x => visitHome s ctx x.1 x.2) s

end Hub

end Sys2Proof.Machine
end

