-- ==== Sys2Proof/Machine/Access.lean ====
section
/-! DEFINITION. The accesses of a word in the spaces g, sp, spc and c: the checks of R352 in their order, and
performing an access under its class (R173, R175 to R179, R434). -/

namespace Sys2Proof.Machine

/-- The access of one thread: effective address, and the seat (spc) or window (c). -/
structure Lane where
  thread : Nat
  ea : Nat
  sel : Nat := 0
  deriving DecidableEq, Repr

/-- Where an access goes once it is checked: physical bytes with their leaf; scratchpad bytes of a unit; a
parameter window's bytes, of which only the first `valid` lie inside (R140). -/
inductive Loc where
  | pa (addr : Nat) (leaf : DWord)
  | scratch (unit addr : Nat)
  | win (addr : Nat) (leaf : DWord) (valid : Nat)
  deriving DecidableEq, Repr

/-- How an access is made: space (0 g, 1 sp, 2 spc, 3 c), width in bytes, what it is (0 read, 1 write, 2
atomic), whether it is performed at home as a synchronising access, its cache policy. -/
structure How where
  space : Nat
  size : Nat
  kind : Nat
  home : Bool := false
  cp : Nat := 0
  deriving DecidableEq, Repr

/-- The context in which a thread's global accesses are translated; a proctor's is context 0 (R94). -/
def ctxOfThread (s : State) (t : Nat) : Nat := (s.planOf t).ctx

/-- The unit that holds a seat of a team: that of the seat's launch cohort (R141). -/
def seatUnit (s : State) (team seat : Nat) : Option Nat :=
  ((s.team team).threads.find? fun u => (s.thread u).seat == seat).map fun u => (s.thread u).unit

/-- Base of a team's window on a unit, in the unit's scratchpad. -/
def windowBase (s : State) (team unit : Nat) : Nat := (alookup (s.team team).windows unit).getD 0

/-- Bytes of a team window (R20). -/
def windowBytes (s : State) (t : Nat) : Nat := (s.planOf t).spwin * 1024

/-- The record of a fault of space, alignment or translation (R410). -/
def accInfo (h : How) (l : Lane) (cause level : Nat) (entry : DWord) : TrapInfo :=
  { cause := cause, thread := some l.thread,
    i0 := if h.space == 2 then BitVec.ofNat 64 (l.sel * 2 ^ 32 + l.ea % 2 ^ 32) else BitVec.ofNat 64 l.ea,
    i1 := BitVec.ofNat 64 (level * 2 ^ 24 + h.size * 2 ^ 16 + h.space * 2 ^ 8 + h.kind),
    i2 := entry }

/-- The space check of one thread's access (R352, step 1). -/
def spaceBad (s : State) (h : How) (l : Lane) : Option (TrapCode × TrapInfo) :=
  let t := s.thread l.thread
  match h.space with
  | 0 => if l.ea / 2 ^ 52 != 0 then some (.pageFault, accInfo h l 1 255 0) else none
  | 1 => if windowBytes s l.thread < l.ea + h.size then some (.spaceBound, accInfo h l 0 255 0) else none
  | 2 =>
    if (s.launchOf l.thread).teamSize ≤ l.sel || (seatUnit s t.team l.sel).isNone ||
        decide (windowBytes s l.thread < l.ea + h.size) then some (.spaceBound, accInfo h l 0 255 0) else none
  | _ => if (alookup (s.planOf l.thread).wins l.sel).isNone then some (.spaceBound, accInfo h l 0 255 0) else none

/-- The translation of one thread's access (R352, step 3), its place, and the state after the walk. -/
def locate (s : State) (h : How) (l : Lane) (unit : Nat) (priv : Bool) : Except (TrapCode × TrapInfo) Loc × State :=
  let t := s.thread l.thread
  match h.space with
  | 0 =>
    match translate s (some unit) (ctxOfThread s l.thread) l.ea (h.kind != 0) priv false with
    | (.ok _ a leaf, s1) => (.ok (.pa a leaf), s1)
    | (.fault code cause level e, s1) => (.error (code, accInfo h l cause level e), s1)
  | 1 => (.ok (.scratch unit (windowBase s t.team unit + l.ea)), s)
  | 2 =>
    let u := (seatUnit s t.team l.sel).getD unit
    (.ok (.scratch u (windowBase s t.team u + l.ea)), s)
  | _ =>
    let w := (alookup (s.planOf l.thread).wins l.sel).getD (0, 0)
    if w.2 ≤ l.ea then (.ok (.win 0 0 0), s)
    else
      match translate s (some unit) (ctxOfThread s l.thread) (w.1 + l.ea) false priv false with
      | (.ok _ a leaf, s1) => (.ok (.win a leaf (Nat.min h.size (w.2 - l.ea))), s1)
      | (.fault code cause level e, s1) => (.error (code, accInfo h l cause level e), s1)

/-- Translates every thread's access, the lowest home lane's fault first. -/
def locateAll (s : State) (h : How) (unit : Nat) (priv : Bool) :
    List Lane → Except (TrapCode × TrapInfo) (List (Lane × Loc)) × State
  | [] => (.ok [], s)
  | l :: r =>
    match locate s h l unit priv with
    | (.error e, s1) => (.error e, s1)
    | (.ok p, s1) =>
      match locateAll s1 h unit priv r with
      | (.ok ps, s2) => (.ok ((l, p) :: ps), s2)
      | (.error e, s2) => (.error e, s2)

/-- The race record of an access of a core (R184): the holder, or the held pass, whose core is its one unreleased holder. -/
def raceInfo (va seg akind : Nat) (g : Segment) (unit tag : Nat) (pass : Option (Nat × Nat)) : TrapInfo :=
  let u := unreleased g unit
  match pass with
  | some (p, h) =>
    { i0 := BitVec.ofNat 64 va, i1 := BitVec.ofNat 64 (seg * 4096),
      i2 := BitVec.ofNat 64 (1 * 2 ^ 56 + 3 * 2 ^ 48 + 0xFF * 2 ^ 40 + akind * 2 ^ 32 + 1 * 2 ^ 16 + h * 2 ^ 8),
      i3 := BitVec.ofNat 64 (p * 2 ^ 12 + tag) }
  | none =>
    let h := u.headD (0, none)
    { i0 := BitVec.ofNat 64 va, i1 := BitVec.ofNat 64 (seg * 4096),
      i2 := BitVec.ofNat 64 ((if g.own then 2 else 1) * 2 ^ 48 + h.2.getD 0xFF * 2 ^ 40 + akind * 2 ^ 32 +
        Nat.min 255 u.length * 2 ^ 16 + h.1 * 2 ^ 8),
      i3 := BitVec.ofNat 64 tag }

/-- The race test of one access (R183, R191), which changes nothing. A proctor's accesses never race (R434). -/
def raceBad (s : State) (h : How) (unit : Nat) (priv : Bool) (x : Lane × Loc) (write : Bool) : Option TrapInfo :=
  match x.2 with
  | .pa a _ =>
    if priv then none
    else
      let n := a / 4096
      match foreignPass s n unit with
      | some p =>
        some { raceInfo x.1.ea n (if h.home then 4 else if write then 1 else 0) {} unit 0 (some p) with
          thread := some x.1.thread }
      | none =>
        if !h.home && !ownPass s n unit && raceAt (segAt s n) unit write then
          some { raceInfo x.1.ea n (if write then 1 else 0) (segAt s n) unit 0 none with thread := some x.1.thread }
        else none
  | _ => none

/-- The segment that an access goes to. -/
def Loc.segs : Loc → List Nat
  | .pa a _ => [a / 4096]
  | .win a _ v => if v == 0 then [] else [a / 4096]
  | .scratch _ _ => []

/-- The virtual address that an access translates. -/
def laneVa (s : State) (h : How) (l : Lane) : Option Nat :=
  if h.space == 0 then some l.ea
  else if h.space == 3 then (alookup (s.planOf l.thread).wins l.sel).bind fun w => if w.2 ≤ l.ea then none else some (w.1 + l.ea)
  else none

/-- What the walk for an access of a thread reads (R418). -/
def laneWalk (s : State) (h : How) (unit : Nat) (l : Lane) : List (Nat × Nat) :=
  ((laneVa s h l).map fun va => walkSpans s (some unit) (ctxOfThread s l.thread) va).getD []

/-- The segments that the walks for a word's accesses read (R178, R418). -/
def laneSegs (s : State) (h : How) (unit : Nat) (ls : List Lane) : List Nat := spanSegs (ls.flatMap (laneWalk s h unit))

/-- The segments that a word's accesses read and write, those of the walks among them (R178, R418). -/
def accessSegs (s : State) (h : How) (unit : Nat) (xs : List (Lane × Loc)) : List Nat :=
  (xs.flatMap (fun x => x.2.segs) ++ laneSegs s h unit (xs.map Prod.fst)).eraseDups

/-- What the checks of a word's accesses come to. -/
inductive Checked where
  | ok (s : State) (xs : List (Lane × Loc))
  | stall (s : State)
  | trap (code : TrapCode) (i : TrapInfo)

/-- The checks of R352 over all executing threads: space, alignment, translation, race; `wr` says which of the
accesses write. -/
def checkAccess (s : State) (id unit : Nat) (priv : Bool) (h : How) (ls : List Lane)
    (wr : State → List (Lane × Loc) → List Bool) : Checked :=
  match ls.findSome? (spaceBad s h) with
  | some (code, i) => .trap code i
  | none =>
    match ls.find? fun l => l.ea % h.size != 0 with
    | some l => .trap .misaligned (accInfo h l 0 255 0)
    | none =>
      match locateAll s h unit priv ls with
      | (.error (code, i), _) =>
        let segs := laneSegs s h unit ls
        if blockedAt s id segs then .stall (enqueueAt s id segs) else .trap code i
      | (.ok xs, s1) =>
        let segs := accessSegs s h unit xs
        if blockedAt s id segs then .stall (enqueueAt s id segs)
        else
          match (xs.zip (wr s1 xs)).findSome? fun (x, w) => raceBad s1 h unit priv x w with
          | some i => .trap .race i
          | none => .ok (dequeueAt s1 id) xs

/-- Every access of a word reads, or every one writes, by what the word is. -/
def sameWay (h : How) (_ : State) (xs : List (Lane × Loc)) : List Bool := xs.map fun _ => h.kind != 0

/-- The directory's and the caches' part of one global access (R173, R179, R434). -/
def accessSeg (s : State) (unit ctx : Nat) (priv : Bool) (h : How) (write : Bool) (pa : Nat) (leaf : DWord) : State :=
  let n := pa / 4096
  let cp := policy leaf h.cp
  if priv || h.home then homeAccess s pa h.size ctx cp write
  else
    ((List.range ((pa + h.size - 1) / 256 + 1 - pa / 256)).map fun i => pa / 256 + i).foldl
      (fun s b => touchCaches s unit (b * 256) ctx cp write)
      (if ownPass s n unit then s else changeSeg s n (claim (segAt s n) unit write))

/-- Reads the bytes of an access. -/
def loadLoc (s : State) (unit ctx : Nat) (priv : Bool) (h : How) : Loc → List Byte × State
  | .pa a leaf => (readPa s a h.size, accessSeg s unit ctx priv h false a leaf)
  | .scratch u a => ((s.core u).scratch.bytes a h.size, s)
  | .win a leaf v =>
    let s1 := if v == 0 then s else accessSeg s unit ctx priv { h with home := true, size := v } false a leaf
    -- an access with a byte at or beyond SIZE counts one event (R140)
    let s2 := if v < h.size then
        s1.modCore unit fun k => { k with evwin := if k.evwin = -1 then k.evwin else k.evwin + 1 } else s1
    ((readPa s a v) ++ List.replicate (h.size - v) 0, s2)

/-- Writes the bytes of an access. -/
def storeLoc (s : State) (unit ctx : Nat) (priv : Bool) (h : How) (bs : List Byte) : Loc → State
  | .pa a leaf =>
    writePa (unrecord (accessSeg s unit ctx priv h true a leaf) a bs.length (if priv then none else some unit)) a bs
  | .scratch u a => s.modCore u fun k => { k with scratch := k.scratch.putBytes a bs }
  | .win .. => s

/-- The latest of the cycles of some accesses. -/
def latest (l : List Nat) : Nat := l.foldl Nat.max 0

/-- The cycle from which the bank of a physical address serves an access made now (R171). -/
def bankDue (s : State) (a : Nat) : Nat := Nat.max (s.sched.clk + 1) (awakeAt s (domainOf s a).1 (domainOf s a).2)

/-- The cycle from which the result of a thread's access may be written, `walked` the entries that its walk has read, s0 and s1 the
states before and behind the word's accesses: what passes the stacked cache waits for the wake of its power domain (R171). -/
def locDue (s0 s1 : State) (unit : Nat) (priv : Bool) (h : How) (walked : List (Nat × Nat)) (p : Loc) : Nat :=
  latest ((walked.map fun x => bankDue s1 x.1) ++ match p with
    | .pa a _ => if !priv && !h.home && inL1 s0 unit a then [s1.sched.clk + 1] else [bankDue s1 a]
    | .win a _ v => if v == 0 then [s1.sched.clk + 1] else [bankDue s1 a]
    | .scratch _ _ => [s1.sched.clk + 1])

/-- The scope an operand code names (R355): DEVICE in proctor mode, LEVEL[TEAMLV].SCOPE for code 6,
LEVEL[n].SCOPE for 8 + n. -/
def scopeOf (s : State) (t : Nat) (priv : Bool) (code : Nat) : Nat :=
  if priv then 4
  else
    let l := s.launchOf t
    if code ≤ 5 then code
    else if code == 6 then ((l.levels.drop l.teamlv).head?.map Level.scope).getD 4
    else ((l.levels.drop (code - 8)).head?.map Level.scope).getD 4

/-- The team barrier's scope of a thread (R27). -/
def teamScope (s : State) (t : Nat) : Nat :=
  let l := s.launchOf t
  ((l.levels.drop l.teamlv).head?.map Level.scope).getD 4

/-- A release of a unit at a scope; a proctor's accesses are all performed at home (R434). -/
def release (s : State) (unit scope : Nat) (priv : Bool) : State := if priv then s else releaseCore s unit scope

/-- A copy of a thread that touches a REMOTE page is outstanding, for which a release at SYSTEM scope waits (R201). -/
def remoteCopies (s : State) (t : Nat) : Bool := s.mem.copies.any fun c => c.thread == t && c.remote

/-- A surface write of a thread has been issued and not performed yet. -/
def surfaceWrites (s : State) (t : Nat) : Bool := s.surf.reqs.any fun q => q.thread == t && (q.kind == 1 || q.kind == 2)

/-- A release waits for the releasing thread's earlier surface writes (R199), and one at SYSTEM scope for its copies of REMOTE
pages (R201). -/
def releaseWait (s : State) (ths : List Nat) (scope : Nat) : Bool :=
  ths.any (surfaceWrites s) || (scope == 5 && ths.any (remoteCopies s))

/-- A thread is at no safe point until its next REGION: it has executed a commit point (R86). -/
def commitPoint (s : State) (ths : List Nat) : State :=
  ths.foldl (fun s t => s.modThread t fun th => { th with restartable := false }) s

end Sys2Proof.Machine
end

