-- ==== Sys2Proof/WellFormed.lean ====
section
/-! DEFINITION. Which instructions are well formed: those whose fields pass the checks of R253 that do
not look at the machine's state, and which the opcode maps give back from their class, opcode and fields. -/

namespace Sys2Proof

/-- The instruction is a word of the code, and no event. -/
def Instr.isWord (i : Instr) : Bool :=
  match i.shape with
  | .event => false
  | _ => true

/-- The instruction passes checks 2, 4 and 5 of R253, `priv`, ROWMAX and level numbers apart. An event is
well formed whatever data it carries. -/
def Instr.wf (i : Instr) : Bool :=
  match i.shape with
  | .base op o => baseOk op o && mkBase op o == some i
  | .alu op f => aluOk op f && mkAlu op f == some i
  | .ctlB op k low => mkCtlB op k low == some i
  | .ext cls op f => extOk cls op f && mkExt cls op f == some i
  | .pair p => pairOk p
  | .event => true

end Sys2Proof
end

