-- ==== Sys2Proof/Decode.lean ====
section
/-! DEFINITION. The decoder: words to an instruction, with the checks of R253 in their order, and the
encoder, written from the same layouts (R241, R242, R244, R245, R249). -/

namespace Sys2Proof

/-- Why a word does not decode (R253, checks 1 to 5). -/
inductive DecodeError where
  /-- check 1 or 2: the instruction does not lie whole in the code, or its opcode or form is unassigned -/
  | illegalOpcode
  /-- check 3 -/
  | privileged
  /-- check 4 -/
  | illegalField
  /-- check 5 -/
  | illegalPair
  deriving DecidableEq, Repr

/-- What of the issuing cohort the checks look at: proctor mode (R306), ROWMAX (R65) and the number of levels (R355). -/
structure DecodeCtx where
  priv : Bool
  rowmax : Nat
  nlev : Nat
  deriving DecidableEq, Repr

/-- One operand field of an extended form (R245). -/
def opndOf (w : BitVec 10) : Opnd := ⟨w.getLsbD 9, w.getLsbD 8, w.extractLsb' 0 8⟩

/-- The fields of an extended form's three words (R244). -/
def extOf (w0 w1 w2 : Word) : Ext :=
  { st := w0.extractLsb' 27 3, pg := w0.extractLsb' 14 3, pn := w0.getLsbD 13, pd := w0.extractLsb' 10 3,
    mod := w0.extractLsb' 0 10,
    d := opndOf (w1.extractLsb' 22 10), a := opndOf (w1.extractLsb' 12 10), b := opndOf (w1.extractLsb' 2 10),
    pbs := w1.extractLsb' 0 2,
    c := opndOf (w2.extractLsb' 22 10), km1 := w2.extractLsb' 20 2, imm := w2.extractLsb' 0 16 }

/-- The fields of a base word (R242). -/
def baseOf (w0 : Word) : BaseOps :=
  { st := w0.extractLsb' 27 3, d := w0.extractLsb' 10 7, a := w0.extractLsb' 3 7, ka := w0.getLsbD 2,
    x := w0.extractLsb' 0 2 }

/-- The fields of a pair word (R249). -/
def pairOf (w0 w1 w2 : Word) : PairOps :=
  { st := w0.extractLsb' 27 3,
    x := { pop := w0.extractLsb' 10 6, g := w0.extractLsb' 7 3, d := w0.extractLsb' 0 7,
           ka := w1.getLsbD 31, a := w1.extractLsb' 24 7, kb := w1.getLsbD 23, b := w1.extractLsb' 16 7,
           kc := w1.getLsbD 15, c := w1.extractLsb' 8 7 },
    y := { pop := w1.extractLsb' 2 6, g := w1.extractLsb' 0 2 ++ w2.extractLsb' 31 1, d := w2.extractLsb' 24 7,
           ka := w2.getLsbD 23, a := w2.extractLsb' 16 7, kb := w2.getLsbD 15, b := w2.extractLsb' 8 7,
           kc := w2.getLsbD 7, c := w2.extractLsb' 0 7 } }

/-- How many words an instruction with length code L has (R241). -/
def formLength (l : Nat) : Nat := if l == 0 then 1 else if l == 3 then 5 else 3

/-- Check 2's verdict on a compute word's form (R247, R253, R259). -/
def aluForm (i : AluInfo) (c : Cls) (l : Nat) : Except DecodeError Unit :=
  if c == .uni && !i.uni then .error .illegalOpcode
  else if l == 0 then (if i.b then .ok () else .error .illegalOpcode)
  else if l == 1 then (if i.e then .ok () else .error .illegalOpcode)
  else if l == 2 then
    (if i.bl then .ok () else if i.b then .error .illegalField else .error .illegalOpcode)
  else (if i.el then .ok () else if i.e then .error .illegalField else .error .illegalOpcode)

/-- Accepts a built instruction when check 4 passes. -/
def accept (ok : Bool) (i : Option Instr) (n : Nat) : Except DecodeError (Instr × Nat) :=
  match i with
  | some j => if ok then .ok (j, n) else .error .illegalField
  | none => .error .illegalField

/-- Decodes a word of CLS 00 or CLS 01. -/
def decodeAlu (ctx : DecodeCtx) (c : Cls) (l op : Nat) (w0 w1 w2 w3 w4 : Word) :
    Except DecodeError (Instr × Nat) :=
  match aluInfo op with
  | none => .error .illegalOpcode
  | some i =>
    match aluForm i c l with
    | .error e => .error e
    | .ok _ =>
      if l == 0 then
        match c with
        | .vec => accept (baseOk op (baseOf w0) && decide (baseTop i .vec (baseOf w0) ≤ ctx.rowmax))
            (mkBase op (baseOf w0)) 1
        | .uni => accept (aluOk op (.ub (baseOf w0))) (mkAlu op (.ub (baseOf w0))) 1
      else
        let f : AluForm :=
          if l == 1 then .e c (extOf w0 w1 w2)
          else if l == 2 then .bl c (baseOf w0) (w2 ++ w1)
          else .el c (extOf w0 w1 w2) (w4 ++ w3)
        accept (aluOk op f && decide (aluTop op f ≤ ctx.rowmax) &&
          (l == 2 || w2.extractLsb' 16 4 == 0)) (mkAlu op f) (formLength l)

/-- Decodes a word of CLS 10 or CLS 11. -/
def decodeExt (ctx : DecodeCtx) (cls l op : Nat) (w0 w1 w2 w3 w4 : Word) :
    Except DecodeError (Instr × Nat) :=
  match extInfo cls op with
  | none => .error .illegalOpcode
  | some i =>
    let hasBase := cls == 2 && ctlHasBase op
    if (l == 0 || l == 2) && !hasBase then .error .illegalOpcode
    else if i.priv && !ctx.priv then .error .privileged
    else if l == 0 then accept true (mkCtlB op (w0.extractLsb' 27 3) (w0.extractLsb' 0 17)) 1
    else if l == 2 then .error .illegalField
    else
      let f : ExtForm := ⟨extOf w0 w1 w2, if l == 3 then some (w4 ++ w3) else none⟩
      accept (extOk cls op f && decide (extTop cls op f ≤ ctx.rowmax) &&
        (ctx.priv || decide (scopeLevel cls op f.x ≤ ctx.nlev)) && w2.extractLsb' 16 4 == 0)
        (mkExt cls op f) (formLength l)

/-- Decodes a pair word (R249 to R251): its field checks come before its pair checks (R253). -/
def decodePair (ctx : DecodeCtx) (l : Nat) (w0 w1 w2 : Word) : Except DecodeError (Instr × Nat) :=
  if l == 0 || l == 2 then .error .illegalOpcode
  else if w0.getLsbD 16 then .error .illegalField
  else if l == 3 then .error .illegalPair
  else
    let p := pairOf w0 w1 w2
    if !decide (pairTop p ≤ ctx.rowmax) then .error .illegalField
    else if pairOk p then .ok (.pairWord p, 3) else .error .illegalPair

/-- Decodes the instruction at the head of a list of words: checks 1 to 5 of R253 in their order. Answers
the instruction and how many words it has. -/
def decode (ctx : DecodeCtx) (ws : List Word) : Except DecodeError (Instr × Nat) :=
  match ws with
  | [] => .error .illegalOpcode
  | w0 :: rest =>
    let l := (w0.extractLsb' 30 2).toNat
    let cls := (w0.extractLsb' 25 2).toNat
    let op := (w0.extractLsb' 17 8).toNat
    if rest.length + 1 < formLength l then .error .illegalOpcode
    else
      let w1 := rest.getD 0 0
      let w2 := rest.getD 1 0
      let w3 := rest.getD 2 0
      let w4 := rest.getD 3 0
      if cls == 0 then
        if op == 0xFF then decodePair ctx l w0 w1 w2 else decodeAlu ctx .vec l op w0 w1 w2 w3 w4
      else if cls == 1 then decodeAlu ctx .uni l op w0 w1 w2 w3 w4
      else decodeExt ctx cls l op w0 w1 w2 w3 w4

/-- Word 0 of an instruction (R241): length code, stall count, class, opcode, and 17 low bits. -/
def word0 (l : BitVec 2) (st : BitVec 3) (cls : BitVec 2) (op : Nat) (low : BitVec 17) : Word :=
  l ++ st ++ cls ++ BitVec.ofNat 8 op ++ low

/-- One operand field. -/
def Opnd.bits (o : Opnd) : BitVec 10 := BitVec.ofBool o.kind ++ BitVec.ofBool o.mark ++ o.idx

/-- The low bits of an extended word 0 (R244). -/
def Ext.low (x : Ext) : BitVec 17 := x.pg ++ BitVec.ofBool x.pn ++ x.pd ++ x.mod

/-- The low bits of a base word (R242). -/
def BaseOps.low (o : BaseOps) : BitVec 17 := o.d ++ o.a ++ BitVec.ofBool o.ka ++ o.x

/-- Words 1 and 2 of an extended form (R244). -/
def Ext.words12 (x : Ext) : List Word :=
  [x.d.bits ++ x.a.bits ++ x.b.bits ++ x.pbs, x.c.bits ++ x.km1 ++ (0 : BitVec 4) ++ x.imm]

/-- The two words of a literal, the low one first (R241). -/
def litWords (l : DWord) : List Word := [l.extractLsb' 0 32, l.extractLsb' 32 32]

/-- The class field of a compute word. -/
def Cls.bits (c : Cls) : BitVec 2 := match c with | .vec => 0 | .uni => 1

/-- The words of a pair word (R249). -/
def PairOps.words (p : PairOps) : List Word :=
  [word0 1 p.st 0 0xFF ((0 : BitVec 1) ++ p.x.pop ++ p.x.g ++ p.x.d),
   BitVec.ofBool p.x.ka ++ p.x.a ++ BitVec.ofBool p.x.kb ++ p.x.b ++ BitVec.ofBool p.x.kc ++ p.x.c ++
     p.y.pop ++ p.y.g.extractLsb' 1 2,
   p.y.g.extractLsb' 0 1 ++ p.y.d ++ BitVec.ofBool p.y.ka ++ p.y.a ++ BitVec.ofBool p.y.kb ++ p.y.b ++
     BitVec.ofBool p.y.kc ++ p.y.c]

/-- The words of an instruction; an event has none. -/
def encode (i : Instr) : List Word :=
  match i.shape with
  | .base op o => [word0 0 o.st 0 op o.low]
  | .alu op (.ub o) => [word0 0 o.st 1 op o.low]
  | .alu op (.bl c o lit) => word0 2 o.st c.bits op o.low :: litWords lit
  | .alu op (.e c x) => word0 1 x.st c.bits op x.low :: x.words12
  | .alu op (.el c x lit) => word0 3 x.st c.bits op x.low :: (x.words12 ++ litWords lit)
  | .ctlB op st low => [word0 0 st 2 op low]
  | .ext cls op f =>
    match f.lit with
    | none => word0 1 f.x.st (BitVec.ofNat 2 cls) op f.x.low :: f.x.words12
    | some lit => word0 3 f.x.st (BitVec.ofNat 2 cls) op f.x.low :: (f.x.words12 ++ litWords lit)
  | .pair p => p.words
  | .event => []

/-- The five words of an instruction whose bits, numbered from bit 0 of word 0, are w; bits from nbits up are zero. -/
def tableWords (nbits w : Nat) : List Word :=
  let v := w % 2 ^ nbits
  (List.range 5).map fun k => BitVec.ofNat 32 (v >>> (32 * k))

/-- What the decoder reads from an instruction given as in spec/opcode_table.json, in proctor mode and
with the widest register window. -/
def decodeTableWord (nbits w : Nat) : Option Instr :=
  match decode ⟨true, 128, 8⟩ (tableWords nbits w) with
  | .ok (i, _) => some i
  | .error _ => none

end Sys2Proof
end

