-- ==== Sys2Proof/Machine/Sched.lean ====
section
/-! DEFINITION. Fetch (R89, R248), the selection of a cohort (R38), the end of a cycle, and the placing of a
single instruction for the host's question. -/

namespace Sys2Proof.Machine

/-- The offset of an image's first code word (R91). -/
def Image.codeOff (i : Image) : Nat := (i.words.getD 3 0).toNat % 65536

/-- The resident image that a PC of a cohort names (R89, R100). -/
def imageAt (s : State) (c : Cohort) (pc : Word) : Option Image :=
  let p := s.planC c
  let r : OvRef := ⟨p.ctx, p.ovtab, pc.toNat / 65536⟩
  (s.core c.unit).images.find? fun i => i.views.contains r

/-- The words at a cohort's PC, at most five, none outside the code of the resident image (R89, R248). -/
def fetch (s : State) (c : Cohort) : List Word :=
  match imageAt s c c.pc with
  | none => []
  | some i =>
    let o := c.pc.toNat % 65536
    if o < i.codeOff then [] else (i.words.drop o).take 5

/-- A fetch is a use of the image (R96). -/
def useImage (s : State) (c : Cohort) : State :=
  match imageAt s c c.pc with
  | none => s
  | some i => s.modCore c.unit fun k => { k with
      images := k.images.map fun x => if x.id == i.id then { x with used := s.sched.clk } else x }

/-- What the decode checks look at of a cohort. -/
def decodeCtx (s : State) (c : Cohort) : DecodeCtx :=
  let p := s.planC c
  ⟨c.priv, p.rowmax, (s.launch c.launch).levels.length⟩

/-- The words of an instruction as fetched, as a record of codes 0x01 to 0x03 and 0x05 carries them (R410). -/
def wordInfo (ws : List Word) : TrapInfo :=
  let n := formLength ((ws.getD 0 0).toNat / 2 ^ 30)
  let w (i : Nat) : Word := if i < n then ws.getD i 0 else 0
  { i0 := w 1 ++ w 0, i1 := w 3 ++ w 2, i2 := (w 4).setWidth 64 }

/-- The trap of a word that does not decode, its record carrying the words as fetched (R253, R410). -/
def decodeTrap (s : State) (id : Nat) (e : DecodeError) (ws : List Word) : State :=
  let n := formLength ((ws.getD 0 0).toNat / 2 ^ 30)
  let code := match e with
    | .illegalOpcode => TrapCode.illegalOpcode
    | .privileged => .privileged
    | .illegalField => .illegalField
    | .illegalPair => .illegalPair
  takeTrap s id n code (wordInfo ws)

/-- The cohort has been stopped for pre-emption (R415). -/
def Leave.isStopped : Leave → Bool
  | .stopped _ => true
  | _ => false

/-- A matrix command with which a team's resumption goes on is not complete yet (R212). -/
def resuming (s : State) (t : Nat) : Bool :=
  (s.teamOf t).resuming.any fun x => (s.core x.1).mx.queue.any fun c => c.id == x.2

/-- The cohort may issue in this cycle as far as its own state tells (R38): not stopped, in a context, past its stall
count, and waiting on nothing that its next word would not try again. -/
def mayIssue (s : State) (c : Cohort) : Bool :=
  c.stop.isNone && c.cloak == .no && !c.leave.isStopped && !c.active.isEmpty && decide (c.nextIssue ≤ s.sched.clk) &&
  !c.active.any (resuming s) &&
  match c.wait with
  | .none => true
  | .stall _ _ => true
  | .clock t _ => decide (t ≤ s.sched.clk)
  | _ => false

/-- The cohort may issue and has not been tried in this cycle. -/
def mayTry (s : State) (c : Cohort) : Bool :=
  mayIssue s c &&
  match c.wait with
  | .stall _ t => t != s.sched.clk
  | _ => true

/-- The partition of a cohort, as a number. -/
def Cohort.slot (c : Cohort) : Nat := 4 * c.unit + c.part

/-- The cohort that a partition selects (R38), with every cap mark cleared when the third step selects it. -/
def select (s : State) (slot : Nat) : Option (Nat × State) :=
  let cs := s.work.cohorts.filter fun (_, c) => c.slot == slot && mayTry s c
  let cur := alookup (s.core (slot / 4)).current (slot % 4)
  match cs.find? fun (i, c) => cur == some i && decide (c.issued < 256) && !c.capMark with
  | some (i, _) => some (i, s)
  | none =>
    match minBy (fun x : Nat × Cohort => x.2.stamp) (cs.filter fun (_, c) => !c.capMark) with
    | some (i, _) => some (i, s)
    | none =>
      match minBy (fun x : Nat × Cohort => x.2.stamp) cs with
      | some (i, _) =>
        some (i, { s with work := { s.work with cohorts := s.work.cohorts.map fun (j, c) =>
          (j, if c.slot == slot then { c with capMark := false } else c) } })
      | none => none

/-- Some cohort of a partition may be tried in this cycle. -/
def hasTry (s : State) (slot : Nat) : Bool := s.work.cohorts.any fun (_, c) => c.slot == slot && mayTry s c

/-- It is a partition's turn: it has not issued in this cycle, and the partitions of its core come in ascending number
(R38, R281). -/
def slotOpen (s : State) (slot : Nat) : Bool :=
  !(s.sched.served.any fun q => q / 4 == slot / 4 && decide (slot ≤ q)) &&
  (List.range (slot % 4)).all fun p =>
    let q := slot / 4 * 4 + p
    s.sched.served.contains q || !hasTry s q

/-- The partitions whose turn it is and that have a cohort to try. -/
def openSlots (s : State) : List Nat :=
  (distinct (s.work.cohorts.map fun (_, c) => c.slot)).filter fun q => slotOpen s q && hasTry s q

/-- No second word is offered. -/
def noSecond (s : State) : State := s.modSched fun x => { x with dual := none }

/-- The cohort whose next word may be the second of the cycle as far as the classes of the two words tell (R39). -/
def maySecond (s : State) : Option (Nat × Cohort × Dual) :=
  match s.sched.dual with
  | none => none
  | some d =>
    match s.cohort? d.id with
    | none => none
    | some c =>
      let vec := (((fetch s c).getD 0 0).toNat / 2 ^ 25) % 4 == 0
      if !d.second && c.stop.isNone && !c.leave.isStopped && c.cloak == .no && !c.active.isEmpty && c.wait == .none &&
          c.nextIssue == s.sched.clk + 1 && !(fetch s c).isEmpty && d.vec != vec then some (d.id, c, d)
      else none

/-- A cohort's bell wait after a generation's waiters are released: threads whose record is passed clear it, and the
cohort goes on when none is left (R361). -/
def bellCohort (s : State) (line opened id : Nat) : State :=
  match (s.cohort id).wait with
  | .bell l ths =>
    if l == line then
      let passed (t : Nat) : Bool := match alookup (s.thread t).bells line with
        | some g => decide (g < opened)
        | none => true
      let s1 := ths.foldl (fun s t =>
        if passed t then s.modThread t fun th => { th with bells := aerase th.bells line } else s) s
      let rest := ths.filter fun t => !passed t
      s1.modCohort id fun c => { c with wait := if rest.isEmpty then .none else .bell l rest }
    else s
  | _ => s

/-- Releases the waiters of a bell line's generations whose cycle has come (R198). -/
def bellRelease (s : State) (line : Nat) : State :=
  match alookup s.mem.bells line with
  | none => s
  | some b =>
    let due := b.releasing.filter fun x => decide (x.due ≤ s.sched.clk)
    if due.isEmpty then s
    else
      let opened := due.foldl (fun m x => if x.live then x.gen else m) b.opened
      let rest := b.releasing.filter fun x => decide (s.sched.clk < x.due)
      let s1 := s.modMem fun m => { m with bells := ainsert m.bells line { b with opened := opened, releasing := rest } }
      due.foldl (fun s x => (s.work.cohorts.map Prod.fst).foldl (fun s id => bellCohort s line x.gen id) s) s1

/-- A slow-path seat read may see the value that stands now, up to the cycle by which the crossbar reads it (R47): a free
choice (log entry 2). A checkpoint that waits for the value follows it (R289). -/
def sampleSeat (t : Nat) (s : State) (p : Pend) : State :=
  match p.seat with
  | none => s
  | some (src, n) =>
    if p.due < s.sched.clk then s
    else
      let (b, s1) := s.freeBit
      if b then s1.modThread t fun th => th.resample p (((s1.thread src).readName n).setWidth 64) else s1

/-- The slow-path seat reads on their way in a cycle. -/
def sampleSeats (s : State) : State :=
  (s.work.threads.filter fun x => x.2.writes.any fun p => p.seat.isSome).foldl
    (fun s x => x.2.writes.foldl (sampleSeat x.1) s) s

/-- A core that converts has its new setting (R145). -/
def Core.converted (k : Core) : Core :=
  match k.conv with
  | .converting m _ _ => { k with carve := m, conv := .none }
  | _ => k

/-- A conversion's last cycle has come (R145). -/
def Core.convDue (clk : Nat) (k : Core) : Bool :=
  match k.conv with
  | .converting _ _ due => decide (due ≤ clk)
  | _ => false

/-- Every conversion whose last cycle has come is complete (R145). -/
def settleConversions (s : State) : State :=
  (s.cores.filter fun (_, k) => k.convDue s.sched.clk).foldl (fun s x => s.modCore x.1 Core.converted) s

/-- The end of a cycle: the clock counts on, every write that is then due is performed (R70), seat reads on their way may
see the new values (R47), conversions whose last cycle it is are complete (R145), the waiters of bell generations whose cycle it
is are released (R198), and every partition has
its turn again. How many events then happen by themselves in the cycle is open (log entry 2). -/
def tick (s : State) : State :=
  let s1 := settleDue (s.modSched fun x => { x with
    clk := x.clk + 1, served := [], budget := Config.freeNat x.fresh, swept := false, fresh := x.fresh + 1, dual := none })
  let s2 := settleConversions (sampleSeats s1)
  (s2.mem.bells.map Prod.fst).foldl bellRelease s2

/-- Lays an image with one entry and one instruction on core 0, or, when the instruction needs proctor mode (R253, check
3), at the hub proctor, and a cohort of one thread at it, which is to issue next (log entry 6). -/
def placeWords (s : State) (ws : List Word) : State :=
  let n := s.sched.next
  let words : List Word := [0x01000000, 0x00010000, 0x00000009, 0x00000009, 0, 0, 0, 0, 0x00000009] ++ ws ++ [0, 0]
  let priv := match decode ⟨false, 128, 8⟩ ws with
    | .error .privileged => true
    | _ => false
  let u := if priv then hubUnit else 0
  let lv : List Level := List.replicate 8 ⟨1, 1, 1⟩
  let p : Plan := { Plan.nil with parsed := true, begun := true, left := true, done := priv, levels := lv }
  let l : Launch := { plan := n, stage := 0, levels := lv, teamlv := 0, total := 1, teamSize := 1, nextTeam := 1 }
  let tm : Team := { launch := n + 1, num := 0, units := [u], windows := [], threads := [n + 3] }
  let th : Thread := { Thread.nil with launch := n + 1, team := n + 2, lcoh := n + 4, unit := u, place := .cohort (n + 5) }
  let lc : LaunchCohort := { team := n + 2, unit := u, part := 0, threads := [n + 3] }
  let co : Cohort := { unit := u, part := 0, ctx := 0, launch := n + 1, stamp := 0, pc := 9, active := [n + 3],
                       nextIssue := 0, priv := priv }
  let im : Image := { id := n + 6, share := false, len := 4 * words.length, digest := [], words := words,
                      views := [⟨0, 0, 0⟩] }
  { s with
    sched := { s.sched with agenda := [.issue (n + 5)], served := [], next := n + 7 }
    work := { s.work with
      plans := ainsert s.work.plans n p
      launches := ainsert s.work.launches (n + 1) l
      teams := ainsert s.work.teams (n + 2) tm
      threads := ainsert s.work.threads (n + 3) th
      lcohs := ainsert s.work.lcohs (n + 4) lc
      cohorts := ainsert s.work.cohorts (n + 5) co }
    cores := ainsert s.cores u { s.core u with
      images := im :: (s.core u).images, current := ainsert (s.core u).current 0 (n + 5) }
    host := { s.host with mode := .running } }

end Sys2Proof.Machine
end

