-- ==== Sys2Proof/Machine/Queues.lean ====
section
/-! DEFINITION. Queue objects (R165), read and written at home, and the release of their records (R375). -/

namespace Sys2Proof.Machine

/-- Writes bytes of a virtual range at home for the hub itself: each holder writes back and is invalidated
(R165, R202); bytes whose page does not translate to a writable GDDR7 page are not written. -/
def writePages (s : State) (ctx va : Nat) (bs : List Byte) : Nat → State
  | 0 => s
  | fuel + 1 =>
    if bs.isEmpty then s
    else
      let k := 4096 - va % 4096
      match translate s none ctx va true false false with
      | (.ok _ pa leaf, s1) => writePages (homePut s1 pa ctx (policy leaf 0) (bs.take k)) ctx (va + k) (bs.drop k) fuel
      | (.fault .., s1) => writePages s1 ctx (va + k) (bs.drop k) fuel

/-- As `writePages`, over all pages of the range. Whoever writes has waited for the transitions that he meets (`admitRanges`). -/
def writeHome (s : State) (ctx va : Nat) (bs : List Byte) : State := writePages s ctx va bs (pageCount bs.length)

/-- A queue object as read (R165). -/
structure QObj where
  addr : Nat
  base : Nat
  size : Nat
  slots : Nat
  cl : Nat
  rd : Nat
  wr : Nat
  fmap : Nat
  deriving DecidableEq, Repr

/-- Reads a queue object; nothing when a rule of R165 is broken. -/
def parseQueue (addr : Nat) (bs : List Byte) : Option QObj :=
  let d0 := dwordAt bs 0
  let d1 := dwordAt bs 8
  let d2 := dwordAt bs 16
  let d3 := dwordAt bs 24
  if nfld d0 63 52 != 0 || d0 % 256 != 0 || nfld d1 43 32 != 0 || nfld d3 63 52 != 0 || d3 % 8 != 0 then none
  else some ⟨addr, d0, (nfld d1 63 60 + 1) * 16, nfld d1 59 44 + 1, nfld d1 31 0, nfld d2 63 32, nfld d2 31 0, d3⟩

/-- Held and unclaimed records (R165). -/
def QObj.held (q : QObj) : Nat := (q.wr + 2 ^ 32 - q.rd) % 2 ^ 32
def QObj.unclaimed (q : QObj) : Nat := (q.wr + 2 ^ 32 - q.cl) % 2 ^ 32

/-- The queue object at an address, read at home. -/
def queueAt (s : State) (ctx addr : Nat) : Option QObj := (readHome s ctx addr 32).bind (parseQueue addr)

/-- Address of a record's slot, and its place in the filled bitmap. -/
def QObj.slotAddr (q : QObj) (n : Nat) : Nat := q.base + n % q.slots * q.size
def QObj.bitAddr (q : QObj) (n : Nat) : Nat := q.fmap + n % q.slots / 8
def QObj.bitMask (q : QObj) (n : Nat) : Nat := 2 ^ (n % q.slots % 8)

/-- The filled bit of a record is set. -/
def filled (s : State) (ctx : Nat) (q : QObj) (n : Nat) : Bool :=
  match readHome s ctx (q.bitAddr n) 1 with
  | some bs => (leNat bs).testBit (n % q.slots % 8)
  | none => false

/-- The virtual ranges of a queue object, and of the slots and filled bits of some records. -/
def queueRanges (q : QObj) (recs : List Nat) : List (Nat × Nat) :=
  (q.addr, 32) :: recs.flatMap fun n => [(q.bitAddr n, 1), (q.slotAddr n, q.size)]

/-- Someone's access to a queue object, and to the slots and filled bits of some records (`takeTurn`). -/
def admitQueue (s : State) (w : Waiter) (ctx : Nat) (q : QObj) (recs : List Nat) : Bool × State :=
  admitRanges s w ctx (queueRanges q recs)

/-- Sets or clears the filled bit of a record. -/
def setFilled (s : State) (ctx : Nat) (q : QObj) (n : Nat) (v : Bool) : State :=
  match readHome s ctx (q.bitAddr n) 1 with
  | some bs =>
    let x := leNat bs
    let m := q.bitMask n
    writeHome s ctx (q.bitAddr n) [BitVec.ofNat 8 (if v then x ||| m else if x.testBit (n % q.slots % 8) then x - m else x)]
  | none => s

/-- Pushes one record to a queue in memory (R373): it takes WR, writes the slot and sets the filled bit;
nothing when the queue is full. -/
def pushRecord (s : State) (ctx : Nat) (q : QObj) (bs : List Byte) : Option State :=
  if q.slots ≤ q.held then none
  else
    let s1 := writeHome (visitHome s ctx q.addr 32) ctx (q.addr + 16) (leBytes 4 ((q.wr + 1) % 2 ^ 32))
    let s2 := writeHome s1 ctx (q.slotAddr q.wr) bs
    some (setFilled s2 ctx q q.wr true)

/-- The queue object's address of a stage of a plan. -/
def stageQueue (p : Plan) (j : Nat) : Nat := ((p.stages.drop (j - 1)).head?.map Stage.queue).getD 0

/-- The hub accesses virtual ranges of a context for itself, as w: when it has to wait for that, it is done later (R171, R178). -/
def orLater (s : State) (w : Waiter) (ctx : Nat) (l : List (Nat × Nat)) (f : State → State) : State :=
  match admitRanges s w ctx l with
  | (true, s1) => f s1
  | (false, s1) => s1

/-- Advances RD over the released records that follow one another, clearing their filled bits (R375). -/
def advanceRd (s : State) (w : Waiter) (plan stage : Nat) : Nat → State
  | 0 => dequeueFor s w
  | fuel + 1 =>
    let ctx := (s.plan plan).ctx
    let addr := stageQueue (s.plan plan) stage
    match queueAt s ctx addr with
    | none => dequeueFor s w
    | some q =>
      if s.work.released.contains (plan, stage, q.rd) then
        orLater s w ctx [(addr, 32), (q.bitAddr q.rd, 1)] fun s =>
          let s1 := setFilled (visitHome s ctx addr 32) ctx q q.rd false
          let s2 := writeHome s1 ctx (addr + 20) (leBytes 4 ((q.rd + 1) % 2 ^ 32))
          advanceRd { s2 with work := { s2.work with released := s2.work.released.erase (plan, stage, q.rd) } } w plan stage fuel
      else dequeueFor s w

/-- As `advanceRd`, over as many records as are released. -/
def advanceQueue (s : State) (w : Waiter) (plan stage : Nat) : State := advanceRd s w plan stage s.work.released.length

/-- Discards the records of a queue, claimed and unclaimed (R309). -/
def discardQueue (s : State) (w : Waiter) (ctx addr : Nat) : State :=
  match queueAt s ctx addr with
  | none => dequeueFor s w
  | some q =>
    let recs := (List.range q.held).map fun i => (q.rd + i) % 2 ^ 32
    orLater s w ctx ((addr, 32) :: recs.map fun n => (q.bitAddr n, 1)) fun s =>
      let s1 := recs.foldl (fun s n => setFilled s ctx q n false) (visitHome s ctx addr 32)
      writeHome (writeHome s1 ctx (addr + 8) (leBytes 4 q.wr)) ctx (addr + 20) (leBytes 4 q.wr)

/-- What the hub has to do is done when its turn has come; what is left of it waits again (R178). -/
def serveAct (s : State) (w : Waiter) (segs : List Nat) : State :=
  match w with
  | .act _ what =>
    if blockedFor s w segs then s
    else
      match what with
      | .advance plan stage => advanceQueue s w plan stage
      | .discard ctx addr => discardQueue s w ctx addr
      | _ => segs.foldl (fun s n => actOnSeg s what n) (dequeueFor s w)
  | _ => s

/-- Does, in order of arrival, what the hub has to do. -/
def serveActs (s : State) : State := s.mem.waiting.foldl (fun s x => serveAct s x.1 x.2) s

/-- The records of queues in memory among some, and the slots of a ring among them. -/
def memRecs (l : List QRec) : List Nat := l.filterMap fun r => match r with
  | .mem n => some n
  | .ring _ _ => none
def ringRecs (id : Nat) (l : List QRec) : List Nat := l.filterMap fun r => match r with
  | .mem _ => none
  | .ring i k => if i == id then some k else none

/-- A fused ring. -/
def State.modRing (s : State) (id : Nat) (f : Ring → Ring) : State :=
  { s with work := { s.work with rings := amodify s.work.rings id f } }

/-- Releases records that a launch has taken (R375): ring slots are free at once, memory records are passed by RD. -/
def releaseRecords (s : State) (l : Nat) (recs : List QRec) : State :=
  let la := s.launch l
  let s1 := s.modLaunch l fun x => { x with taken := x.taken.filter fun r => !recs.contains r }
  let s2 : State := { s1 with work := { s1.work with rings := s1.work.rings.map fun (i, r) =>
    (i, { r with out := without r.out (ringRecs i recs) }) } }
  if (memRecs recs).isEmpty then s2
  else
    let s3 := { s2 with work := { s2.work with
      released := s2.work.released ++ (memRecs recs).map fun n => (la.plan, la.stage, n) } }
    let (id, s4) := s3.newId
    advanceQueue s4 (.act id (.advance la.plan la.stage)) la.plan la.stage

end Sys2Proof.Machine
end

