-- ==== Sys2Proof/Machine/Teams.lean ====
section
/-! DEFINITION. What happens to teams: barriers (R360), hall passes (R190), publication of passback names (R50),
closing of meshlets (R217), completion of quads (R223), the end of threads and of teams (R15, R290, R309). -/

namespace Sys2Proof.Machine

/-- The threads of a team that have exited or are lost. -/
def exitedOf (s : State) (team : Nat) : List Nat :=
  (s.team team).threads.filter fun t => match (s.thread t).place with
    | .exited | .lost => true
    | _ => false

/-- Counts threads at the current generation of their team's barrier: a release, a record and the count
(R196, R360). -/
def barArrive (s : State) (unit : Nat) (priv : Bool) (t : Nat) : State :=
  let tm := (s.thread t).team
  let s1 := release s unit (teamScope s t) priv
  (s1.modThread t fun th => { th with barRec := some (s.team tm).barGen }).modTeam tm fun x =>
    { x with counted := x.counted ++ [t] }

/-- A cohort's barrier wait after a generation has completed: late threads are counted, waits that have completed
clear their records, and the cohort goes on when nothing is left (R360). -/
def barrierCohort (s : State) (team id : Nat) : State :=
  match (s.cohort id).wait with
  | .barrier late w ths =>
    let gen := (s.team team).barGen
    let mine := ths.filter fun t => (s.thread t).team == team
    let s1 := mine.foldl (fun s t =>
      if late.contains t then barArrive s (s.cohort id).unit (s.cohort id).priv t
      else if w then s.modThread t fun th =>
        { th with barRec := match th.barRec with
            | some g => if g < gen then none else some g
            | none => none }
      else s) s
    let late1 := late.filter fun t => (s.thread t).team != team
    let done := late1.isEmpty && (!w || ths.all fun t => (s1.thread t).barRec.isNone)
    s1.modCohort id fun c => { c with wait := if done then .none else .barrier late1 w ths }
  | _ => s

/-- The filed threads of a team that are still to be counted are counted in the barrier's next generation (R360). -/
def barrierBins (s : State) (team : Nat) : State :=
  let late (f : Filed) : Bool := f.late && (s.thread f.thread).team == team
  let inBins (u : Nat) : List Filed := ((s.core u).bins.flatMap fun (_, b) => b.threads).filter late
  ((s.cores.map Prod.fst).filter fun u => !(inBins u).isEmpty).foldl (fun s1 u =>
    ((inBins u).foldl (fun s f => barArrive s u false f.thread) s1).modCore u fun k => { k with
      bins := k.bins.map fun (n, b) =>
        (n, { b with threads := b.threads.map fun f => if late f then { f with late := false } else f }) }) s

/-- Completes generations of a team's barrier while the counted and the exited threads number all of them (R360). -/
def barrierCheck (s : State) (team : Nat) : Nat → State
  | 0 => s
  | fuel + 1 =>
    let tm := s.team team
    if !tm.counted.isEmpty &&
        tm.counted.length + (without (exitedOf s team) tm.counted).length == (s.launch tm.launch).teamSize then
      let s1 := s.modTeam team fun x => { x with barGen := x.barGen + 1, counted := [] }
      barrierCheck (barrierBins ((s1.work.cohorts.map Prod.fst).foldl (fun s id => barrierCohort s team id) s1) team) team fuel
    else s

/-- Passes a hall pass on when its hold count reaches 0: to the first waiting core, whose cohort then finds it
held, or to nobody (R190). Every holder of the range outside the new core is written back and
invalidated, in a transition (R179). -/
def passOn (s : State) (n : Nat) : State :=
  match alookup s.mem.passes n with
  | none => s
  | some p =>
    match p.queue with
    | [] => s.modMem fun m => { m with passes := ainsert m.passes n { p with holder := none, count := 0 } }
    | u :: r =>
      let segs := (s.mem.dir.map Prod.fst).filter fun g => decide (p.base ≤ g) && decide (g < p.base + p.nseg)
      let s1 := segs.foldl (fun s g =>
        if movingSeg s g then postpone s (.giveWay u) [g] else changeSeg s g ((segAt s g).givenWay u)) s
      s1.modMem fun m => { m with passes := ainsert m.passes n { p with holder := some u, count := 0, queue := r } }

/-- Releases holds of a core on a pass (R190): write back of the range in its L1, a release at DEVICE scope. -/
def relHolds (s : State) (n unit k : Nat) : State :=
  match alookup s.mem.passes n with
  | none => s
  | some p =>
    if p.holder == some unit && p.count != 0 then
      if k < p.count then s.modMem fun m => { m with passes := ainsert m.passes n { p with count := p.count - k } }
      else
        let s1 := dropL1 s unit fun b => decide (p.base ≤ b / 16) && decide (b / 16 < p.base + p.nseg)
        passOn (releaseCore s1 unit 4) n
    else s

/-- Publishes a passback value of a thread; a value already published stands (R50, R54, R420). -/
def publishName (s : State) (t n : Nat) : State :=
  let th := s.thread t
  let s1 := s.modThread t fun x => { x with published := x.published ++ [n] }
  if s.work.notes.any fun x => x.launch == th.launch && x.lin == th.lin && x.name == n then s1
  else { s1 with work := { s1.work with
    notes := s1.work.notes ++ [⟨th.launch, th.lin, n, th.readName n, th.unit, s.sched.clk⟩] } }

/-- Publishes every set name that the thread has not published (R50). -/
def publishAll (s : State) (t : Nat) : State :=
  let th := s.thread t
  if (s.launchOf t).stage != 0 then s
  else (((s.planOf t).pass.map Prod.fst).filter fun n => !th.published.contains n).foldl (fun s n => publishName s t n) s

/-- Frees the notes of a launch that every possible reader has passed (R54): LIN + 1 to LIN + PASSK have exited. A thread of a
team that is to be placed again (R420) has still to read. -/
def freeNotes (s : State) (l : Nat) : State :=
  let la := s.launch l
  let k := (s.plan la.plan).passk
  let gone (lin : Nat) : Bool :=
    decide (la.total ≤ lin) || s.work.threads.any fun (_, t) =>
      t.launch == l && t.lin == lin && (t.place == .exited || t.place == .lost) && !la.again.contains (s.team t.team).num
  { s with work := { s.work with
    notes := s.work.notes.filter fun n => n.launch != l || !((List.range k).all fun i => gone (n.lin + 1 + i)) } }

/-- Closes a team's open meshlet when every thread has arrived or exited (R217): it goes to the rasteriser of
the closing core; a pair that has already closed is discarded with an event. -/
def meshCheck (s : State) (team : Nat) : State :=
  let tm := s.team team
  match tm.mesh with
  | none => s
  | some m =>
    let out := exitedOf s team
    match m.pair with
    | none => s
    | some (d, k) =>
      if m.closed || !tm.threads.all (fun t => (s.thread t).meshArr || out.contains t) then s
      else
        let u := tm.units.headD 0
        let pl := (s.launch tm.launch).plan
        let p := s.plan pl
        let arg := BitVec.ofNat 64 (k * 2 ^ 32 + d)
        -- every meshlet of an invalid draw counts as closed already (R215)
        if s.draw.closed.contains (pl, d, k) || (((p.draws.drop d).head?.map Draw.invalid).getD false) then
          let s1 := logEvent s u 0x0031 p.ctx (BitVec.ofNat 64 p.addr) arg
          let s2 := tm.threads.foldl (fun s t => s.modThread t fun x => { x with meshArr := false }) s1
          s2.modTeam team fun x => { x with mesh := none, lastPair := some (d, k) }
        else
          let c : Meshlet := { m with closed := true }
          let s1 := s.modTeam team fun x => { x with mesh := some c, lastPair := some (d, k) }
          let s2 := s1.modCore u fun x => { x with closed := x.closed ++ [c] }
          { s2 with draw := { s2.draw with closed := s2.draw.closed ++ [(pl, d, k)] } }

/-- A quad completes when its four threads have exited: its covered pixels, those discarded or without an export
apart, go to the bank unit (R223). -/
def quadCheck (s : State) (q : Nat) : State :=
  let ths := (s.work.threads.filter fun (_, t) => t.quad == some q).map Prod.snd
  if ths.all fun t => t.place == .exited || t.place == .lost then
    { s with draw := { s.draw with quads := s.draw.quads.map fun x =>
        if x.id == q && x.phase == 2 then
          { x with
            phase := 3
            pixels := (sortBy Thread.pix ths).filterMap fun t =>
              if x.cov.getLsbD t.pix && t.place != .lost && !t.disc && !(t.exports.isEmpty && t.zexp.isNone) then
                some (t.pix, t.zexp, t.exports)
              else none }
        else x } }
  else s

/-- Every thread of a launch that has been placed has exited, and no team is left to place. -/
def launchOver (s : State) (l : Nat) : Bool :=
  let la := s.launch l
  (decide (la.teamSize * la.nextTeam ≥ la.total) && la.again.isEmpty || (s.plan la.plan).killed) &&
  s.work.threads.all fun (_, t) => t.launch != l || t.place == .exited || t.place == .lost

/-- What remains of a launch when its last thread has exited: records still held are released (R375), and a ring that is empty
and with which no launch is fused any more is released (R61). -/
def launchExit (s : State) (l : Nat) : State :=
  let s1 := (releaseRecords s l (s.launch l).taken).modLaunch l fun x => { x with ring := none }
  { s1 with work := { s1.work with rings := s1.work.rings.filter fun (i, r) =>
      !r.held.isEmpty || !r.out.isEmpty || s1.work.launches.any fun (_, x) => x.ring == some i } }

/-- The mesh stage of a DRAW plan is complete (R217): every pair of a valid draw that never closed counts as closed and
empty, with one event per draw. -/
def meshStageEnd (s : State) (plan : Nat) : State :=
  let p := s.plan plan
  let s1 := { s with draw := { s.draw with ended := s.draw.ended ++ [plan] } }
  (p.draws.zipIdx).foldl (fun s (r, d) =>
    if !r.invalid && decide ((s.draw.closed.filter fun x => x.1 == plan && x.2.1 == d).length < r.mcount) then
      logEvent s 0x0200 0x0031 p.ctx (BitVec.ofNat 64 p.addr) (BitVec.ofNat 64 (0xFFFFFFFF * 2 ^ 32 + d))
    else s) s1

/-- What the end of a launch's last thread brings about. -/
def launchDone (s : State) (l : Nat) : State :=
  let la := s.launch l
  if !launchOver s l then s
  else
    let s1 := launchExit s l
    if la.stage == 0 && (s.plan la.plan).draw && !(s.plan la.plan).killed then meshStageEnd s1 la.plan else s1

/-- A team that CPREEMPT waits for has been saved, or is gone: the word ends with the number of teams saved (R310). -/
def preemptNote (s : State) (team : Nat) (saved : Bool) : State :=
  s.work.cohorts.foldl (fun s (id, c) =>
    match c.wait with
    | .preempt ts n d =>
      if !ts.contains team then s
      else
        let n1 := if saved then n + 1 else n
        if (ts.erase team).isEmpty then
          let (w, s1) := s.newId
          uregResult (s1.modCohort id fun k => { k with wait := .none }) id w d (BitVec.ofNat 64 n1)
        else s.modCohort id fun k => { k with wait := .preempt (ts.erase team) n1 d }
    | _ => s) s

/-- A team whose last thread has exited exits (R15): a release at SYSTEM scope by each core (R182), its pins,
its window, its unreleased holds (R192), its BANKOP records (R394) and its unclosed meshlet (R217). An unclosed meshlet at which no
thread has arrived has no pair, and its event carries d = m = 0xFFFFFFFF (log entry 75, DESIGN CHOICE). -/
def teamExit (s : State) (team : Nat) : State :=
  let tm := s.team team
  if tm.exited || tm.threads.isEmpty || !(exitedOf s team).length == tm.threads.length then s
  else
    let p := s.plan (s.launch tm.launch).plan
    let s1 := tm.units.foldl (fun s u => releaseCore s u 5) s
    let s2 := tm.holds.foldl (fun s (n, u, k) => relHolds s n u k) s1
    let s3 := tm.windows.foldl (fun s (u, b) => s.modCore u fun c =>
      { c with scratch := Memory.clear c.scratch b (p.spwin * 1024) }) s2
    let s5 := match tm.mesh with
      | some m =>
        if m.closed then s3
        else
          let (d, k) := m.pair.getD (0xFFFFFFFF, 0xFFFFFFFF)
          logEvent s3 (tm.units.headD 0) 0x0031 p.ctx (BitVec.ofNat 64 p.addr) (BitVec.ofNat 64 (k * 2 ^ 32 + d))
      | none => s3
    let s6 := s5.modTeam team fun x => { x with
      exited := true, pins := [], holds := [], banks := [], windows := [], mesh := none
      leaving := none, still := none, held := false, extent := 0, save := none }
    launchDone (preemptNote s6 team false) tm.launch

/-- Ends threads (R290, steps 2 to 4): publication, release of names, stack and predicates, the mark in the seating
chart; then the barriers, meshlets, quads and teams that their end completes. -/
def endThreads (s : State) (ths : List Nat) : State :=
  let s1 := ths.foldl (fun s t =>
    (publishAll s t).modThread t fun th => { th with
      place := .exited, names := [], writes := [], stack := [], preds := 0, barRec := none, bells := [] }) s
  let teams := distinct (ths.map fun t => (s.thread t).team)
  let quads := distinct (ths.filterMap fun t => (s.thread t).quad)
  let launches := distinct (ths.map fun t => (s.thread t).launch)
  let s2 := teams.foldl (fun s m => barrierCheck s m 3) s1
  let s3 := teams.foldl meshCheck s2
  let s4 := quads.foldl quadCheck s3
  launches.foldl freeNotes (teams.foldl teamExit s4)

end Sys2Proof.Machine
end

