-- ==== Sys2Proof/Machine/Control.lean ====
section
/-! DEFINITION. The control instructions (R279 to R298, R303 to R305): branches, calls, the end and regrouping of
threads, regions, passback publication, waits, traps, register lists and special registers. -/

namespace Sys2Proof.Machine

/-- The target t = o + OFF of a branch, when it lies in 0 to 65,535 (R279). -/
def branchTarget (pc : Word) (off : Int) : Except DWord Word :=
  let t : Int := (pc.toNat % 65536 : Nat) + off
  if 0 ≤ t ∧ t ≤ 65535 then .ok (BitVec.ofNat 32 (pc.toNat / 65536 * 65536 + t.toNat))
  else .error (BitVec.ofNat 64 (wrapTo 32 t))

/-- BAD_TARGET with its reason and offending value (R410). -/
def badTarget (reason : Nat) (v : DWord) (t : Option Nat) : Eff :=
  .trap .badTarget { thread := t, i0 := BitVec.ofNat 64 (reason * 2 ^ 32 + v.toNat % 2 ^ 32) }

/-- Continues a cohort's active threads at a PC. -/
def jump (s : State) (id : Nat) (pc : Word) : State := s.modCohort id fun c => { c with pc := pc }

/-- Groups threads by next PC, in order of first appearance. -/
def groupByPc : List (Nat × Word) → List Group
  | [] => []
  | (t, pc) :: r =>
    let gs := groupByPc r
    match gs.find? fun g => g.pc == pc with
    | some g => ⟨pc, t :: g.threads⟩ :: gs.filter fun h => h.pc != pc
    | none => ⟨pc, [t]⟩ :: gs

/-- Divides a cohort's active threads by next PC (R42): the largest group stays, ties to the one with the lowest
seat; every other group files or becomes pending, in ascending order of PC. Threads of several teams may share the lowest
seat: the group that comes first in home-lane order then stays (log entry 57). -/
def divide (s : State) (id : Nat) (next : List (Nat × Word)) : State :=
  let gs := groupByPc next
  match minBy (fun g : Group => (64 - g.threads.length) * 8192 + lowestSeat s g.threads) gs with
  | none => s
  | some stay =>
    let rest := sortBy (fun g : Group => g.pc.toNat) (gs.filter fun g => g.pc != stay.pc)
    jump (rest.foldl (fun s g => fileOrPend s id g.pc .openBin g.threads) s) id stay.pc

/-- The values of live-ins as they stand once every earlier write to them has taken effect (R85). -/
def checkpointOf (t : Thread) (head : Word) (live : List Nat) : Ckpt :=
  let u := t.settle fun p => live.any fun n => p.tgt == .name n
  { head := head, preds := (t.settle fun p => match p.tgt with | .pred _ => true | _ => false).preds,
    live := live.map fun n => (n, (alookup u.names n).map NameVal.val) }

/-- A call or return takes effect for a thread: the region head becomes the word at which it goes on, and the
checkpoint is rewritten with the live-in set of its last REGION; a seat read or a surface access on its way to a live-in settles
its value there too (R289, R47, R379). -/
def moveHead (s : State) (t : Nat) (pc : Word) : State :=
  s.modThread t fun th => { th with
    head := pc
    ckpt := checkpointOf th pc th.live
    writes := th.writes.map fun p => { p with ckpt := (p.seat.isSome || p.held) && th.live.any fun n => p.tgt == .name n } }

/-- Pushes a return PC (R97). -/
def pushPc (s : State) (t : Nat) (pc : Word) : State := s.modThread t fun th => { th with stack := pc :: th.stack }

/-- A branch of every active thread (R282). -/
def braWord (s : State) (a : Acc) (off : Int) : Out :=
  withPrep s a fun r =>
    match branchTarget (s.cohort r.id).pc off with
    | .error v => badTarget 0 v none
    | .ok t => .ok (jump (plainIssue s r a) r.id t)

/-- A call within the overlay (R286). -/
def callWord (s : State) (a : Acc) (off : Int) : Out :=
  withPrep s a fun r =>
    let pc := (s.cohort r.id).pc
    match r.ths.find? fun t => decide (16 ≤ (s.thread t).stack.length) with
    | some t => .trap .callDepth { thread := some t, i0 := 16 }
    | none =>
      match branchTarget pc off with
      | .error v => badTarget 0 v none
      | .ok t =>
        .ok (r.ths.foldl (fun s u => moveHead (pushPc s u (pcAdd pc a.len)) u t) (jump (plainIssue s r a) r.id t))

/-- A return (R288). -/
def retWord (s : State) (a : Acc) : Out :=
  withPrep s a fun r =>
    match r.ths.find? fun t => (s.thread t).stack.isEmpty with
    | some t => badTarget 4 0 (some t)
    | none =>
      let next := r.ths.map fun t => (t, (s.thread t).stack.headD 0)
      let s1 := next.foldl (fun s (t, pc) =>
        moveHead (s.modThread t fun th => { th with stack := th.stack.tail }) t pc) (plainIssue s r a)
      .ok (divide s1 r.id next)

/-- The end of threads (R290): their earlier writes and accesses first, the exit release, then steps 2 to 4. -/
def exitWord (s : State) (a : Acc) : Out :=
  withPrep s a fun r =>
    let c := s.cohort r.id
    if (r.ths.any fun t => !(s.thread t).writes.isEmpty) || (!r.ths.isEmpty && !c.writes.isEmpty) ||
        (r.ths.any fun t => releaseWait s [t] (teamScope s t)) then .stall s .settle
    else
      let s1 := leaveActive (plainIssue s r a) r.id r.ths
      let s2 := r.ths.foldl (fun s t => release s c.unit (teamScope s t) c.priv) s1
      .ok (settleGroup (endThreads s2 r.ths) r.id)

/-- Files every active thread (R291); with no bin free they become a pending group, which goes on at once when
no other is left. -/
def reformWord (s : State) (a : Acc) : Out :=
  withPrep s a fun r =>
    let s1 := plainIssue s r a
    .ok (settleGroup (fileOrPend s1 r.id (s1.cohort r.id).pc .openBin r.ths) r.id)

/-- Gives up the status of current cohort, with a cap mark (R296). -/
def yieldWord (s : State) (a : Acc) : Out :=
  withPrep s a fun r =>
    let c := s.cohort r.id
    .ok (((plainIssue s r a).modCohort r.id fun c => { c with capMark := true }).modCore c.unit fun k =>
      { k with current := aerase k.current c.part })

/-- TRAP and BKPT (R297): the cohort stops behind the word when some thread executes it. -/
def softTrap (s : State) (a : Acc) (code : TrapCode) (v : Nat) : Out :=
  withPrep s a fun r =>
    let unit := (s.cohort r.id).unit
    if r.ths.isEmpty || (code == .breakpoint && !(s.core unit).bken) then .ok (plainIssue s r a)
    else
      let lanes := r.ths.foldl (fun m t => m + 2 ^ (s.thread t).lane) 0
      .trap code { thread := r.ths.head?, i0 := BitVec.ofNat 64 v, i1 := BitVec.ofNat 64 lanes, after := true }

/-- A word without effect (R298). -/
def nopWord (s : State) (a : Acc) : Out := withPrep s a fun r => .ok (plainIssue s r a)

def execNopBase (st : BitVec 3) (s : State) : Out := nopWord s { st := st.toNat }
def execNop (f : ExtForm) (s : State) : Out := nopWord s (extAcc f.x false)
def execBraBase (st : BitVec 3) (off : BitVec 17) (s : State) : Out := braWord s { st := st.toNat } off.toInt
def execBra (f : ExtForm) (s : State) : Out := braWord s (extAcc f.x false) f.x.imm.toInt
def execCallBase (st : BitVec 3) (off : BitVec 17) (s : State) : Out := callWord s { st := st.toNat } off.toInt
def execCall (f : ExtForm) (s : State) : Out := callWord s (extAcc f.x false) f.x.imm.toInt
def execRetBase (st : BitVec 3) (s : State) : Out := retWord s { st := st.toNat }
def execRet (f : ExtForm) (s : State) : Out := retWord s (extAcc f.x false)
def execExitBase (st : BitVec 3) (s : State) : Out := exitWord s { st := st.toNat }
def execExit (f : ExtForm) (s : State) : Out := exitWord s (extAcc f.x false)
def execReformBase (st : BitVec 3) (s : State) : Out := reformWord s { st := st.toNat }
def execReform (f : ExtForm) (s : State) : Out := reformWord s (extAcc f.x false)
def execYieldBase (st : BitVec 3) (s : State) : Out := yieldWord s { st := st.toNat }
def execYield (f : ExtForm) (s : State) : Out := yieldWord s (extAcc f.x false)
def execTrap (f : ExtForm) (s : State) : Out := softTrap s (extAcc f.x false) .swTrap f.x.imm.toNat
def execBkptBase (st : BitVec 3) (code : BitVec 16) (s : State) : Out :=
  softTrap s { st := st.toNat } .breakpoint code.toNat
def execBkpt (f : ExtForm) (s : State) : Out := softTrap s (extAcc f.x false) .breakpoint f.x.imm.toNat

/-- BRC (R283): threads whose guard holds go on at t, the others behind the word. -/
def execBrc (f : ExtForm) (s : State) : Out :=
  let a := extAcc f.x false
  withPrep s a fun r =>
    let c := s.cohort r.id
    match branchTarget c.pc f.x.imm.toInt with
    | .error v => badTarget 0 v none
    | .ok t =>
      .ok (divide (plainIssue s r a) r.id
        (c.active.map fun u => (u, if r.ths.contains u then t else pcAdd c.pc a.len)))

/-- BRI (R284): each executing thread goes on at its entry of a target table of the overlay. -/
def execBri (f : ExtForm) (s : State) : Out :=
  let src := opndSrc f.x.a false false 0
  let a := { (extAcc f.x false).reads [src] with marks := opndMarks f.x.a 1 false }
  withPrep s a fun r =>
    let c := s.cohort r.id
    let ws := (imageAt s c c.pc).map Image.words |>.getD []
    let tt := f.x.mod.toNat
    let ntt := (ws.getD 1 0).toNat % 65536
    let dir := (ws.getD ((ws.getD 2 0).toNat % 65536 + tt) 0).toNat
    let ix (t : Nat) : Nat := (srcVal s c t src).toNat % 2 ^ 32
    if ntt ≤ tt then badTarget 1 (BitVec.ofNat 64 tt) r.ths.head?
    else if r.ths.isEmpty then .ok (plainIssue s r a)
    else
      match r.ths.find? fun t => decide (dir / 65536 ≤ ix t) with
      | some t => badTarget 2 (BitVec.ofNat 64 (ix t)) (some t)
      | none =>
        let target (t : Nat) : Word :=
          BitVec.ofNat 32 (c.pc.toNat / 65536 * 65536 + (ws.getD (dir % 65536 + ix t) 0).toNat % 65536)
        .ok (divide (plainIssue s r a) r.id
          (c.active.map fun u => (u, if r.ths.contains u then target u else pcAdd c.pc a.len)))

/-- LOOP (R285): decrements its counter, and branches while it is not 0. -/
def execLoop (f : ExtForm) (s : State) : Out :=
  let d := f.x.d.idx.toNat
  let a := { extAcc f.x false with uregs := [d], wUregs := [d], lat := some 2 }
  withPrep s a fun r =>
    let c := s.cohort r.id
    let n := c.readUreg d - 1
    match branchTarget c.pc f.x.imm.toInt with
    | .error v => badTarget 0 v none
    | .ok t =>
      let (w, s1) := s.newId
      let s2 := addUwrite (plainIssue s1 r a) r.id { id := w, tgt := .ureg d, var := false, due := s.sched.clk + 2, val := n }
      .ok (if n != 0 then jump s2 r.id t else s2)

/-- REGION (R85, R292, R293): region head, checkpoint and live-in set of each executing thread; the cohort goes on 8
cycles after the last write to a live-in has taken effect. -/
def execRegion (f : ExtForm) (s : State) : Out :=
  let a := extAcc f.x f.lit.isSome
  let live := sortBy id (listNames f.x f.lit)
  withPrep s a fun r =>
    let onLive (p : Pend) : Bool := live.any fun n => p.tgt == .name n
    if r.ths.any fun t => (s.thread t).writes.any fun p => p.var && onLive p then .stall s .scoreboard
    else
      let last := r.ths.foldl (fun m t => ((s.thread t).writes.filter onLive).foldl (fun m p => Nat.max m p.due) m) s.sched.clk
      let head := pcAdd (s.cohort r.id).pc a.len
      let s1 := r.ths.foldl (fun s t => s.modThread t fun th =>
        { th with head := head, live := live, ckpt := checkpointOf th head live, restartable := true }) (plainIssue s r a)
      .ok (s1.modCohort r.id fun c => { c with wait := .clock (last + 8) false, waitSince := s.sched.clk })

/-- PASS (R294): the checks over all executing threads, the wait for their earlier writes, and publication in
ascending home-lane order. A commit point (R86). -/
def execPass (f : ExtForm) (s : State) : Out :=
  let n := f.x.a.idx.toNat
  let ns := if f.x.mod.getLsbD 0 then [n, n + 1] else [n]
  let a := { extAcc f.x false with marks := opndMarks f.x.a ns.length false }
  withPrep s a fun r =>
    let notSet (t : Nat) : Bool :=
      (s.launchOf t).stage != 0 || ns.any fun x => !((s.planOf t).pass.any fun e => e.1 == x)
    let info (t : Nat) : TrapInfo :=
      { thread := some t, i0 := BitVec.ofNat 64 ((if (s.launchOf t).stage != 0 then 2 ^ 16 else 0) + n) }
    match r.ths.find? notSet with
    | some t => .trap .passbackRange (info t)
    | none =>
      match r.ths.find? fun t => ns.any fun x => (s.thread t).published.contains x with
      | some t => .trap .passbackTwice (info t)
      | none =>
        if r.ths.any fun t => (s.thread t).writes.any fun p => ns.any fun x => p.tgt == .name x then .stall s .scoreboard
        else
          let s1 := r.ths.foldl (fun s t => ns.foldl (fun s x => publishName s t x) s) s
          .ok (commitPoint (plainIssue s1 r a) r.ths)

/-- WAIT (R295): n cycles after issue; 0 does not wait. -/
def execWait (f : ExtForm) (s : State) : Out :=
  let a := extAcc f.x false
  withPrep s a fun r =>
    let n := f.x.imm.toNat
    let s1 := plainIssue s r a
    .ok (if n == 0 then s1
      else s1.modCohort r.id fun c => { c with wait := .clock (s.sched.clk + n) true, waitSince := s.sched.clk })

/-- WAIT until CLK reaches a register's value (R295). -/
def execWaitUntil (f : ExtForm) (s : State) : Out :=
  let n := f.x.a.idx.toNat
  let a := { extAcc f.x false with uregs := [n] }
  withPrep s a fun r =>
    let t := ((s.cohort r.id).readUreg n).toNat
    let s1 := plainIssue s r a
    .ok (if t ≤ s.sched.clk then s1
      else s1.modCohort r.id fun c => { c with wait := .clock t true, waitSince := s.sched.clk })

/-- WAIT for the cohort's earlier register writes and its threads' accesses (R295). -/
def execWaitDrain (f : ExtForm) (s : State) : Out :=
  let a := extAcc f.x false
  withPrep s a fun r =>
    let c := s.cohort r.id
    if !c.writes.isEmpty ||
        c.members.any fun t => !(s.thread t).writes.isEmpty || surfaceWrites s t then .stall s .drain
    else .ok (plainIssue s r a)

/-- WAIT_EXPIRY (R295): the cohort's wait for a cycle is over. -/
def execWaitExpiry (s : State) : Out :=
  let id := s.sched.arg.a
  .next (s.modCohort id fun c =>
    match c.wait with
    | .clock t _ => if t ≤ s.sched.clk then { c with wait := .none } else c
    | _ => c)

/-- A thread that executes a word in the issuing cohort has an outstanding write to a listed name (R303). -/
def listBusy (s : State) (a : Acc) (ns : List Nat) : Bool :=
  match s.sched.cur.bind s.cohort? with
  | some c => (executing s c a).any fun t => (s.thread t).writes.any fun p => ns.any fun n => p.tgt == .name n
  | none => false

/-- FREE (R292, R303): releases the listed names; it does not issue while a listed name has an outstanding write, and is then
not judged by check 7 either (R253). -/
def execFree (f : ExtForm) (s : State) : Out :=
  let a := extAcc f.x f.lit.isSome
  let ns := listNames f.x f.lit
  ((prep s a).unless (listBusy s a ns)).run s a.len fun r => .ok (plainIssue s r { a with marks := ns })

/-- RSRV (R72, R292, R303): maps the listed names that a thread does not map to new rows holding 0. -/
def execRsrv (f : ExtForm) (s : State) : Out :=
  let ns := listNames f.x f.lit
  let a := { extAcc f.x f.lit.isSome with wNames := ns, lat := some 0 }
  withPrep s a fun r =>
    let s1 := r.ths.foldl (fun s t => s.modThread t fun th => r.rows.foldl (fun th (n, row) =>
      if th.lacks n then { th with names := ainsert th.names n ⟨row, 0⟩ } else th) th) s
    .ok (plainIssue s1 r a)

/-- OVST of a thread (R84). -/
def ovst (s : State) (c : Cohort) (t : Nat) : Nat :=
  let th := s.thread t
  let d := ((s.planOf t).demand.find? fun x => x.1 == th.launch && x.2.1 == th.unit).map (·.2.2) |>.getD 0
  c.pc.toNat / 65536 * 2 ^ 48 + th.stack.length * 2 ^ 43 + th.last.toNat * 2 ^ 32 + Nat.min d (2 ^ 32 - 1)

/-- The tag bitmap of a unit (R83). -/
def tagBits (s : State) (unit : Nat) : Nat :=
  (s.core unit).tags.foldl (fun m (i, t) => if t.done then m + 2 ^ i else m) 0

/-- The index of a thread at a level of its launch (R29). -/
def lidx (s : State) (t n : Nat) : Nat :=
  let l := s.launchOf t
  let below := ((l.levels.drop (n + 1)).foldl (fun p x => p * x.extent) 1)
  match (l.levels.drop n).head? with
  | some x => (s.thread t).lin / below % x.extent
  | none => 0

/-- A special register (R83). -/
def specialReg (s : State) (c : Cohort) (t num : Nat) : Nat :=
  let th := s.thread t
  let l := s.launchOf t
  if num == 0 then th.lin
  else if num == 1 then th.seat
  else if num == 2 then l.stage
  else if num == 0x20 then s.sched.clk % 2 ^ 64
  else if num == 0x21 then tagBits s c.unit
  else if num == 0x22 then ovst s c t
  else if num < 0x10 then lidx s t (num - 8)
  else match (l.levels.drop (num - 0x10)).head? with
    | some x => x.extent
    | none => 1

/-- RDSPC (R304): each executing thread's value into vector names, or the acting thread's into a uniform register. -/
def execRdspc (f : ExtForm) (s : State) : Out :=
  let num := fld f.x.mod 7 0
  let d := f.x.d.idx.toNat
  let words := if num ≥ 0x20 then 2 else 1
  if f.x.d.kind then
    let a := { extAcc f.x false with wUregs := [d], lat := some 2 }
    withPrep s a fun r =>
      match actingThread s r.ths with
      | none => .ok (plainIssue s r a)
      | some t =>
        let (w, s1) := s.newId
        .ok (addUwrite (plainIssue s1 r a) r.id
          { id := w, tgt := .ureg d, var := false, due := s.sched.clk + 2,
            val := BitVec.ofNat 64 (specialReg s (s.cohort r.id) t num) })
  else
    let a := { extAcc f.x false with wNames := (List.range words).map (d + ·), lat := some 4 }
    withPrep s a fun r =>
      let (w, s1) := s.newId
      .ok (commit s1 r a (r.ths.flatMap fun t =>
        (namePends r w false (s.sched.clk + 4) d words (specialReg s (s.cohort r.id) t num)).map fun p => (t, p)))

/-- WRSPC (R305): OVST.LAST of each executing thread. -/
def execWrspc (f : ExtForm) (s : State) : Out :=
  let n := f.x.a.idx.toNat
  let a := { extAcc f.x false with uregs := [n] }
  withPrep s a fun r =>
    let v : Byte := ((s.cohort r.id).readUreg n).extractLsb' 32 8
    .ok (r.ths.foldl (fun s t => s.modThread t fun th => { th with last := v }) (plainIssue s r a))

end Sys2Proof.Machine
end

