-- ==== Sys2Proof/Machine/Keccak.lean ====
section
/-! DEFINITION. SHA3-512 (FIPS 202) and KMAC256 (NIST SP 800-185), which overlays (R90), control messages
(R425), boot (R428) and attestation (R430) use. -/

namespace Sys2Proof.Machine

/-- Rotation of a 64-bit lane. -/
def rotLane (x n : Nat) : Nat := (x * 2 ^ n + x / 2 ^ (64 - n)) % 2 ^ 64

/-- Rotation offsets by lane number x + 5y. -/
def keccakRot : List Nat :=
  [0, 1, 62, 28, 27, 36, 44, 6, 55, 20, 3, 10, 43, 25, 39, 41, 45, 15, 21, 8, 18, 2, 61, 56, 14]

/-- Round constants. -/
def keccakRc : List Nat :=
  [0x1, 0x8082, 0x800000000000808A, 0x8000000080008000, 0x808B, 0x80000001, 0x8000000080008081,
   0x8000000000008009, 0x8A, 0x88, 0x80008009, 0x8000000A, 0x8000808B, 0x800000000000008B,
   0x8000000000008089, 0x8000000000008003, 0x8000000000008002, 0x8000000000000080, 0x800A,
   0x800000008000000A, 0x8000000080008081, 0x8000000000008080, 0x80000001, 0x8000000080008008]

/-- One round over 25 lanes. -/
def keccakRound (a : List Nat) (rc : Nat) : List Nat :=
  let g (l : List Nat) (x y : Nat) : Nat := l.getD (x % 5 + 5 * (y % 5)) 0
  let c := (List.range 5).map fun x => g a x 0 ^^^ g a x 1 ^^^ g a x 2 ^^^ g a x 3 ^^^ g a x 4
  let d := (List.range 5).map fun x => c.getD ((x + 4) % 5) 0 ^^^ rotLane (c.getD ((x + 1) % 5) 0) 1
  let t := (List.range 25).map fun i => a.getD i 0 ^^^ d.getD (i % 5) 0
  let b := (List.range 25).map fun i =>
    let sx := (i % 5 + 3 * (i / 5)) % 5
    let j := sx + 5 * (i % 5)
    rotLane (t.getD j 0) (keccakRot.getD j 0)
  let e := (List.range 25).map fun i =>
    let x := i % 5
    let y := i / 5
    g b x y ^^^ ((2 ^ 64 - 1 - g b (x + 1) y) &&& g b (x + 2) y)
  match e with
  | h :: r => (h ^^^ rc) :: r
  | [] => []

/-- Keccak-f[1600]. -/
def keccakF (a : List Nat) : List Nat := keccakRc.foldl keccakRound a

/-- Eight bytes as a lane, lowest first. -/
def laneOf : List Byte → Nat
  | [] => 0
  | b :: r => b.toNat + 256 * laneOf r

/-- The bytes of a lane. -/
def laneBytes (x : Nat) : List Byte := (List.range 8).map fun i => BitVec.ofNat 8 (x / 256 ^ i)

/-- Absorbs whole blocks of a rate. -/
def absorb (rate : Nat) (st : List Nat) (m : List Byte) : Nat → List Nat
  | 0 => st
  | n + 1 =>
    let blk := m.take rate
    let st1 := (List.range 25).map fun i => st.getD i 0 ^^^ laneOf ((blk.drop (8 * i)).take 8)
    absorb rate (keccakF st1) (m.drop rate) n

/-- Pads with a domain suffix to whole blocks. -/
def padTo (rate suffix : Nat) (m : List Byte) : List Byte :=
  let k := rate - m.length % rate
  m ++ (if k == 1 then [BitVec.ofNat 8 (suffix + 0x80)]
        else BitVec.ofNat 8 suffix :: (List.replicate (k - 2) 0 ++ [0x80]))

/-- The sponge with an output of at most one block. -/
def sponge (rate suffix out : Nat) (m : List Byte) : List Byte :=
  let p := padTo rate suffix m
  ((absorb rate (List.replicate 25 0) p (p.length / rate)).flatMap laneBytes).take out

/-- SHA3-512. -/
def sha3_512 (m : List Byte) : List Byte := sponge 72 0x06 64 m

/-- left_encode and right_encode of SP 800-185 for numbers below 65,536. -/
def leftEncode (n : Nat) : List Byte :=
  if n < 256 then [1, BitVec.ofNat 8 n] else [2, BitVec.ofNat 8 (n / 256), BitVec.ofNat 8 n]
def rightEncode (n : Nat) : List Byte :=
  if n < 256 then [BitVec.ofNat 8 n, 1] else [BitVec.ofNat 8 (n / 256), BitVec.ofNat 8 n, 2]

/-- encode_string and bytepad. -/
def encodeString (s : List Byte) : List Byte := leftEncode (8 * s.length) ++ s
def bytepad (w : Nat) (m : List Byte) : List Byte :=
  let x := leftEncode w ++ m
  x ++ List.replicate ((w - x.length % w) % w) 0

/-- KMAC256 with an output of 256 bits. -/
def kmac256 (key msg custom : List Byte) : List Byte :=
  sponge 136 0x04 32
    (bytepad 136 (encodeString [0x4B, 0x4D, 0x41, 0x43] ++ encodeString custom) ++
      (bytepad 136 (encodeString key) ++ msg ++ rightEncode 256))

end Sys2Proof.Machine
end

