-- ==== Sys2Proof/Machine/Tags.lean ====
section
/-! DEFINITION. The tags of a core (R365). -/

namespace Sys2Proof.Machine

/-- A tag. -/
def tagAt (s : State) (unit n : Nat) : Tag := (alookup (s.core unit).tags n).getD {}

/-- Changes a tag; one as after reset is not listed. -/
def setTag (s : State) (unit n : Nat) (t : Tag) : State :=
  s.modCore unit fun k => { k with tags := if t = {} then aerase k.tags n else ainsert k.tags n t }

/-- A tagged operation issues (R365). -/
def tagIssue (s : State) (unit n : Nat) : State :=
  let t := tagAt s unit n
  setTag s unit n { count := t.count + 1, done := false, err := t.err && t.count != 0 }

/-- A tagged operation completes, failed or not (R365). -/
def tagDone (s : State) (unit n : Nat) (failed : Bool) : State :=
  let t := tagAt s unit n
  setTag s unit n { count := t.count - 1, done := t.done || t.count ≤ 1, err := t.err || failed }

/-- An outstanding operation of a pre-empted or ended team leaves its tag's count (R365); nothing is set done. -/
def tagRemove (s : State) (unit n : Nat) : State :=
  let t := tagAt s unit n
  setTag s unit n { t with count := t.count - 1 }

/-- It returns to the count where its team resumes (R365). -/
def tagReturn (s : State) (unit n : Nat) : State :=
  let t := tagAt s unit n
  setTag s unit n { t with count := t.count + 1 }

end Sys2Proof.Machine
end

