-- ==== Sys2Proof/Machine/Overlays.lean ====
section
/-! DEFINITION. The instruction store (R89 to R101, R281): views, charges, pins, loads, and the overlay
instructions (R287, R299 to R302). -/

namespace Sys2Proof.Machine

/-- Slots of an image of a length (R89). -/
def slotsOf (len : Nat) : Nat := (len + 4095) / 4096

/-- The overlay that an index of a plan names (R100). -/
def refOf (p : Plan) (index : Nat) : OvRef := ⟨p.ctx, p.ovtab, index⟩

/-- The overlay in a tenant's view (R94, R299). -/
def inView (s : State) (unit : Nat) (r : OvRef) : Option Image := (s.core unit).images.find? fun i => i.views.contains r

/-- The load of an overlay under way. -/
def loadOf (s : State) (unit : Nat) (r : OvRef) : Option Load := (s.core unit).loads.find? fun l => l.ref == r

/-- A tenant's charge (R94). -/
def chargeOf (k : Core) (tenant : Nat) : Nat :=
  k.images.foldl (fun n i => if i.views.any fun r => r.tenant == tenant then n + slotsOf i.len else n) 0

/-- A tenant's quota (R313). -/
def quotaOf (k : Core) (tenant : Nat) : Nat := (alookup k.quota tenant).getD (if tenant == 0 then 64 else 0)

/-- The overlay that a PC of a launch lies in. -/
def refOfPc (s : State) (launch : Nat) (pc : Word) : OvRef := refOf (s.plan (s.launch launch).plan) (pc.toNat / 65536)

/-- Pins of overlays on a core (R95), by the places that hold them. -/
def pinCount (s : State) (unit : Nat) (refs : List OvRef) : Nat :=
  let hit (r : OvRef) : Nat := if refs.contains r then 1 else 0
  let cohorts := s.work.cohorts.foldl (fun n (_, c) =>
    if c.unit == unit then
      n + hit (refOfPc s c.launch c.pc) + c.groups.foldl (fun n g => n + hit (refOfPc s c.launch g.pc)) 0
    else n) 0
  let bins := (s.core unit).bins.foldl (fun n (_, b) => n + hit (refOfPc s b.launch b.pc)) 0
  let pins := s.work.threads.foldl (fun n (_, t) =>
    if t.unit == unit && t.place != .saved then n + t.stack.foldl (fun n pc => n + hit (refOfPc s t.launch pc)) 0 else n) 0
  let teams := s.work.teams.foldl (fun n (_, t) =>
    if t.exited then n
    else
      let p := s.plan (s.launch t.launch).plan
      let st := (s.launch t.launch).stage
      let ent := if st == 0 then p.entryov else ((p.stages.drop (st - 1)).head?.map Stage.entryov).getD 0
      if t.save.isSome then n
      else n + (if t.units.contains unit then hit (refOf p ent) else 0) +
        t.pins.foldl (fun n (u, ix, k) => if u == unit then n + k * hit (refOf p ix) else n) 0) 0
  cohorts + bins + pins + teams

section Load

/-- Reads bytes of a virtual range for an instruction store, page by page (R93); nothing where a page faults,
is denied, or, for an image, does not permit it (R417). -/
def readOverlay (s : State) (unit ctx : Nat) (priv x : Bool) (va n : Nat) : Nat → Option (List Byte) × State
  | 0 => (none, s)
  | fuel + 1 =>
    if n == 0 then (some [], s)
    else
      let k := Nat.min n (4096 - va % 4096)
      match translate s (some unit) ctx va false priv false with
      | (.fault .., s1) => (none, s1)
      | (.ok _ pa leaf, s1) =>
        if x && !leaf.getLsbD 2 then (none, s1)
        else
          let s2 := homeAccess s1 pa k ctx (policy leaf 0) false
          match readOverlay s2 unit ctx priv x (va + k) (n - k) fuel with
          | (some r, s3) => (some (readPa s pa k ++ r), s3)
          | (none, s3) => (none, s3)

/-- The ranges of physical bytes that an instruction store's reading of a virtual range accesses, with its walks (R178). -/
def overlaySpans (s : State) (unit ctx : Nat) (priv : Bool) (va n : Nat) : Nat → List (Nat × Nat)
  | 0 => []
  | fuel + 1 =>
    if n == 0 then []
    else
      let k := Nat.min n (4096 - va % 4096)
      walkSpans s (some unit) ctx va ++
        match (translate s (some unit) ctx va false priv false).1 with
        | .ok _ pa _ => (pa, k) :: overlaySpans s unit ctx priv (va + k) (n - k) fuel
        | .fault .. => []

/-- The ranges that step 1 of a load accesses: the table's header and an entry (R90, R93). -/
def entrySpans (s : State) (unit : Nat) (r : OvRef) (priv : Bool) : List (Nat × Nat) :=
  overlaySpans s unit r.tenant priv r.table 32 (pageCount 32 + 1) ++
    overlaySpans s unit r.tenant priv (r.table + 32 + 32 * r.index) 32 (pageCount 32 + 1)

/-- A table entry (R90). -/
structure OvEntry where
  image : Nat
  share : Bool
  priv : Bool
  len : Nat
  digest : List Byte

/-- Checks a table's header and an entry's bytes (R90). -/
def parseEntry (head ent : List Byte) (index : Nat) : Option OvEntry :=
  let h := dwordAt head 0
  let count := nfld h 16 0
  let a := dwordAt ent 0
  let b := dwordAt ent 8
  let len := nfld b 31 0
  if nfld h 63 17 != 0 || count == 0 || decide (65536 < count) || decide (count ≤ index) || nfld a 63 52 != 0 ||
      nfld a 7 0 != 0 || nfld b 61 32 != 0 || len % 4 != 0 || decide (len < 64) || decide (262144 < len) then none
  else some ⟨nfld a 51 0, nfld b 63 63 == 1, nfld b 62 62 == 1, len, (ent.drop 16).take 16⟩

/-- Step 1 of a load (R93): the entry, or the status it fails with. -/
def readEntry (s : State) (unit : Nat) (r : OvRef) (priv : Bool) : Except Nat OvEntry × State :=
  match readOverlay s unit r.tenant priv false r.table 32 (pageCount 32 + 1) with
  | (none, s1) => (.error 0x14, s1)
  | (some head, s1) =>
    -- an index at or beyond the count names an absent entry, which is not read
    if nfld (dwordAt head 0) 16 0 ≤ r.index then (.error 0x15, s1)
    else
      match readOverlay s1 unit r.tenant priv false (r.table + 32 + 32 * r.index) 32 (pageCount 32 + 1) with
      | (none, s2) => (.error 0x14, s2)
      | (some ent, s2) =>
        match parseEntry head ent r.index with
        | none => (.error 0x15, s2)
        | some e => if e.priv && !priv then (.error 0x16, s2) else (.ok e, s2)

/-- Free slots of a core, less those that other loads have taken (R96). -/
def freeSlots (k : Core) (load : Nat) : Int :=
  64 - ((k.images.foldl (fun n i => n + slotsOf i.len) 0 : Nat) : Int) -
    ((k.loads.foldl (fun n l => if l.id == load then n else n + l.slots) 0 : Nat) : Int)

/-- The image that a shareable entry shares (R100). -/
def sharedImage (k : Core) (share : Bool) (len : Nat) (digest : List Byte) : Option Image :=
  if share then k.images.find? fun i => i.share && i.len == len && i.digest == digest else none

/-- The images a load may take as victims, least recently used first: of its tenant's view, unpinned, reserved by
no other load (R96). -/
def candidates (s : State) (unit tenant load : Nat) : List Image :=
  sortBy Image.used ((s.core unit).images.filter fun i =>
    (i.views.any fun r => r.tenant == tenant) && pinCount s unit i.views == 0 &&
    (match i.reserved with
     | some l => l == load
     | none => true))

/-- What evicting an image for a tenant frees: it leaves the tenant's view, and its slots are free when no other
tenant views it (R100). -/
def freedSlots (i : Image) (tenant : Nat) : Nat := if i.views.all fun r => r.tenant == tenant then slotsOf i.len else 0

/-- Chooses victims until both tests hold (R96): their numbers, or the status when they cannot. -/
def chooseVictims (tenant : Nat) (quotaShort slotShort : Int) : List Image → Except Nat (List Nat)
  | [] =>
    if 0 < quotaShort then .error 0x11 else if 0 < slotShort then .error 0x10 else .ok []
  | i :: r =>
    if quotaShort ≤ 0 ∧ slotShort ≤ 0 then .ok []
    else
      match chooseVictims tenant (quotaShort - slotsOf i.len) (slotShort - freedSlots i tenant) r with
      | .ok l => .ok (i.id :: l)
      | .error e => .error e

/-- The slots a load needs and by how much the two tests fail (R96): an image in the tenant's view is charged already, and one
that is resident takes no further slots (R100). -/
def shortfall (k : Core) (l : Load) : Int × Int :=
  let n : Nat := slotsOf l.len
  let (charge, own) : Nat × Nat := match sharedImage k l.share l.len l.digest with
    | some i => (if i.views.any fun r => r.tenant == l.ref.tenant then 0 else n, 0)
    | none => (n, n)
  (chargeOf k l.ref.tenant + charge - quotaOf k l.ref.tenant, own - freeSlots k l.id)

/-- The load of a shareable overlay under way (R93, R100). -/
def sharedLoad (k : Core) (share : Bool) (len : Nat) (digest : List Byte) : Option Load :=
  if share then k.loads.find? fun l => l.share && l.fail.isNone && l.follows.isNone && l.len == len && l.digest == digest else none

/-- Steps 1 and 2 of a load, once its entry may be read (R93): a failure of these steps is the status with which it will
complete. -/
def readLoad (s : State) (unit : Nat) (l0 : Load) : State :=
  let r := l0.ref
  let id := l0.id
  let put (s : State) (l : Load) : State := s.modCore unit fun k => { k with loads := k.loads ++ [l] }
  match readEntry s unit r l0.priv with
  | (.error st, s2) => put s2 { l0 with unread := false, fail := some st }
  | (.ok e, s2) =>
    let l : Load := { l0 with unread := false, len := e.len, image := e.image, digest := e.digest, share := e.share, privOv := e.priv }
    let k := s2.core unit
    let lead := sharedLoad k l.share l.len l.digest
    let (q, f) := shortfall k l
    let (q, f) : Int × Int := match lead with
      | some x => (if x.ref.tenant == r.tenant then 0 else q, 0)
      | none => (q, f)
    match chooseVictims r.tenant q f (candidates s2 unit r.tenant id) with
    | .error st => put s2 { l with fail := some st, follows := lead.map Load.id }
    | .ok vs =>
      let freed := (k.images.filter fun i => vs.contains i.id).foldl (fun n i => n + freedSlots i r.tenant) 0
      let need := if lead.isSome || (sharedImage k l.share l.len l.digest).isSome then 0 else slotsOf l.len
      put (s2.modCore unit fun k => { k with
        images := k.images.map fun i => if vs.contains i.id then { i with reserved := some id } else i })
        { l with slots := need - freed, follows := lead.map Load.id }

/-- A load reads its entry, or waits for that: for the end of a transition or the wake of a power domain (R171, R178). -/
def enterLoad (s : State) (unit : Nat) (l : Load) : State :=
  match takeTurn s (.req l.id) (entrySpans s unit l.ref l.priv) with
  | (true, s1) => readLoad s1 unit l
  | (false, s1) => s1.modCore unit fun k => { k with loads := k.loads ++ [{ l with unread := true }] }

/-- Begins a load (R93). -/
def startLoad (s : State) (unit : Nat) (r : OvRef) (priv : Bool) (tags : List (Nat × Nat)) (disp : List (Nat × Nat)) : State :=
  let (id, s1) := s.newId
  enterLoad s1 unit { id := id, ref := r, priv := priv, tags := tags, disp := disp }

/-- The entry of an overlay can be read at once. -/
def entryReady (s : State) (unit : Nat) (r : OvRef) (priv : Bool) : Bool :=
  (takeTurn s (.req s.sched.next) (entrySpans s unit r priv)).1

/-- A shareable overlay is identified by LEN and DIGEST (R100): an entry that names the overlay of another entry of its tenant
is in view with it, and is loading with it. An entry that cannot be read at once is looked at by its own load. -/
def bindTwin (s : State) (unit : Nat) (r : OvRef) (priv : Bool) : State :=
  let k := s.core unit
  if (inView s unit r).isSome || (loadOf s unit r).isSome || !(k.images.any Image.share || k.loads.any Load.share) ||
      !entryReady s unit r priv then s
  else
    match readEntry s unit r priv with
    | (.error _, s1) => s1
    | (.ok e, s1) =>
      match (sharedImage k e.share e.len e.digest).filter fun i => i.views.any fun v => v.tenant == r.tenant with
      | some i => s1.modCore unit fun k => { k with
          images := k.images.map fun x => if x.id == i.id then { x with views := x.views ++ [r] } else x }
      | none =>
        match (sharedLoad k e.share e.len e.digest).filter fun l => l.ref.tenant == r.tenant with
        | some _ => startLoad s1 unit r priv [] []
        | none => s1

/-- Removes images from a tenant's view; one in no view any more leaves the store (R100). A reservation by a load of another
tenant stands (R96). -/
def dropViews (k : Core) (tenant : Nat) (ids : List Nat) : Core :=
  let other (l : Nat) : Bool := k.loads.any fun x => x.id == l && x.ref.tenant != tenant
  let l := k.images.map fun i =>
    if ids.contains i.id then { i with views := i.views.filter fun r => r.tenant != tenant, reserved := i.reserved.filter other } else i
  { k with images := l.filter fun i => !i.views.isEmpty }

/-- The words of an image. -/
def wordsOf : List Byte → List Word
  | a :: b :: c :: d :: r => (d ++ c ++ b ++ a) :: wordsOf r
  | _ => []

/-- The word ranges [base, base + n) of the tables of an image (R91): entry table, directory, target tables. -/
def imageTables (ws : List Word) : List (Nat × Nat) :=
  let w (i : Nat) : Nat := (ws.getD i 0).toNat
  let ne := w 1 / 65536
  let ntt := w 1 % 65536
  let off := w 2 % 65536
  (8, ne) :: (off, ntt) :: (List.range ntt).map fun i => (w (off + i) % 65536, w (off + i) / 65536)

/-- Two word ranges overlap. -/
def overlap (a b : Nat × Nat) : Bool := decide (a.1 < b.1 + b.2) && decide (b.1 < a.1 + a.2) && a.2 != 0 && b.2 != 0

/-- No two of the ranges overlap. -/
def apart : List (Nat × Nat) → Bool
  | [] => true
  | x :: r => (r.all fun y => !overlap x y) && apart r

/-- An image has the form of R91. -/
def imageOk (ws : List Word) : Bool :=
  let w (i : Nat) : Nat := (ws.getD i 0).toNat
  let code := w 3 % 65536
  let tabs := imageTables ws
  let inCode (v : Nat) : Bool := v / 65536 == 0 && decide (code ≤ v) && decide (v < ws.length)
  w 0 == 0x01000000 && decide (1 ≤ w 1 / 65536) && decide (w 1 / 65536 ≤ 4096) && decide (w 1 % 65536 ≤ 256) &&
  w 2 / 65536 == 0 && w 3 / 65536 == 0 && w 4 == 0 && w 5 == 0 && w 6 == 0 && w 7 == 0 && decide (code < ws.length) &&
  (tabs.all fun t => t.2 == 0 || (decide (8 ≤ t.1) && decide (t.1 + t.2 ≤ code))) &&
  apart tabs &&
  ((8, w 1 / 65536) :: tabs.drop 2).all fun t => (List.range t.2).all fun i => inCode (w (t.1 + i))

/-- Step 5 of a load (R93, R96): its victims leave the view, and the overlay is resident. -/
def settleLoad (s : State) (unit : Nat) (l : Load) (ws : List Word) : Nat × State :=
  let k := s.core unit
  let kept := candidates s unit l.ref.tenant l.id
  -- reserved victims that are still unpinned, then further ones in the same order
  let victims := (kept.filter fun i => i.reserved == some l.id).map Image.id
  let k1 := dropViews k l.ref.tenant victims
  let (q, f) := shortfall k1 l
  match chooseVictims l.ref.tenant q f (kept.filter fun i => i.reserved != some l.id) with
  | .error st => (st, s)
  | .ok more =>
    let k2 := dropViews k1 l.ref.tenant more
    (0x00, s.setCore unit (match sharedImage k2 l.share l.len l.digest with
      | some i => { k2 with images := k2.images.map fun x =>
          if x.id == i.id then { x with views := x.views ++ [l.ref], used := s.sched.clk } else x }
      | none => { k2 with images := k2.images ++
          [{ id := l.id, share := l.share, len := l.len, digest := l.digest, words := ws, views := [l.ref],
             used := s.sched.clk }] }))

/-- A privileged overlay is measured when it is first loaded after reset (R430). -/
def measure (s : State) (digest : List Byte) : State :=
  if s.host.digests.contains digest then s
  else s.modHost fun h => { h with digests := h.digests ++ [digest], chain := sha3_512 (h.chain ++ digest) }

/-- Steps 3 to 5 of a load (R93): the image read, its digest and format, eviction of the victims and residence. -/
def finishLoad (s : State) (unit : Nat) (l : Load) : Nat × State :=
  match l.fail with
  | some st => (st, s)
  | none =>
    match readOverlay s unit l.ref.tenant l.priv true l.image l.len 66 with
    | (none, s1) => (0x14, s1)
    | (some bs, s1) =>
      let full := sha3_512 bs
      let ws := wordsOf bs
      if full.take 16 != l.digest then (0x12, s1)
      else if !imageOk ws then (0x13, s1)
      else
        let (st, s2) := settleLoad s1 unit l ws
        (st, if st == 0 && l.privOv then measure s2 full else s2)

/-- The bytes of an image. -/
def Image.bytes (i : Image) : List Byte := i.words.flatMap fun w => leBytes 4 w.toNat

/-- The outcome of a load that has joined another (R93): its own failure, the other's, or step 5 for its tenant. -/
def followLoad (s : State) (unit st : Nat) (l : Load) : Nat × State :=
  match l.fail with
  | some st1 => (st1, s)
  | none =>
    if st != 0 then (st, s)
    else
      let (st1, s1) := settleLoad s unit l []
      match l.privOv && st1 == 0, inView s1 unit l.ref with
      | true, some i => (st1, measure s1 (sha3_512 i.bytes))
      | _, _ => (st1, s1)

/-- The status of an overlay on a core for a tenant (R92, R302). -/
def ovState (s : State) (unit : Nat) (r : OvRef) : Nat :=
  if (inView s unit r).isSome then 0x00 else if (loadOf s unit r).isSome then 0x01 else 0x02

end Load

/-- Writes OVST.LAST of threads (R84). -/
def setLast (s : State) (ths : List Nat) (st : Nat) : State :=
  ths.foldl (fun s t => s.modThread t fun th => { th with last := BitVec.ofNat 8 st }) s

/-- Steps 4 and 5 of CALLO once the overlay is resident (R287): the entry, or BAD_TARGET. -/
def enterOverlay (s : State) (id : Nat) (r : OvRef) (i : Image) (entry st : Nat) : State :=
  let c := s.cohort id
  let ne := ((i.words.getD 1 0).toNat) / 65536
  let acting := actingThread s c.active
  if ne ≤ entry then
    takeTrap s id 3 .badTarget { thread := acting, i0 := BitVec.ofNat 64 (3 * 2 ^ 32 + entry) }
  else
    let pc : Word := BitVec.ofNat 32 (r.index * 65536 + (i.words.getD (8 + entry) 0).toNat % 65536)
    let s1 := c.active.foldl (fun s t => moveHead (pushPc s t (pcAdd c.pc 3)) t pc) s
    s1.modCohort id fun c => { c with pc := pc, wait := .none, nextIssue := s.sched.clk + 1 + st }

/-- OVERLAY_MISS with the status of the load (R97, R287). -/
def missOverlay (s : State) (id : Nat) (r : OvRef) (entry st : Nat) : State :=
  let c := s.cohort id
  takeTrap (setLast s c.active st) id 3 .overlayMiss
    { thread := actingThread s c.active, i0 := BitVec.ofNat 64 (r.index * 65536 + entry), i1 := BitVec.ofNat 64 st }

/-- A cohort that waits for a load that has completed goes on or traps (R281). -/
def wakeCallo (unit : Nat) (r : OvRef) (st : Nat) (s : State) (id : Nat) : State :=
  let c := s.cohort id
  match c.wait with
  | .overlay q entry n =>
    if c.unit == unit && q == r then
      if st != 0 then missOverlay s id r entry st
      else match inView s unit r with
        | some i => enterOverlay (setLast s c.active 0) id r i entry n
        | none => s
    else s
  | _ => s

/-- The overlay instructions act once for the cohort (R280): the acting thread's unit, plan, mode and overlay. -/
def ovWord (f : ExtForm) (w : List Nat) (s : State) (g : Ready → State → Nat → Nat → Bool → OvRef → Eff) : Out :=
  let reg := bitOf f.x.mod 9
  let a := { extAcc f.x false with
    uregs := if reg then [f.x.a.idx.toNat] else [], wUregs := w, lat := if w.isEmpty then some 0 else none }
  withPrep s a fun r =>
    match actingThread s r.ths with
    | none => .ok (plainIssue s r a)
    | some t =>
      let c := s.cohort r.id
      let ix := if reg then (c.readUreg f.x.a.idx.toNat).toNat % 65536 else f.x.imm.toNat
      let o := refOf (s.planOf t) ix
      g r (bindTwin (plainIssue s r a) c.unit o c.priv) t c.unit c.priv o

/-- OVLD (R300): a commit point. -/
def execOvld (f : ExtForm) (s : State) : Out :=
  ovWord f [] s fun r s1 t unit priv o =>
    let tag := fld f.x.mod 5 0
    let tm := (s.thread t).team
    let s2 := tagIssue s1 unit tag
    let s3 := match inView s2 unit o with
      | some i => setLast (tagDone (s2.modCore unit fun k => { k with
          images := k.images.map fun x => if x.id == i.id then { x with used := s.sched.clk } else x }) unit tag false) r.ths 0
      | none =>
        let s4 := match loadOf s2 unit o with
          | some l => s2.modCore unit fun k => { k with
              loads := k.loads.map fun x => if x.id == l.id then { x with tags := x.tags ++ [(tag, tm)] } else x }
          | none => startLoad s2 unit o priv [(tag, tm)] []
        setLast s4 r.ths 1
    .ok (commitPoint s3 r.ths)

/-- The explicit pins of a team on an overlay of a core. -/
def teamPins (t : Team) (unit ix : Nat) : Nat :=
  ((t.pins.find? fun p => p.1 == unit && p.2.1 == ix).map (·.2.2)).getD 0

/-- Sets the explicit pins of a team on an overlay of a core. -/
def setTeamPins (t : Team) (unit ix n : Nat) : Team :=
  let rest := t.pins.filter fun p => !(p.1 == unit && p.2.1 == ix)
  { t with pins := if n == 0 then rest else rest ++ [(unit, ix, n)] }

/-- The index under which a team's pins on an overlay stand: an entry of the same overlay's that it has pinned, else its own
(R100). -/
def pinIndex (s : State) (t : Team) (unit : Nat) (o : OvRef) : Nat :=
  let same := ((inView s unit o).map Image.views).getD [o]
  ((t.pins.find? fun p => p.1 == unit && same.contains { o with index := p.2.1 }).map (·.2.1)).getD o.index

/-- OVPIN (R301): a commit point. -/
def execOvpin (f : ExtForm) (s : State) : Out :=
  ovWord f [] s fun r s1 t unit _ o =>
    let st := ovState s1 unit o
    let tm := (s.thread t).team
    let s2 := if st == 2 then s1
      else (s1.modTeam tm fun x =>
          let ix := pinIndex s1 x unit o
          let n := teamPins x unit ix
          if n < 65535 then setTeamPins x unit ix (n + 1) else x).modCore unit fun k => { k with
        images := k.images.map fun x => if x.views.contains o then { x with used := s.sched.clk } else x }
    .ok (commitPoint (setLast s2 r.ths st) r.ths)

/-- OVUNPIN (R301): a commit point. -/
def execOvunpin (f : ExtForm) (s : State) : Out :=
  ovWord f [] s fun r s1 t unit _ o =>
    let tm := (s.thread t).team
    let s2 := s1.modTeam tm fun x =>
      let ix := pinIndex s1 x unit o
      let n := teamPins x unit ix
      if n == 0 then x else setTeamPins x unit ix (n - 1)
    .ok (commitPoint (setLast s2 r.ths (ovState s1 unit o)) r.ths)

/-- OVEVICT (R99). -/
def execOvevict (f : ExtForm) (s : State) : Out :=
  ovWord f [] s fun r s1 _ unit _ o =>
    match inView s1 unit o with
    | none => .ok (setLast s1 r.ths (if (loadOf s1 unit o).isSome then 0x04 else 0x02))
    | some i =>
      if pinCount s1 unit i.views != 0 then .ok (setLast s1 r.ths 0x03)
      else .ok (setLast (s1.modCore unit fun k => dropViews k o.tenant [i.id]) r.ths 0x00)

/-- The identity of a shareable overlay (R100): LEN and DIGEST. -/
def identOf (s : State) (unit : Nat) (o : OvRef) (priv : Bool) : Option (Nat × List Byte) × State :=
  match inView s unit o, loadOf s unit o with
  | some i, _ => (if i.share then some (i.len, i.digest) else none, s)
  | none, some l => (if l.share then some (l.len, l.digest) else none, s)
  | none, none =>
    if (s.core unit).lastLoads.any fun x => x.ident.isSome then
      match readEntry s unit o priv with
      | (.ok e, s1) => (if e.share then some (e.len, e.digest) else none, s1)
      | (.error _, s1) => (none, s1)
    else (none, s)

/-- LASTLOAD of an overlay for a tenant (R302). -/
def lastLoad (k : Core) (o : OvRef) (ident : Option (Nat × List Byte)) : Nat :=
  ((k.lastLoads.find? fun x =>
    x.ident == ident && (if ident.isSome then x.ref.tenant == o.tenant else x.ref == o)).map LastLoad.status).getD 0xFF

/-- `identOf` has to read the entry. -/
def identReads (s : State) (unit : Nat) (o : OvRef) : Bool :=
  (inView s unit o).isNone && (loadOf s unit o).isNone && (s.core unit).lastLoads.any fun x => x.ident.isSome

/-- OVQRY (R302). SLOTS and PINS are those of the image in the acting tenant's view: of an overlay that is resident only in another
tenant's view, SLOTS reads 0 and PINS counts the acting tenant's own pins alone (log entry 77, DESIGN CHOICE). -/
def execOvqry (f : ExtForm) (s : State) : Out :=
  let d := f.x.d.idx.toNat
  ovWord f [d] s fun r s1 _ unit priv o =>
    let st := ovState s1 unit o
    let im := inView s1 unit o
    let pins := pinCount s1 unit ((im.map Image.views).getD [o])
    match if identReads s unit o then takeTurn s (.req r.id) (entrySpans s unit o priv) else (true, s) with
    | (false, s0) => .stall s0 .transition
    | (true, _) =>
    let (ident, s2) := identOf (dequeueAt s1 r.id) unit o priv
    let (w, s3) := s2.newId
    .ok (setLast (uregResult s3 r.id w d (BitVec.ofNat 64 (Nat.min pins 65535 * 2 ^ 48 +
      ((im.map fun i => slotsOf i.len).getD 0) * 2 ^ 40 + lastLoad (s2.core unit) o ident * 2 ^ 16 + st))) r.ths st)

/-- CALLO (R97, R287). -/
def execCallo (f : ExtForm) (s : State) : Out :=
  let reg := bitOf f.x.mod 9
  let a := { extAcc f.x false with uregs := if reg then [f.x.a.idx.toNat] else [], lat := some 0 }
  withPrep s a fun r =>
    let c := s.cohort r.id
    match r.ths.find? fun t => decide (16 ≤ (s.thread t).stack.length), actingThread s r.ths with
    | some t, _ => .trap .callDepth { thread := some t, i0 := 16 }
    | _, none => .ok (plainIssue s r a)
    | none, some t =>
      let v := (c.readUreg f.x.a.idx.toNat).toNat
      let ix := if reg then v % 65536 else f.x.imm.toNat
      let entry := if reg then v / 65536 % 65536 else fld f.x.mod 8 0
      let o := refOf (s.planOf t) ix
      let st := f.x.st.toNat
      let s := bindTwin s c.unit o c.priv
      match inView s c.unit o with
      | some i =>
        if ((i.words.getD 1 0).toNat) / 65536 ≤ entry then
          .trap .badTarget { thread := some t, i0 := BitVec.ofNat 64 (3 * 2 ^ 32 + entry) }
        else
          let s1 := plainIssue s r a
          .ok (enterOverlay (jump s1 r.id c.pc) r.id o i entry st)
      | none =>
        -- the word has issued; its PC keeps the calling overlay pinned while it waits
        let s1 := (plainIssue s r a).modCohort r.id fun k =>
          { k with pc := c.pc, wait := .overlay o entry st, waitSince := s.sched.clk }
        .ok (if (loadOf s c.unit o).isSome then s1
          else
            let th := s.thread t
            let s2 := s1.modPlan (s.launch th.launch).plan fun p =>
              let n := ((p.demand.find? fun x => x.1 == th.launch && x.2.1 == c.unit).map (·.2.2)).getD 0
              { p with demand := (th.launch, c.unit, n + 1) ::
                  p.demand.filter fun x => !(x.1 == th.launch && x.2.1 == c.unit) }
            startLoad s2 c.unit o c.priv [] [])

end Sys2Proof.Machine
end

