-- ==== Sys2Proof/Machine/Float.lean ====
section
/-! DEFINITION. Floating point: the formats (R102 to R104), exact values, rounding (R109 to R111), the
arithmetic that rounds once (R113, R114), and conversions (R118). Encodings are natural numbers. -/

namespace Sys2Proof.Machine

/-- A floating-point format (R102). -/
structure Fmt where
  /-- width, fraction width, bias -/
  w : Nat
  f : Nat
  bias : Nat
  /-- encoding of the largest finite value and of the canonical NaN (R104) -/
  top : Nat
  nan : Nat
  /-- has infinities -/
  hasInf : Bool := true
  deriving DecidableEq, Repr

def F32 : Fmt := ⟨32, 23, 127, 0x7F7FFFFF, 0x7FC00000, true⟩
def F16 : Fmt := ⟨16, 10, 15, 0x7BFF, 0x7E00, true⟩
def BF16 : Fmt := ⟨16, 7, 127, 0x7F7F, 0x7FC0, true⟩
def F8A : Fmt := ⟨8, 3, 7, 0x7E, 0x7F, false⟩
def F8B : Fmt := ⟨8, 2, 15, 0x7B, 0x7E, true⟩

/-- A value (R103): NaN, an infinity, or (−1)^neg × m × 2^ex exactly, a zero when m is 0. -/
inductive FVal where
  | nan
  | inf (neg : Bool)
  | fin (neg : Bool) (m : Nat) (ex : Int)
  deriving DecidableEq, Repr

/-- The value of an encoding (R103). -/
def Fmt.val (k : Fmt) (n : Nat) : FVal :=
  let neg := n.testBit (k.w - 1)
  let mag := n % 2 ^ (k.w - 1)
  let e := mag / 2 ^ k.f
  let fr := mag % 2 ^ k.f
  if k.top < mag then
    if k.hasInf && fr == 0 then .inf neg else .nan
  else if e == 0 then .fin neg fr (1 - (k.bias : Int) - k.f)
  else .fin neg (2 ^ k.f + fr) ((e : Int) - k.bias - k.f)

/-- A rounding mode (R109): 0 RNE, 1 RZ, 2 RU, 3 RD. -/
abbrev Rm := Nat

/-- The sign bit of a format. -/
def Fmt.sign (k : Fmt) (neg : Bool) : Nat := if neg then 2 ^ (k.w - 1) else 0

/-- An infinity, or the largest finite value of a format without infinities (R118). -/
def Fmt.infOf (k : Fmt) (neg : Bool) : Nat := k.sign neg + (if k.hasInf then k.top + 1 else k.top)

/-- An overflow (R110, items 3 and 4). -/
def Fmt.overflow (k : Fmt) (rm : Rm) (neg : Bool) : Nat :=
  if rm == 0 || (rm == 2 && !neg) || (rm == 3 && neg) then k.infOf neg else k.sign neg + k.top

/-- Rounds m / 2^d to an integer (R110, item 2). -/
def roundShift (rm : Rm) (neg : Bool) (m d : Nat) : Nat :=
  let q := m / 2 ^ d
  let r := m % 2 ^ d
  if r == 0 then q
  else
    let up := if rm == 0 then decide (2 ^ d < 2 * r) || (2 * r == 2 ^ d && q % 2 == 1)
      else (rm == 2 && !neg) || (rm == 3 && neg)
    if up then q + 1 else q

/-- Rounds (−1)^neg × m × 2^ex, m not 0, to a format (R110, R111). -/
def Fmt.roundFin (k : Fmt) (rm : Rm) (neg : Bool) (m : Nat) (ex : Int) : Nat :=
  let lead : Int := ex + Nat.log2 m
  let least : Int := 1 - (k.bias : Int) - k.f
  let q : Int := if lead - k.f < least then least else lead - k.f
  let mant := if q ≤ ex then m * 2 ^ (ex - q).toNat else roundShift rm neg m (q - ex).toNat
  -- consecutive encodings are consecutive values, so a carry moves to the next exponent
  let enc := (q - least).toNat * 2 ^ k.f + mant
  if k.top < enc then k.overflow rm neg else k.sign neg + enc

/-- Rounds an exact value to a format; every NaN becomes the canonical one (R104, R110). -/
def Fmt.round (k : Fmt) (rm : Rm) : FVal → Nat
  | .nan => k.nan
  | .inf neg => k.infOf neg
  | .fin neg m ex => if m == 0 then k.sign neg else k.roundFin rm neg m ex

/-- The exact product (R111, R113). -/
def FVal.mul : FVal → FVal → FVal
  | .fin n m e, .fin n' m' e' => .fin (n != n') (m * m') (e + e')
  | .inf n, .inf n' => .inf (n != n')
  | .inf n, .fin n' m _ => if m == 0 then .nan else .inf (n != n')
  | .fin n m _, .inf n' => if m == 0 then .nan else .inf (n != n')
  | .nan, _ => .nan
  | _, .nan => .nan

/-- The sign inverted. -/
def FVal.neg : FVal → FVal
  | .nan => .nan
  | .inf n => .inf !n
  | .fin n m e => .fin (!n) m e

/-- The signed significand of a finite value at an exponent not above its own. -/
def FVal.at (e0 : Int) : FVal → Int
  | .fin n m e => (if n then -1 else 1) * ((m * 2 ^ (e - e0).toNat : Nat) : Int)
  | _ => 0

/-- The exponent of a finite value, 0 otherwise. -/
def FVal.ex : FVal → Int
  | .fin _ _ e => e
  | _ => 0

/-- The sign of a value; false for NaN. -/
def FVal.isNeg : FVal → Bool
  | .nan => false
  | .inf n => n
  | .fin n _ _ => n

/-- The exact sum of a list of values: NaN, an infinity, or a finite value, an exact zero with the sign of R111. -/
def fsum (rm : Rm) (l : List FVal) : FVal :=
  if l.contains .nan || (l.contains (.inf true) && l.contains (.inf false)) then .nan
  else if l.contains (.inf true) then .inf true
  else if l.contains (.inf false) then .inf false
  else
    let e0 := l.foldl (fun m v => if v.ex < m then v.ex else m) ((l.headD (.fin false 0 0)).ex)
    let t := l.foldl (fun s v => s + v.at e0) (0 : Int)
    if t == 0 then
      if l.all fun v => v == .fin true 0 v.ex then .fin true 0 0
      else if l.all fun v => v == .fin false 0 v.ex then .fin false 0 0
      else .fin (rm == 3) 0 0
    else .fin (decide (t < 0)) t.natAbs e0

/-- Bits of a number. -/
def bitLen (n : Nat) : Nat := if n == 0 then 0 else Nat.log2 n + 1

/-- The exact quotient as far as rounding can tell: its leading 64 bits and more, then a sticky bit. -/
def quot (neg : Bool) (a b : Nat) (ex : Int) : FVal :=
  let k := 64 + bitLen b
  let n := a * 2 ^ k
  .fin neg (2 * (n / b) + (if n % b == 0 then 0 else 1)) (ex - k - 1)

/-- a / b (R114). -/
def FVal.div : FVal → FVal → FVal
  | .nan, _ => .nan
  | _, .nan => .nan
  | .inf _, .inf _ => .nan
  | .inf n, .fin n' _ _ => .inf (n != n')
  | .fin n _ _, .inf n' => .fin (n != n') 0 0
  | .fin n m e, .fin n' m' e' =>
    if m' == 0 then (if m == 0 then .nan else .inf (n != n'))
    else if m == 0 then .fin (n != n') 0 0
    else quot (n != n') m m' (e - e')

/-- The integer square root, found bit by bit from bit k downward. -/
def isqrtFrom (n r : Nat) : Nat → Nat
  | 0 => if (r + 1) * (r + 1) ≤ n then r + 1 else r
  | k + 1 => isqrtFrom n (if (r + 2 ^ (k + 1)) * (r + 2 ^ (k + 1)) ≤ n then r + 2 ^ (k + 1) else r) k

/-- The integer square root. -/
def isqrt (n : Nat) : Nat := isqrtFrom n 0 (bitLen n / 2)

/-- m × 2^ex with an even exponent. -/
def evenEx (m : Nat) (ex : Int) : Nat × Int := if ex % 2 == 0 then (m, ex) else (2 * m, ex - 1)

/-- √a (R114). -/
def FVal.sqrt : FVal → FVal
  | .nan => .nan
  | .inf n => if n then .nan else .inf false
  | .fin n m ex =>
    if m == 0 then .fin n 0 0
    else if n then .nan
    else
      let (m, ex) := evenEx m ex
      let v := m * 2 ^ 128
      let r := isqrt v
      .fin false (2 * r + (if r * r == v then 0 else 1)) (ex / 2 - 65)

/-- 1 / √a (R114). -/
def FVal.rsqrt : FVal → FVal
  | .nan => .nan
  | .inf n => if n then .nan else .fin false 0 0
  | .fin n m ex =>
    if m == 0 then .inf n
    else if n then .nan
    else
      let (m, ex) := evenEx m ex
      let r := isqrt (2 ^ 256 / m)
      .fin false (2 * r + (if r * r * m == 2 ^ 256 then 0 else 1)) (-(ex / 2) - 129)

section Transcendental

/-- The scale of fixed-point values below: 2^480. -/
def scaleBits : Nat := 480

/-- ⌊π × 2^512⌋. -/
def piFixed : Nat :=
  0x3243f6a8885a308d313198a2e03707344a4093822299f31d0082efa98ec4e6c89452821e638d01377be5466cf34e90c6cc0ac29b7c97c50dd3f84d5b5b5470917

/-- ⌊ln 2 × 2^512⌋. -/
def ln2Fixed : Nat :=
  0xb17217f7d1cf79abc9e3b39803f2f6af40f343267298b62d8a0d175b8baafa2be7b876206debac98559552fb4afa1b10ed2eae35c138214427573b291169b825

/-- A fixed-point value computed with an error below 2^-440, of a number that is irrational: its bits down to
2^-430 and a sticky bit. Absolute, so every F32 rounding is decided by them. -/
def sticky (neg : Bool) (v : Nat) (ex : Int) : FVal := .fin neg (2 * (v / 2 ^ 50) + 1) (ex - 431)

/-- Sum of term + term·x/n + …: the tail of e^x from its n-th factor. -/
def expTail (x term n : Nat) : Nat → Nat
  | 0 => 0
  | fuel + 1 => term + expTail x (term * x / 2 ^ scaleBits / n) (n + 1) fuel

/-- Alternating sum of the sine series from the factor n·(n+1), x2 being x². -/
def sinTail (x2 term n : Nat) : Nat → Nat
  | 0 => 0
  | fuel + 1 => term - sinTail x2 (term * x2 / 2 ^ scaleBits / (n * (n + 1))) (n + 2) fuel

/-- Σ z^(2k+1)/(2k+1). -/
def atanhTail (z2 pw n : Nat) : Nat → Nat
  | 0 => 0
  | fuel + 1 => pw / n + atanhTail z2 (pw * z2 / 2 ^ scaleBits) (n + 2) fuel

/-- A dyadic number as a fixed-point value below one unit, and its integer part (floor). -/
def splitFloor (neg : Bool) (m : Nat) (ex : Int) : Int × Nat × Nat :=
  if 0 ≤ ex then ((if neg then -1 else 1) * ((m * 2 ^ ex.toNat : Nat) : Int), 0, 0)
  else
    let d := (-ex).toNat
    let v : Int := if neg then -(m : Int) else m
    (v / 2 ^ d, (v % 2 ^ d).toNat, d)

/-- 2^a (R114). -/
def FVal.exp2 : FVal → FVal
  | .nan => .nan
  | .inf n => if n then .fin false 0 0 else .inf false
  | .fin n m ex =>
    if m == 0 then .fin false 1 0
    else if 9 ≤ ex + Nat.log2 m then
      -- |a| is 512 or more: beyond every F32 result
      (if n then .fin false 1 (-400) else .fin false 1 400)
    else
      let (i, fr, d) := splitFloor n m ex
      if fr == 0 then .fin false 1 i
      else sticky false (expTail (fr * ln2Fixed / 2 ^ (d + 32)) (2 ^ scaleBits) 1 120) i

/-- log₂ a (R114). -/
def FVal.log2 : FVal → FVal
  | .nan => .nan
  | .inf n => if n then .nan else .inf false
  | .fin n m ex =>
    if m == 0 then .inf true
    else if n then .nan
    else
      let l := Nat.log2 m
      let i : Int := ex + l
      if m == 2 ^ l then .fin (decide (i < 0)) i.natAbs 0
      else
        let z := (m - 2 ^ l) * 2 ^ scaleBits / (m + 2 ^ l)
        let fr := 2 * atanhTail (z * z / 2 ^ scaleBits) z 1 170 * 2 ^ 512 / ln2Fixed
        if 0 ≤ i then sticky false (i.toNat * 2 ^ scaleBits + fr) 0
        else sticky true ((-i).toNat * 2 ^ scaleBits - fr) 0

/-- sin(π × v), v = num / 2^d; `zero` is the sign of a zero result. -/
def sinPiOf (v : Int) (d : Nat) (zero : Bool) : FVal :=
  -- num / 2^d reduced modulo 2
  let r := (v % (2 * 2 ^ d : Nat)).toNat
  let neg := decide (2 ^ d ≤ r)
  let r := r % 2 ^ d
  let r := if 2 ^ d < 2 * r then 2 ^ d - r else r
  if r == 0 then .fin zero 0 0
  else if 2 * r == 2 ^ d then .fin neg 1 0
  else
    let x := r * piFixed / 2 ^ (d + 32)
    sticky neg (sinTail (x * x / 2 ^ scaleBits) x 2 90) 0

/-- A finite value as an integer over a power of two, the power at least 1. -/
def overPow (n : Bool) (m : Nat) (ex : Int) : Int × Nat :=
  let d := if ex < 0 then (-ex).toNat else 1
  let v : Nat := if ex < 0 then m else m * 2 ^ (ex.toNat + 1)
  (if n then -(v : Int) else v, d)

/-- sin(πa) (R114). -/
def FVal.sinPi : FVal → FVal
  | .fin n m ex => let (v, d) := overPow n m ex; sinPiOf v d n
  | _ => .nan

/-- cos(πa) = sin(π(a + ½)) (R114). -/
def FVal.cosPi : FVal → FVal
  | .fin n m ex => let (v, d) := overPow n m ex; sinPiOf (v + (2 ^ (d - 1) : Nat)) d false
  | _ => .nan

end Transcendental

/-- FADD, FMUL, FFMA and their like: one rounding (R113). -/
def Fmt.add (k : Fmt) (rm : Rm) (a b : Nat) : Nat := k.round rm (fsum rm [k.val a, k.val b])
def Fmt.sub (k : Fmt) (rm : Rm) (a b : Nat) : Nat := k.round rm (fsum rm [k.val a, (k.val b).neg])
def Fmt.mul (k : Fmt) (rm : Rm) (a b : Nat) : Nat := k.round rm ((k.val a).mul (k.val b))
def Fmt.fma (k : Fmt) (rm : Rm) (a b c : Nat) : Nat :=
  k.round rm (fsum rm [(k.val a).mul (k.val b), k.val c])
def Fmt.div (k : Fmt) (rm : Rm) (a b : Nat) : Nat := k.round rm ((k.val a).div (k.val b))

/-- a < b of values that are no NaN, −0 below +0 when `zeros`. -/
def FVal.lt (zeros : Bool) : FVal → FVal → Bool
  | .nan, _ => false
  | _, .nan => false
  | .inf n, .inf n' => n && !n'
  | .inf n, .fin _ _ _ => n
  | .fin _ _ _, .inf n' => !n'
  | .fin n m e, .fin n' m' e' =>
    let e0 := if e < e' then e else e'
    let x := FVal.at e0 (.fin n m e)
    let y := FVal.at e0 (.fin n' m' e')
    decide (x < y) || (zeros && m == 0 && m' == 0 && n && !n')

/-- FMIN and FMAX (R115): never rounded. -/
def Fmt.min (k : Fmt) (a b : Nat) : Nat :=
  match k.val a, k.val b with
  | .nan, .nan => k.nan
  | .nan, _ => b
  | _, .nan => a
  | x, y => if y.lt true x then b else a
def Fmt.max (k : Fmt) (a b : Nat) : Nat :=
  match k.val a, k.val b with
  | .nan, .nan => k.nan
  | .nan, _ => b
  | _, .nan => a
  | x, y => if x.lt true y then b else a

/-- Rounds a finite value to an integer (R110, item 2, on the grid of the integers). -/
def toIntegral (rm : Rm) (neg : Bool) (m : Nat) (ex : Int) : Int :=
  let v := if 0 ≤ ex then m * 2 ^ ex.toNat else roundShift rm neg m (-ex).toNat
  if neg then -(v : Int) else v

/-- FRND (R334): an integral value of the same format. -/
def Fmt.integral (k : Fmt) (rm : Rm) (a : Nat) : Nat :=
  match k.val a with
  | .fin n m ex =>
    if 0 ≤ ex then a else k.round rm (.fin n (toIntegral rm n m ex).natAbs 0)
  | v => k.round rm v

/-- A value as an integer between bounds (R118): rounded, then clamped; NaN gives 0. -/
def FVal.toInt (rm : Rm) (lo hi : Int) : FVal → Int
  | .nan => 0
  | .inf n => if n then lo else hi
  | .fin n m ex =>
    -- beyond every bound of 64 bits, so that no large power is formed
    if 70 < ex + Nat.log2 m then (if n then lo else hi)
    else
      let v := toIntegral rm n m ex
      if v < lo then lo else if hi < v then hi else v

/-- An integer as a value. -/
def FVal.ofInt (v : Int) : FVal := .fin (decide (v < 0)) v.natAbs 0

/-- The formats of CVT by code (R338); 5 is I32 and 6 is N32. -/
def fmtOf (code : Nat) : Fmt :=
  if code == 1 then F16 else if code == 2 then BF16 else if code == 3 then F8A else if code == 4 then F8B else F32

/-- CVT (R118, R338) of one element. -/
def convert (src dst : Nat) (rm : Rm) (x : Nat) : Nat :=
  let v := if src == 5 then FVal.ofInt (toSigned 32 x) else if src == 6 then FVal.ofInt x else (fmtOf src).val x
  if dst == 5 then wrapTo 32 (v.toInt rm (-2 ^ 31) (2 ^ 31 - 1))
  else if dst == 6 then wrapTo 32 (v.toInt rm 0 (2 ^ 32 - 1))
  else (fmtOf dst).round rm v

/-- A normalised element e / M in F32 (R108, R129). -/
def normToF32 (e m : Nat) : Nat := F32.round 0 (if e == 0 then .fin false 0 0 else quot false e m 0)

/-- An F32 value as a normalised element: clamped to 0 to 1, then RNE(x × M); NaN gives 0. -/
def f32ToNorm (m : Nat) (x : Nat) : Nat :=
  match F32.val x with
  | .nan => 0
  | .inf n => if n then 0 else m
  | .fin n k ex =>
    if n || k == 0 then 0
    else if 0 ≤ ex + Nat.log2 k then m
    else (toIntegral 0 false (k * m) ex).toNat

/-- The class of an F32 value, one bit (R334). -/
def fclass (a : Nat) : Nat :=
  match F32.val a with
  | .nan => 256
  | .inf n => if n then 1 else 128
  | .fin n m _ =>
    if m == 0 then (if n then 8 else 16)
    else if m < 2 ^ 23 then (if n then 4 else 32)
    else (if n then 2 else 64)

/-- The relations of FCMP (R333). -/
def fcmp (cond a b : Nat) : Bool :=
  let x := F32.val a
  let y := F32.val b
  let un := x == .nan || y == .nan
  let lt := x.lt false y
  let gt := y.lt false x
  match cond with
  | 0 => !un && !lt && !gt
  | 1 => un || lt || gt
  | 2 => lt
  | 3 => !un && !gt
  | 4 => gt
  | 5 => !un && !lt
  | 6 => un
  | _ => !un

end Sys2Proof.Machine
end

