-- ==== Sys2Proof/Machine/Flags.lean ====
section
/-! DEFINITION. What the compute instructions compute (R323 to R340): the value and the predicate of every one,
as functions of one thread's operands. -/

namespace Sys2Proof.Machine

/-- The operands of one thread: the sources as 64-bit patterns, the old destination, the thread for the
predicates it names, and the word's MOD and IMM16. -/
structure AluIn where
  a : Nat
  b : Nat
  c : Nat
  old : Nat
  th : Thread
  mod : BitVec 10
  imm : BitVec 16

/-- A result: the value and the predicate destination's new value. -/
structure Res where
  d : Nat := 0
  p : Bool := false
  deriving DecidableEq, Repr

/-- A field of MOD or IMM16. -/
def AluIn.m (i : AluIn) (hi lo : Nat) : Nat := fld i.mod hi lo
def AluIn.rm (i : AluIn) : Rm := fld i.mod 9 8

/-- The value of an n-bit pattern: signed, or unsigned when u (V of R323). -/
def valOf (w : Nat) (u : Bool) (x : Nat) : Int := if u then ((x % 2 ^ w : Nat) : Int) else toSigned w x

/-- An integer brought into a range. -/
def clampI (lo hi v : Int) : Int := if v < lo then lo else if hi < v then hi else v

/-- The carry of an addition and the borrow of a subtraction (R323). -/
def carryOf (w a b : Nat) : Bool := decide (2 ^ w ≤ a % 2 ^ w + b % 2 ^ w)
def borrowOf (w a b : Nat) : Bool := decide (a % 2 ^ w < b % 2 ^ w)

section Integer

/-- ADD and SUB (R323), by the exact signed and unsigned results. -/
def satAdd (sat : Nat) (s u : Int) : Nat :=
  if sat == 1 then wrapTo 32 (clampI (-2 ^ 31) (2 ^ 31 - 1) s)
  else if sat == 2 then wrapTo 32 (clampI 0 (2 ^ 32 - 1) u)
  else wrapTo 32 u
def addRes (i : AluIn) : Res :=
  ⟨satAdd (i.m 1 0) (toSigned 32 i.a + toSigned 32 i.b) (valOf 32 true i.a + valOf 32 true i.b), carryOf 32 i.a i.b⟩
def subRes (i : AluIn) : Res :=
  ⟨satAdd (i.m 1 0) (toSigned 32 i.a - toSigned 32 i.b) (valOf 32 true i.a - valOf 32 true i.b), borrowOf 32 i.a i.b⟩
def mulRes (i : AluIn) : Res := { d := wrapTo 32 (toSigned 32 i.a * toSigned 32 i.b) }
def mulhiRes (i : AluIn) : Res :=
  let u := i.m 0 0 == 1
  { d := wrapTo 64 (valOf 32 u i.a * valOf 32 u i.b) / 2 ^ 32 }
def madRes (i : AluIn) : Res := { d := wrapTo 32 (toSigned 32 i.a * toSigned 32 i.b + toSigned 32 i.c) }
def madwRes (i : AluIn) : Res :=
  let u := i.m 0 0 == 1
  { d := wrapTo 64 (valOf 32 u i.a * valOf 32 u i.b + toSigned 64 i.c) }
def absRes (i : AluIn) : Res :=
  let v : Int := (toSigned 32 i.a).natAbs
  { d := wrapTo 32 (if i.m 0 0 == 1 then clampI 0 (2 ^ 31 - 1) v else v) }
def minRes (i : AluIn) : Res :=
  let u := i.m 0 0 == 1
  { d := (if valOf 32 u i.b < valOf 32 u i.a then i.b else i.a) % 2 ^ 32 }
def maxRes (i : AluIn) : Res :=
  let u := i.m 0 0 == 1
  { d := (if valOf 32 u i.a < valOf 32 u i.b then i.b else i.a) % 2 ^ 32 }
def addwRes (i : AluIn) : Res := ⟨(i.a + i.b) % 2 ^ 64, carryOf 64 i.a i.b⟩
def subwRes (i : AluIn) : Res := ⟨wrapTo 64 ((i.a : Int) - i.b), borrowOf 64 i.a i.b⟩

/-- Width of a CVTI type (R331); odd codes are unsigned. -/
def cvtiWidth (code : Nat) : Nat := 8 * 2 ^ (code / 2)

/-- Range of a CVTI type. -/
def cvtiMin (code : Nat) : Int := if code % 2 == 1 then 0 else -2 ^ (cvtiWidth code - 1)
def cvtiMax (code : Nat) : Int := if code % 2 == 1 then 2 ^ cvtiWidth code - 1 else 2 ^ (cvtiWidth code - 1) - 1

/-- CVTI (R331). -/
def cvtiRes (i : AluIn) : Res :=
  let src := i.m 2 0
  let dst := i.m 5 3
  let x := valOf (cvtiWidth src) (src % 2 == 1) i.a
  let x := if i.m 6 6 == 1 then clampI (cvtiMin dst) (cvtiMax dst) x else x
  let y := valOf (cvtiWidth dst) (dst % 2 == 1) (wrapTo (cvtiWidth dst) x)
  { d := wrapTo (if dst < 6 then 32 else 64) y }

end Integer

section Logic

def andRes (i : AluIn) : Res := { d := (i.a &&& i.b) % 2 ^ 32 }
def orRes (i : AluIn) : Res := { d := (i.a ||| i.b) % 2 ^ 32 }
def xorRes (i : AluIn) : Res := { d := (i.a ^^^ i.b) % 2 ^ 32 }
def andnRes (i : AluIn) : Res := { d := (i.a &&& (2 ^ 32 - 1 - i.b % 2 ^ 32)) % 2 ^ 32 }
/-- SHL, SHR, SAR, ROT (R324). -/
def shlRes (i : AluIn) : Res := { d := if i.b % 2 ^ 32 < 32 then i.a * 2 ^ (i.b % 2 ^ 32) % 2 ^ 32 else 0 }
def shrRes (i : AluIn) : Res := { d := if i.b % 2 ^ 32 < 32 then i.a % 2 ^ 32 / 2 ^ (i.b % 2 ^ 32) else 0 }
def sarRes (i : AluIn) : Res :=
  { d := wrapTo 32 (toSigned 32 i.a / 2 ^ (if i.b % 2 ^ 32 < 32 then i.b % 2 ^ 32 else 32)) }
def rotRes (i : AluIn) : Res :=
  let m := i.b % 32
  { d := (i.a * 2 ^ m + i.a % 2 ^ 32 / 2 ^ (32 - m)) % 2 ^ 32 }
/-- FSH (R325). -/
def fshRes (i : AluIn) : Res :=
  let n := Nat.min (i.c % 2 ^ 32) 32
  let v := i.b % 2 ^ 32 * 2 ^ 32 + i.a % 2 ^ 32
  { d := if i.m 0 0 == 0 then v / 2 ^ n % 2 ^ 32 else v * 2 ^ n % 2 ^ 64 / 2 ^ 32 }

/-- Offset and width of BFX and BFI (R326). -/
def fieldOf (i : AluIn) : Nat × Nat :=
  let v := if i.m 1 1 == 1 then i.imm.toNat else i.b
  (nfld v 5 0, nfld v 13 8)

/-- BFX (R326). -/
def bfxRes (i : AluIn) : Res :=
  let (o, w) := fieldOf i
  let u := i.m 0 0 == 0
  if w == 0 then { d := 0 }
  else if 32 ≤ o then { d := if !u && i.a.testBit 31 then 2 ^ 32 - 1 else 0 }
  else
    let n := Nat.min (o + w) 32 - o
    { d := wrapTo 32 (valOf n u (i.a % 2 ^ 32 / 2 ^ o)) }

/-- BFI (R326): bits [31:0] of the old destination replaced where the field lies, the bits above kept. -/
def bfiRes (i : AluIn) : Res :=
  let (o, w) := fieldOf i
  if w == 0 || decide (32 ≤ o) then { d := i.old }
  else
    let n := Nat.min (o + w) 32 - o
    { d := i.old - i.old / 2 ^ o % 2 ^ n * 2 ^ o + i.a % 2 ^ n * 2 ^ o }

/-- The number of one bits among the low n. -/
def popCount (x : Nat) : Nat → Nat
  | 0 => 0
  | n + 1 => (if x.testBit n then 1 else 0) + popCount x n

/-- The low n bits in reverse. -/
def revBits (x : Nat) : Nat → Nat
  | 0 => 0
  | n + 1 => (if x.testBit n then 1 else 0) + 2 * revBits x n

def pcntRes (i : AluIn) : Res := { d := popCount i.a 32 }
def clzRes (i : AluIn) : Res := { d := 32 - bitLen (i.a % 2 ^ 32) }
def brevRes (i : AluIn) : Res := { d := revBits i.a 32 }

/-- CMP's relation (R328). -/
def relation (cond : Nat) (a b : Int) : Bool :=
  match cond with
  | 0 => a == b
  | 1 => a != b
  | 2 => decide (a < b)
  | 3 => decide (a ≤ b)
  | 4 => decide (b < a)
  | _ => decide (b ≤ a)

/-- CMP over operands of w bits. -/
def cmpRes (w : Nat) (i : AluIn) : Res :=
  let u := i.m 3 3 == 1
  { p := relation (i.m 2 0) (valOf w u i.a) (valOf w u i.b) }

/-- SEL, MOV, MOVL (R329): a uniform SEL's 32-bit result included. -/
def selRes (i : AluIn) : Res :=
  { d := (if i.th.readPred (i.m 2 0) != (i.m 3 3 == 1) then i.a else i.b) % 2 ^ 32 }
def movRes (i : AluIn) : Res := { d := i.a }
def movlRes (i : AluIn) : Res := { d := i.b }
/-- PLOP (R330). -/
def plopRes (i : AluIn) : Res :=
  { p := i.imm.getLsbD (4 * (i.th.readPred (i.m 2 0)).toNat + 2 * (i.th.readPred (i.m 5 3)).toNat +
      (i.th.readPred (i.m 8 6)).toNat) }

end Logic

section Float

def w32 (x : Nat) : Nat := x % 2 ^ 32
def faddRes (i : AluIn) : Res := { d := F32.add i.rm (w32 i.a) (w32 i.b) }
def fsubRes (i : AluIn) : Res := { d := F32.sub i.rm (w32 i.a) (w32 i.b) }
def fmulRes (i : AluIn) : Res := { d := F32.mul i.rm (w32 i.a) (w32 i.b) }
def ffmaRes (i : AluIn) : Res := { d := F32.fma i.rm (w32 i.a) (w32 i.b) (w32 i.c) }
def fminRes (i : AluIn) : Res := { d := F32.min (w32 i.a) (w32 i.b) }
def fmaxRes (i : AluIn) : Res := { d := F32.max (w32 i.a) (w32 i.b) }
def fcmpRes (i : AluIn) : Res := { p := fcmp (i.m 3 0) (w32 i.a) (w32 i.b) }
def frndRes (i : AluIn) : Res := { d := F32.integral i.rm (w32 i.a) }
/-- FCLASS (R334). -/
def fclassRes (i : AluIn) : Res :=
  let k := fclass (w32 i.a)
  ⟨k, (k &&& i.imm.toNat) != 0⟩
def fdivRes (i : AluIn) : Res := { d := F32.div i.rm (w32 i.a) (w32 i.b) }
/-- A special function of one source (R114, R335). -/
def special (f : FVal → FVal) (i : AluIn) : Res := { d := F32.round i.rm (f (F32.val (w32 i.a))) }
def frcpRes (i : AluIn) : Res := special (FVal.ofInt 1).div i
def frsqRes (i : AluIn) : Res := special FVal.rsqrt i
def fsqrtRes (i : AluIn) : Res := special FVal.sqrt i
def fex2Res (i : AluIn) : Res := special FVal.exp2 i
def flg2Res (i : AluIn) : Res := special FVal.log2 i
def fsinpiRes (i : AluIn) : Res := special FVal.sinPi i
def fcospiRes (i : AluIn) : Res := special FVal.cosPi i

/-- Element e of w bits of a packed operand (R105). -/
def elem (w x e : Nat) : Nat := x / 2 ^ (w * e) % 2 ^ w
/-- Two 16-bit elements computed apart (R336). -/
def packed (f : Nat → Nat) : Res := { d := f 0 + 2 ^ 16 * f 1 }
def hadd2Res (i : AluIn) : Res := packed fun e => F16.add i.rm (elem 16 i.a e) (elem 16 i.b e)
def hmul2Res (i : AluIn) : Res := packed fun e => F16.mul i.rm (elem 16 i.a e) (elem 16 i.b e)
def hfma2Res (i : AluIn) : Res := packed fun e => F16.fma i.rm (elem 16 i.a e) (elem 16 i.b e) (elem 16 i.c e)
def bfma2Res (i : AluIn) : Res := packed fun e => BF16.fma i.rm (elem 16 i.a e) (elem 16 i.b e) (elem 16 i.c e)
def hmin2Res (i : AluIn) : Res := packed fun e => F16.min (elem 16 i.a e) (elem 16 i.b e)
def hmax2Res (i : AluIn) : Res := packed fun e => F16.max (elem 16 i.a e) (elem 16 i.b e)
/-- DP2H (R116, R337). -/
def dp2hRes (i : AluIn) : Res :=
  let p (e : Nat) := (F16.val (elem 16 i.a e)).mul (F16.val (elem 16 i.b e))
  { d := F32.round i.rm (fsum i.rm [p 0, p 1, F32.val (w32 i.c)]) }
/-- A dot product of n offset-binary elements of w bits (R337). -/
def dotRes (n w za zb : Nat) (i : AluIn) : Res :=
  { d := wrapTo 32 ((List.range n).foldl
      (fun s e => s + ((elem w i.a e : Int) - za) * ((elem w i.b e : Int) - zb)) (toSigned 32 i.c)) }
def dp4oRes (i : AluIn) : Res := dotRes 4 8 (fld i.imm 7 0) (fld i.imm 15 8) i
def dp8oRes (i : AluIn) : Res := dotRes 8 4 (fld i.imm 3 0) (fld i.imm 11 8) i

/-- Width of a CVT format. -/
def cvtWidth (code : Nat) : Nat := if code == 1 || code == 2 then 16 else if code == 3 || code == 4 then 8 else 32
/-- CVT (R338). -/
def cvtRes (i : AluIn) : Res :=
  let src := i.m 3 0
  { d := convert src (i.m 7 4) i.rm (elem (cvtWidth src) i.a (fld i.imm 1 0)) }

/-- One element of PACK (R339). -/
def packElem (pf rm x : Nat) : Nat :=
  if pf < 4 then convert 0 (pf + 1) rm x
  else
    let v := toSigned 32 x
    if pf == 4 then wrapTo 8 (clampI (-128) 127 v)
    else if pf == 5 then wrapTo 8 (clampI 0 255 v)
    else if pf == 6 then wrapTo 16 (clampI (-32768) 32767 v)
    else wrapTo 16 (clampI 0 65535 v)
/-- PACK (R339). -/
def packRes (i : AluIn) : Res :=
  let pf := i.m 2 0
  let ea := packElem pf i.rm (w32 i.a)
  let eb := packElem pf i.rm (w32 i.b)
  if 2 ≤ pf && pf ≤ 5 then
    let sh := 16 * i.m 3 3
    let c := w32 i.c
    { d := c - elem 16 c (i.m 3 3) * 2 ^ sh + (ea + 256 * eb) * 2 ^ sh }
  else { d := ea + 2 ^ 16 * eb }

/-- UNPACK (R340). -/
def unpackRes (i : AluIn) : Res :=
  let e := fld i.imm 2 0
  match i.m 3 0 with
  | 0 => { d := convert 1 0 0 (elem 16 i.a e) }
  | 1 => { d := convert 2 0 0 (elem 16 i.a e) }
  | 2 => { d := convert 3 0 0 (elem 8 i.a e) }
  | 3 => { d := convert 4 0 0 (elem 8 i.a e) }
  | 4 => { d := wrapTo 32 (toSigned 8 (elem 8 i.a e)) }
  | 5 => { d := elem 8 i.a e }
  | 6 => { d := wrapTo 32 (toSigned 16 (elem 16 i.a e)) }
  | 7 => { d := elem 16 i.a e }
  | 8 => { d := wrapTo 32 ((elem 8 i.a e : Int) - elem 8 i.b 0) }
  | _ => { d := wrapTo 32 ((elem 4 i.a e : Int) - elem 4 i.b 0) }

end Float

section Lanes

/-- The operation of REDO and SCANO (R343). -/
def redoOp (op a b : Nat) : Nat :=
  match op with
  | 0 => F32.add 0 a b
  | 1 => F32.min a b
  | 2 => F32.max a b
  | 3 => (a + b) % 2 ^ 32
  | 4 => if toSigned 32 b < toSigned 32 a then b else a
  | 5 => if toSigned 32 a < toSigned 32 b then b else a
  | 6 => Nat.min a b
  | 7 => Nat.max a b
  | 8 => a &&& b
  | 9 => a ||| b
  | _ => a ^^^ b

/-- Its identity. -/
def redoId (op : Nat) : Nat :=
  match op with
  | 0 => 0x80000000
  | 1 => 0x7F800000
  | 2 => 0xFF800000
  | 4 => 0x7FFFFFFF
  | 5 => 0x80000000
  | 6 => 0xFFFFFFFF
  | 8 => 0xFFFFFFFF
  | _ => 0

/-- The next level of the tree: lower home lanes are the left operand (R119). -/
def pairUp (f : Nat → Nat → Nat) : List Nat → List Nat
  | a :: b :: r => f a b :: pairUp f r
  | _ => []

/-- The levels of the tree, leaves first (R119). -/
def redoTree (f : Nat → Nat → Nat) (leaves : List Nat) : Nat → List (List Nat)
  | 0 => [leaves]
  | n + 1 => leaves :: redoTree f (pairUp f leaves) n

/-- The prefix of lanes 0 to j (R120), from a level down. That of lane 0 is its leaf as it is, a NaN's bits unchanged, as the
`acc = n` of R120 has it (log entry 65). -/
def scanFrom (f : Nat → Nat → Nat) (tree : List (List Nat)) (j1 : Nat) (acc : Option Nat) : Nat → Option Nat
  | 0 => acc
  | n + 1 =>
    -- level n
    let acc := if j1.testBit n then
        let ix := (j1 / 2 ^ n * 2 ^ n - 2 ^ n) / 2 ^ n
        let x := (tree.getD n []).getD ix 0
        match acc with
        | none => some x
        | some a => some (f a x)
      else acc
    scanFrom f tree j1 acc n

end Lanes

end Sys2Proof.Machine
end

