-- ==== Sys2Proof/Machine/MemOps.lean ====
section
/-! DEFINITION. Loads, stores, atomics, fences, PREF and TIERQ (R347 to R359, R363, R364). -/

namespace Sys2Proof.Machine

/-- The operands of an address (R349, R350, R356): base, seat, index, its scale, and what is added. -/
structure Addr where
  space : Nat
  base : Src
  seat : Src
  index : Src
  /-- a 32-bit vector index is sign-extended -/
  sext : Bool
  scale : Nat
  disp : DWord
  win : Nat

/-- The address of an M word (R349, R350): `space` for words whose MOD has none. -/
def addrM (f : ExtForm) (space : Nat) : Addr :=
  let x := f.x
  let k := x.km1.toNat + 1
  let sc := fld x.mod 2 0
  let lit := f.lit.getD 0
  { space := space
    base := if space == 2 || x.a == .zero then .zero else .ureg x.a.idx.toNat true
    seat := if space == 2 then opndSrc x.a false (x.pbs == 1) k else .zero
    index := if sc == 0 || f.lit.isSome then .zero else opndSrc x.b (x.b.kind || 5 ≤ sc) (x.pbs == 2) k
    sext := !x.b.kind && sc ≤ 4
    scale := if sc == 0 then 0 else if sc ≤ 4 then 2 ^ (sc - 1) else if sc == 5 then 1 else if sc == 6 then 4 else 8
    disp := lit + x.imm.signExtend 64
    win := x.c.idx.toNat }

/-- The address of an MA word (R356): a 12-bit displacement, an index scaled by the width. -/
def addrMA (f : ExtForm) (width : Nat) : Addr :=
  let x := f.x
  let k := x.km1.toNat + 1
  let space := fld x.mod 9 8
  let hi := bitOf x.mod 0
  { space := space
    base := if space == 2 || x.a == .zero then .zero else .ureg x.a.idx.toNat true
    seat := if space == 2 then opndSrc x.a false (x.pbs == 1) k else .zero
    index := if hi && f.lit.isNone then opndSrc x.b x.b.kind (x.pbs == 2) k else .zero
    sext := !x.b.kind
    scale := if hi then width else 0
    disp := f.lit.getD 0 + (x.imm.setWidth 12).signExtend 64
    win := 0 }

/-- The sources of an address. -/
def Addr.srcs (d : Addr) : List Src := [d.base, d.seat, d.index]

/-- The effective address of a thread (R350). -/
def Addr.lane (d : Addr) (s : State) (c : Cohort) (t : Nat) : Lane :=
  let ix := srcVal s c t d.index
  let ix := if d.sext then (ix.setWidth 32).signExtend 64 else ix
  let ea := srcVal s c t d.base + ix * BitVec.ofNat 64 d.scale + d.disp
  { thread := t, ea := ea.toNat,
    sel := if d.space == 2 then (srcVal s c t d.seat).toNat % 2 ^ 32 else d.win }

/-- The last-read marks of the vector sources of a word, with the names each covers (R71, R348). -/
def srcMarks (x : Ext) (na nb nc : Nat) : List Nat :=
  opndMarks x.a na (x.pbs == 1) ++ opndMarks x.b nb (x.pbs == 2) ++ opndMarks x.c nc (x.pbs == 3)

/-- The base accesses of a CLS 11 word (R348): class, guard, length, marks. -/
def engAcc (f : ExtForm) (na nb nc : Nat) : Acc :=
  { extAcc f.x f.lit.isSome with cls := 3, marks := srcMarks f.x na (if f.lit.isSome then 0 else nb) nc }

/-- Bytes and vector names of an SZ code (R351). -/
def szBytes (sz : Nat) : Nat := if sz ≤ 1 then 1 else if sz ≤ 3 then 2 else if sz == 4 then 4 else if sz == 5 then 8 else 16
def szSigned (sz : Nat) : Bool := sz == 1 || sz == 3

/-- A loaded value as it is written: extended to the width of its destination (R351). -/
def extendTo (w : Nat) (sz : Nat) (v : Nat) : Nat := if szSigned sz then wrapTo w (toSigned (8 * szBytes sz) v) else v

/-- Performs loads in order; the values. -/
def loadAll (s : State) (unit ctx : Nat) (priv : Bool) (h : How) : List (Lane × Loc) → List (Nat × Nat) × State
  | [] => ([], s)
  | x :: r =>
    let (bs, s1) := loadLoc s unit ctx priv h x.2
    let (l, s2) := loadAll s1 unit ctx priv h r
    ((x.1.thread, leNat bs) :: l, s2)

/-- Scoreboarded results of threads in vector names, each from a cycle on. -/
def loadPendsAt (r : Ready) (w d words : Nat) (due : Nat → Nat) (vs : List (Nat × Nat)) : List (Nat × Pend) :=
  vs.flatMap fun (t, v) => (namePends r w true (due t) d words v).map fun p => (t, p)

/-- Scoreboarded results of threads in vector names. -/
def loadPends (s : State) (r : Ready) (w d words : Nat) (vs : List (Nat × Nat)) : List (Nat × Pend) :=
  loadPendsAt r w d words (fun _ => s.sched.clk + 1) vs

/-- The cycle from which each thread's result may be written, `s` the state before the word's walks (R171). -/
def dueOf (s s0 s1 : State) (c : Cohort) (h : How) (xs : List (Lane × Loc)) (t : Nat) : Nat :=
  latest ((xs.filter fun x => x.1.thread == t).map fun x => locDue s0 s1 c.unit c.priv h (laneWalk s h c.unit x.1) x.2)

/-- The context of a word's accesses. -/
def ctxOfCohort (s : State) (c : Cohort) : Nat := (s.planC c).ctx

/-- LD (R353). -/
def execLd (f : ExtForm) (s : State) : Out :=
  let x := f.x
  let space := fld x.mod 9 8
  let sz := fld x.mod 5 3
  let d := addrM f space
  let n := szNames sz
  let dst := x.d.idx.toNat
  let a := { (engAcc f 1 (if 5 ≤ fld x.mod 2 0 then 2 else 1) 0).reads d.srcs with wNames := (List.range n).map (dst + ·) }
  withPrep s a fun r =>
    let c := s.cohort r.id
    let h : How := { space := space, size := szBytes sz, kind := 0, cp := fld x.mod 7 6 }
    match checkAccess s r.id c.unit c.priv h (r.ths.map (d.lane s c)) (sameWay h) with
    | .trap code i => .trap code i
    | .stall s1 => .stall s1 .transition
    | .ok s1 xs =>
      let (vs, s2) := loadAll s1 c.unit (ctxOfCohort s c) c.priv h xs
      let (w, s3) := s2.newId
      .ok (commit s3 r a (loadPendsAt r w dst n (dueOf s s1 s2 c h xs) (vs.map fun (t, v) => (t, extendTo 32 sz v))))

/-- The data of a store: a vector source of n names, or a uniform register. -/
def storeSrcs (x : Ext) (n : Nat) : List Src :=
  let k := x.km1.toNat + 1
  if n == 4 && !x.c.kind then
    if x.pbs == 3 then [.back x.c.idx.toNat k true, .back (x.c.idx.toNat + 2) k true]
    else [.name x.c.idx.toNat true, .name (x.c.idx.toNat + 2) true]
  else [opndSrc x.c (x.c.kind || n == 2) (x.pbs == 3) k]

/-- The passback operand of a word whose C field covers n names. -/
def wideBack (a : Acc) (x : Ext) (n : Nat) : Acc :=
  if x.pbs == 3 then { a with back := some (x.c.idx.toNat, x.km1.toNat + 1, n) } else a

/-- The value of a store's data. -/
def storeVal (s : State) (c : Cohort) (t : Nat) : List Src → Nat
  | [] => 0
  | x :: r => (srcVal s c t x).toNat + 2 ^ 64 * storeVal s c t r

/-- ST (R353): in ascending home-lane order. -/
def execSt (f : ExtForm) (s : State) : Out :=
  let x := f.x
  let space := fld x.mod 9 8
  let sz := fld x.mod 5 3
  let d := addrM f space
  let n := szNames sz
  let ds := storeSrcs x n
  let a := wideBack ((engAcc f 1 (if 5 ≤ fld x.mod 2 0 then 2 else 1) n).reads (d.srcs ++ ds)) x n
  withPrep s a fun r =>
    let c := s.cohort r.id
    let h : How := { space := space, size := szBytes sz, kind := 1, cp := fld x.mod 7 6 }
    match checkAccess s r.id c.unit c.priv h (r.ths.map (d.lane s c)) (sameWay h) with
    | .trap code i => .trap code i
    | .stall s1 => .stall s1 .transition
    | .ok s1 xs =>
      .ok (plainIssue (xs.foldl (fun s2 (l, p) =>
        storeLoc s2 c.unit (ctxOfCohort s c) c.priv h (leBytes h.size (storeVal s c l.thread ds)) p) s1) r a)

/-- LDU (R354): once, by the acting thread. -/
def execLdu (f : ExtForm) (s : State) : Out :=
  let x := f.x
  let space := fld x.mod 9 8
  let sz := fld x.mod 5 3
  let d := addrM f space
  let dst := x.d.idx.toNat
  let n := if sz == 6 then 2 else 1
  let a := { (engAcc f 0 0 0).reads d.srcs with wUregs := (List.range n).map (dst + ·), once := true }
  withPrep s a fun r =>
    match actingThread s r.ths with
    | none => .ok (plainIssue s r a)
    | some t =>
      let c := s.cohort r.id
      let h : How := { space := space, size := szBytes sz, kind := 0, cp := fld x.mod 7 6 }
      match checkAccess s r.id c.unit c.priv h [d.lane s c t] (sameWay h) with
      | .trap code i => .trap code i
      | .stall s1 => .stall s1 .transition
      | .ok s1 xs =>
        let (vs, s2) := loadAll s1 c.unit (ctxOfCohort s c) c.priv h xs
        let v := (vs.map fun y => extendTo 64 sz y.2).headD 0
        let (w, s3) := s2.newId
        let s4 := plainIssue s3 r a
        .ok ((List.range n).foldl (fun s i => uregResultAt s r.id w (dst + i) (dueOf s s1 s2 c h xs t) (BitVec.ofNat 64 (v / 2 ^ (64 * i)))) s4)

/-- The scope of a word for its threads; they share their plan's levels. -/
def scopeFor (s : State) (r : Ready) (priv : Bool) (code : Nat) : Nat :=
  match r.ths with
  | [] => 0
  | t :: _ => scopeOf s t priv code

/-- What an acquire does before it reads (R187). -/
def acquireAt (s : State) (unit : Nat) (priv : Bool) (scope : Nat) (size : Nat) : Loc → State
  | .pa a _ => if priv || decide (scope < 2) then s else widen s a size unit scope
  | _ => s

/-- What a release write leaves in the directory (R187). -/
def releaseWrote (s : State) (unit : Nat) (priv : Bool) (scope : Nat) (size : Nat) : Loc → State
  | .pa a _ => if priv then s else recordRelease s a size unit scope
  | _ => s

/-- LDA (R355): an acquire at its scope. -/
def execLda (f : ExtForm) (s : State) : Out :=
  let x := f.x
  let sz := fld x.mod 5 3
  let d := addrM f 0
  let n := szNames sz
  let dst := x.d.idx.toNat
  let a := { (engAcc f 1 (if 5 ≤ fld x.mod 2 0 then 2 else 1) 0).reads d.srcs with wNames := (List.range n).map (dst + ·) }
  withPrep s a fun r =>
    let c := s.cohort r.id
    let scope := scopeFor s r c.priv (fld x.mod 9 6)
    let h : How := { space := 0, size := szBytes sz, kind := 0, home := decide (2 ≤ scope) }
    match checkAccess s r.id c.unit c.priv h (r.ths.map (d.lane s c)) (sameWay h) with
    | .trap code i => .trap code i
    | .stall s1 => .stall s1 .transition
    | .ok s1 xs =>
      let s2 := xs.foldl (fun s2 y => acquireAt s2 c.unit c.priv scope h.size y.2) s1
      let (vs, s3) := loadAll s2 c.unit (ctxOfCohort s c) c.priv h xs
      let (w, s4) := s3.newId
      .ok (commit s4 r a (loadPendsAt r w dst n (dueOf s s2 s3 c h xs) (vs.map fun (t, v) => (t, extendTo 32 sz v))))

/-- STR (R355): a release at its scope. -/
def execStr (f : ExtForm) (s : State) : Out :=
  let x := f.x
  let sz := fld x.mod 5 3
  let d := addrM f 0
  let n := szNames sz
  let ds := storeSrcs x n
  let a := (engAcc f 1 (if 5 ≤ fld x.mod 2 0 then 2 else 1) n).reads (d.srcs ++ ds)
  withPrep s a fun r =>
    let c := s.cohort r.id
    let scope := scopeFor s r c.priv (fld x.mod 9 6)
    let h : How := { space := 0, size := szBytes sz, kind := 1, home := decide (2 ≤ scope) }
    if releaseWait s r.ths scope then .stall s .drain
    else
      match checkAccess s r.id c.unit c.priv h (r.ths.map (d.lane s c)) (sameWay h) with
      | .trap code i => .trap code i
      | .stall s1 => .stall s1 .transition
      | .ok s1 xs =>
        .ok (plainIssue (xs.foldl (fun s2 (l, p) =>
          releaseWrote (storeLoc (release s2 c.unit scope c.priv) c.unit (ctxOfCohort s c) c.priv h
            (leBytes h.size (storeVal s c l.thread ds)) p) c.unit c.priv scope h.size p) s1) r a)

/-- The new value of an atomic (R357): m the old value, x the data, w the width in bits. -/
def atomNew (aop w m x : Nat) : Nat :=
  let si (v : Nat) : Int := toSigned w v
  match aop with
  | 0 => (m + x) % 2 ^ w
  | 1 => if si x < si m then x else m
  | 2 => if si m < si x then x else m
  | 3 => Nat.min m x
  | 4 => Nat.max m x
  | 5 => m &&& x
  | 6 => m ||| x
  | 7 => m ^^^ x
  | 8 => x
  | _ => F32.add 0 m x

/-- The bytes at a place, without an access. -/
def peekLoc (s : State) (n : Nat) : Loc → List Byte
  | .pa a _ => readPa s a n
  | .scratch u a => (s.core u).scratch.bytes a n
  | .win a _ v => readPa s a v ++ List.replicate (n - v) 0

/-- One read-modify-write (R357, R358): `new` answers what is written, none for a read only. Its order is that of R180,
R181 and R187. -/
def rmw (s : State) (unit ctx : Nat) (priv : Bool) (h : How) (scope ord : Nat) (p : Loc)
    (new : Nat → Option Nat) : Nat × State :=
  let global := match p with
    | .pa .. => true
    | _ => false
  let s1 := if global && decide (2 ≤ ord) then release s unit scope priv else s
  let s2 := if global && ord % 2 == 1 then acquireAt s1 unit priv scope h.size p else s1
  let m := leNat (peekLoc s2 h.size p)
  match new m with
  | none => (m, (loadLoc s2 unit ctx priv { h with kind := 0 } p).2)
  | some v =>
    let s3 := storeLoc s2 unit ctx priv h (leBytes h.size v) p
    (m, if global && decide (2 ≤ ord) then releaseWrote s3 unit priv scope h.size p else s3)

/-- The read-modify-writes of a word in ascending home-lane order: the old values. -/
def rmwAll (s : State) (unit ctx : Nat) (priv : Bool) (h : How) (scope ord : Nat) (new : Nat → Nat → Option Nat) :
    List (Lane × Loc) → List (Nat × Nat) × State
  | [] => ([], s)
  | (l, p) :: r =>
    let (m, s1) := rmw s unit ctx priv h scope ord p (new l.thread)
    let (ms, s2) := rmwAll s1 unit ctx priv h scope ord new r
    ((l.thread, m) :: ms, s2)

/-- An atomic word (R357), with a result or without. -/
def atomWord (f : ExtForm) (result : Bool) (s : State) : Out :=
  let x := f.x
  let n := if bitOf x.mod 1 then 2 else 1
  let d := addrMA f (4 * n)
  let data := opndSrc x.c (n == 2) (x.pbs == 3) (x.km1.toNat + 1)
  let dst := x.d.idx.toNat
  let a0 := (engAcc f 1 1 n).reads (d.srcs ++ [data])
  let a := if result then { a0 with wNames := (List.range n).map (dst + ·) } else a0
  withPrep s a fun r =>
    let c := s.cohort r.id
    let scope := scopeFor s r c.priv (fld x.mod 7 4)
    let ord := fld x.mod 3 2
    let h : How := { space := d.space, size := 4 * n, kind := 2, home := d.space == 0 && decide (2 ≤ scope) }
    if d.space == 0 && decide (2 ≤ ord) && releaseWait s r.ths scope then .stall s .drain
    else
      match checkAccess s r.id c.unit c.priv h (r.ths.map (d.lane s c)) (sameWay h) with
      | .trap code i => .trap code i
      | .stall s1 => .stall s1 .transition
      | .ok s1 xs =>
        let (ms, s2) := rmwAll s1 c.unit (ctxOfCohort s c) c.priv h scope ord
          (fun t m => some (atomNew (fld x.imm 15 12) (32 * n) m ((srcVal s c t data).toNat % 2 ^ (32 * n)))) xs
        if result then
          let (w, s3) := s2.newId
          .ok (commitPoint (commit s3 r a (loadPendsAt r w dst n (dueOf s s1 s2 c h xs) ms)) r.ths)
        else .ok (plainIssue s2 r a)

def execAtom (f : ExtForm) (s : State) : Out := atomWord f false s
/-- ATOMR (R357): a commit point. -/
def execAtomr (f : ExtForm) (s : State) : Out := atomWord f true s

/-- Which compare-and-swaps of a word write, in ascending home-lane order (R358). -/
def casWrites (n : Nat) (cmp new : Nat → Nat) (mem : List (Loc × Nat)) (s : State) : List (Lane × Loc) → List Bool
  | [] => []
  | (l, p) :: r =>
    -- the value as the word's earlier lanes leave it
    let m := ((mem.find? fun x => x.1 == p).map Prod.snd).getD (leNat (peekLoc s n p))
    let ok := m == cmp l.thread
    ok :: casWrites n cmp new (if ok then (p, new l.thread) :: mem else mem) s r

/-- CAS (R358): a commit point. -/
def execCas (f : ExtForm) (s : State) : Out :=
  let x := f.x
  let wide := bitOf x.mod 1
  let n := if wide then 2 else 1
  let k := x.km1.toNat + 1
  let ci := x.c.idx.toNat
  let d := addrMA f (4 * n)
  -- compare and new as two sources of 64 bits, or the halves of one
  let cs : List Src :=
    if x.c.kind then (if wide then [.ureg ci true, .ureg (ci + 1) true] else [.ureg ci true])
    else if wide then
      (if x.pbs == 3 then [.back ci k true, .back (ci + 2) k true] else [.name ci true, .name (ci + 2) true])
    else [opndSrc x.c true (x.pbs == 3) k]
  let dst := x.d.idx.toNat
  let pd := x.pd.toNat
  let a := { wideBack ((engAcc f 1 1 (2 * n)).reads (d.srcs ++ cs)) x (2 * n) with
    wNames := (List.range n).map (dst + ·), wPreds := if pd < 7 then [pd] else [] }
  withPrep s a fun r =>
    let c := s.cohort r.id
    let scope := scopeFor s r c.priv (fld x.mod 7 4)
    let ord := fld x.mod 3 2
    let h : How := { space := d.space, size := 4 * n, kind := 2, home := d.space == 0 && decide (2 ≤ scope) }
    let both (t : Nat) : Nat := storeVal s c t cs
    let cmp (t : Nat) : Nat := both t % 2 ^ (32 * n)
    let new (t : Nat) : Nat := both t / 2 ^ (32 * n) % 2 ^ (32 * n)
    if d.space == 0 && decide (2 ≤ ord) && releaseWait s r.ths scope then .stall s .drain
    else
      match checkAccess s r.id c.unit c.priv h (r.ths.map (d.lane s c)) (casWrites (4 * n) cmp new []) with
      | .trap code i => .trap code i
      | .stall s1 => .stall s1 .transition
      | .ok s1 xs =>
        let (ms, s2) := rmwAll s1 c.unit (ctxOfCohort s c) c.priv h scope ord
          (fun t m => if m == cmp t then some (new t) else none) xs
        let (w, s3) := s2.newId
        let due := dueOf s s1 s2 c h xs
        .ok (commitPoint (commit s3 r a (loadPendsAt r w dst n due ms ++ ms.flatMap fun (t, m) =>
          (predPends w true (due t) pd (m == cmp t)).map fun p => (t, p))) r.ths)

/-- FENCE (R359): a release and an acquire of each executing thread. -/
def execFence (f : ExtForm) (s : State) : Out :=
  let a := engAcc f 0 0 0
  withPrep s a fun r =>
    let c := s.cohort r.id
    let scope := scopeFor s r c.priv (fld f.x.mod 9 6)
    if releaseWait s r.ths scope then .stall s .drain
    else .ok (plainIssue (if r.ths.isEmpty then s else release s c.unit scope c.priv) r a)

/-- The directory as it was: PREF and TIERQ change no entry (R363, R364). -/
def keepDir (s s1 : State) : State := s1.modMem fun m => { m with dir := s.mem.dir }

/-- A thread's PREF (R363): dropped where the page faults or the block conflicts with another core. -/
def prefOne (s : State) (unit ctx : Nat) (priv l1 : Bool) (cp ea : Nat) : State :=
  match translate s (some unit) ctx ea false priv false with
  | (.ok _ pa leaf, s1) =>
    let s1 := keepDir s s1
    let n := pa / 4096
    let g := segAt s n
    if !priv && ((foreignPass s n unit).isSome || (!ownPass s n unit && raceAt g unit false)) then s1
    else
      let cp := policy leaf cp
      let s2 := touchL2 s1 pa ctx cp false
      if l1 && g.holders.any (fun h => h.1 == unit) && waysFor s ctx cp != 2 && !deadMiss s1 pa && !inL1 s2 unit pa then
        fillL1 s2 unit { block := pa / 256, ctx := ctx, dirty := false } (cp == 1)
      else s2
  | (.fault .., s1) => keepDir s s1

def execPref (f : ExtForm) (s : State) : Out :=
  let x := f.x
  let d := addrM f 0
  let a := (engAcc f 1 (if 5 ≤ fld x.mod 2 0 then 2 else 1) 0).reads d.srcs
  withPrep s a fun r =>
    let c := s.cohort r.id
    .ok (plainIssue (r.ths.foldl (fun s2 t =>
      prefOne s2 c.unit (ctxOfCohort s c) c.priv (fld x.mod 5 3 == 0) (fld x.mod 7 6) (d.lane s c t).ea) s) r a)

/-- TIERQ's result for an address (R364). -/
def tierWord (s : State) (unit ctx ea : Nat) : Nat × State :=
  match translate s (some unit) ctx ea false true true with
  | (.fault .., s1) => (0, keepDir s s1)
  | (.ok k pa leaf, s1) =>
    let kind := match k with
      | .gddr => 1
      | .tier => 2
      | .remote => 3
    let lines := if kind == 1 then (s.mem.l2.filter fun l => l.line / 16 == pa / 4096).length else 0
    (nfld leaf.toNat 6 6 * 2 ^ 17 + nfld leaf.toNat 1 1 * 2 ^ 16 + lines * 2 ^ 8 + kind, keepDir s s1)

/-- TIERQ of each of some threads. -/
def tierAll (s : State) (unit ctx : Nat) : List (Nat × Nat) → List (Nat × Nat) × State
  | [] => ([], s)
  | (t, ea) :: r =>
    let (v, s1) := tierWord s unit ctx ea
    let (l, s2) := tierAll s1 unit ctx r
    ((t, v) :: l, s2)

def execTierq (f : ExtForm) (s : State) : Out :=
  let x := f.x
  let d := addrM f 0
  let dst := x.d.idx.toNat
  let uni := x.d.kind
  let a := { (engAcc f 1 (if 5 ≤ fld x.mod 2 0 then 2 else 1) 0).reads d.srcs with
    wNames := if uni then [] else [dst], wUregs := if uni then [dst] else [], once := uni }
  withPrep s a fun r =>
    let c := s.cohort r.id
    let ths := if uni then (actingThread s r.ths).toList else r.ths
    let (vs, s1) := tierAll s c.unit (ctxOfCohort s c) (ths.map fun t => (t, (d.lane s c t).ea))
    let due (t : Nat) : Nat :=
      latest ((s1.sched.clk + 1) :: (laneWalk s { space := 0, size := 1, kind := 0 } c.unit (d.lane s c t)).map fun x => bankDue s1 x.1)
    let (w, s2) := s1.newId
    if uni then
      let s3 := plainIssue s2 r a
      .ok (match vs with
        | [] => s3
        | (t, v) :: _ => uregResultAt s3 r.id w dst (due t) (BitVec.ofNat 64 v))
    else .ok (commit s2 r a (loadPendsAt r w dst 1 due vs))

end Sys2Proof.Machine
end

