-- ==== Sys2Proof/Machine/Sync.lean ====
section
/-! DEFINITION. The team barrier (R360), bell lines (R361, R197, R198) and hall passes (R362, R190). -/

namespace Sys2Proof.Machine

section Barrier

/-- The threads of a list that are counted in the current generation of their team's barrier. -/
def alreadyCounted (s : State) (ths : List Nat) : List Nat :=
  ths.filter fun t => (s.team (s.thread t).team).counted.contains t

/-- The teams of threads. -/
def teamsOf (s : State) (ths : List Nat) : List Nat := distinct (ths.map fun t => (s.thread t).team)

/-- The waits of threads as they stand at issue: a thread without a record records the current generation, one whose
record is passed clears it (R360). -/
def barrierEnter (s : State) (ths : List Nat) : State :=
  ths.foldl (fun s t =>
    let gen := (s.team (s.thread t).team).barGen
    s.modThread t fun th => { th with barRec := match th.barRec with
      | none => some gen
      | some g => if g < gen then none else some g }) s

/-- Barrier arrival (KIND 0, 1). A BAR of a thread that its generation has counted already is a commit point at issue, before the next
generation counts it (log entry 83, DESIGN CHOICE). -/
def barrierWord (f : ExtForm) (wait : Bool) (s : State) : Out :=
  let a := engAcc f 0 0 0
  withPrep s a fun r =>
    let c := s.cohort r.id
    if r.ths.any fun t => releaseWait s [t] (teamScope s t) then .stall s .drain
    else
      let late := alreadyCounted s r.ths
      let now := without r.ths late
      let s1 := (commitPoint (plainIssue s r a) r.ths).modCohort r.id fun k =>
        { k with
          wait := if r.ths.isEmpty || (late.isEmpty && !wait) then .none else .barrier late wait r.ths
          waitSince := s.sched.clk }
      let s2 := now.foldl (fun s t => barArrive s c.unit c.priv t) s1
      .ok ((teamsOf s r.ths).foldl (fun s m => barrierCheck s m 3) s2)

def execBar (f : ExtForm) (s : State) : Out := barrierWord f true s
def execBarArrive (f : ExtForm) (s : State) : Out := barrierWord f false s

/-- `bar.wait` (R360). -/
def execBarWait (f : ExtForm) (s : State) : Out :=
  let a := engAcc f 0 0 0
  withPrep s a fun r =>
    let s1 := barrierEnter (plainIssue s r a) r.ths
    let rest := r.ths.filter fun t => (s1.thread t).barRec.isSome
    .ok (s1.modCohort r.id fun k =>
      { k with wait := if rest.isEmpty then .none else .barrier [] true rest, waitSince := s.sched.clk })

end Barrier

section Bells

/-- The line that a BELL word names. -/
def bellLine (s : State) (id : Nat) (f : ExtForm) : Nat :=
  if bitOf f.x.mod 2 then ((s.cohort id).readUreg f.x.a.idx.toNat).toNat % 64 else fld f.x.imm 5 0

/-- A bell line. -/
def bellAt (s : State) (line : Nat) : Bell := (alookup s.mem.bells line).getD {}

/-- The generation that a wait which begins now sees: no later than the line's own, which BL.GEN and its 32 bits may set back
(R197, R198, R313). -/
def Bell.seen (b : Bell) : Nat := Nat.min b.opened b.gen.toNat

/-- Sets a bell line. -/
def setBell (s : State) (line : Nat) (b : Bell) : State := s.modMem fun m => { m with bells := ainsert m.bells line b }

/-- One thread's arrival (R197): its release at DEVICE, its record, its count; the last one of a generation has the
waiters released 96 cycles later (R198). -/
def bellArriveOne (s : State) (unit line : Nat) (priv : Bool) (t : Nat) : State :=
  let s1 := release s unit 4 priv
  let b := bellAt s1 line
  let s2 := s1.modThread t fun th => { th with bells := ainsert th.bells line b.gen.toNat }
  if b.count + 1 < b.target.toNat then setBell s2 line { b with count := b.count + 1 }
  else
    setBell s2 line { b with
      count := 0, gen := b.gen + 1, releasing := b.releasing ++ [{ gen := (b.gen + 1).toNat, due := s.sched.clk + 96 }] }

/-- What every BELL word reads. -/
def bellAcc (f : ExtForm) : Acc :=
  { engAcc f 0 0 0 with uregs := if bitOf f.x.mod 2 then [f.x.a.idx.toNat] else [] }

/-- A BELL word of an enabled line; a disabled one traps ILLEGAL_FIELD (R197, R361). -/
def bellWord (f : ExtForm) (a : Acc) (s : State) (g : Ready → Nat → Eff) : Out :=
  withPrep s a fun r =>
    let line := bellLine s r.id f
    if r.ths.isEmpty then .ok (plainIssue s r a)
    else if (bellAt s line).target == 0 then .trap .illegalField (wordInfo (fetch s (s.cohort r.id)))
    else g r line

/-- The waits of threads on a line: those that are not yet released (R361). -/
def bellEnter (s : State) (id line : Nat) (ths : List Nat) : State :=
  let b := bellAt s line
  let s1 := ths.foldl (fun s t => s.modThread t fun th =>
    { th with bells := match alookup th.bells line with
      | none => ainsert th.bells line b.gen.toNat
      | some _ => th.bells }) s
  let s2 := s1.modCohort id fun k => { k with wait := .bell line ths, waitSince := s.sched.clk }
  bellCohort s2 line b.seen id

/-- `bell` (KIND 0): arrives and waits. -/
def execBell (f : ExtForm) (s : State) : Out :=
  let a := bellAcc f
  bellWord f a s fun r line =>
    let c := s.cohort r.id
    if releaseWait s r.ths 4 then .stall s .drain else
    let s1 := r.ths.foldl (fun s t => bellArriveOne s c.unit line c.priv t) (commitPoint (plainIssue s r a) r.ths)
    .ok (bellEnter s1 r.id line r.ths)

/-- `bell.arrive` (KIND 1). -/
def execBellArrive (f : ExtForm) (s : State) : Out :=
  let a := bellAcc f
  bellWord f a s fun r line =>
    let c := s.cohort r.id
    if releaseWait s r.ths 4 then .stall s .drain else
    .ok (r.ths.foldl (fun s t => bellArriveOne s c.unit line c.priv t) (commitPoint (plainIssue s r a) r.ths))

/-- `bell.wait` (KIND 2). -/
def execBellWait (f : ExtForm) (s : State) : Out :=
  let a := bellAcc f
  bellWord f a s fun r line => .ok (bellEnter (plainIssue s r a) r.id line r.ths)

/-- `bell.test` (KIND 3): whether the generation exceeds each thread's record. -/
def execBellTest (f : ExtForm) (s : State) : Out :=
  let pd := f.x.pd.toNat
  let a := { bellAcc f with wPreds := if pd < 7 then [pd] else [] }
  bellWord f a s fun r line =>
    let gen := (bellAt s line).gen.toNat
    let passed (t : Nat) : Bool := decide ((alookup (s.thread t).bells line).getD gen < gen)
    let (w, s1) := s.newId
    let s2 := r.ths.foldl (fun s t => s.modThread t fun th =>
      { th with bells := if passed t then aerase th.bells line
                         else ainsert th.bells line ((alookup th.bells line).getD gen) }) s1
    .ok (commit s2 r a (r.ths.flatMap fun t => (predPends w true (s.sched.clk + 1) pd (passed t)).map fun p => (t, p)))

/-- BELL_RELEASE (R198): the waiters of line a whose cycle has come. -/
def execBellRelease (s : State) : Out := .next (bellRelease s s.sched.arg.a)

end Bells

section Passes

/-- The pass that a word names. -/
def passNo (s : State) (id : Nat) (f : ExtForm) : Nat :=
  if bitOf f.x.mod 0 then ((s.cohort id).readUreg f.x.a.idx.toNat).toNat % 1024 else fld f.x.imm 9 0

/-- Adds holds of a team on a core. -/
def addHolds (s : State) (team n unit k : Nat) : State :=
  s.modTeam team fun x =>
    let h := ((x.holds.find? fun y => y.1 == n && y.2.1 == unit).map (·.2.2)).getD 0
    { x with holds := (n, unit, h + k) :: x.holds.filter fun y => !(y.1 == n && y.2.1 == unit) }

/-- A team has a hold of a pass on a core. -/
def hasHold (s : State) (n unit team : Nat) : Bool :=
  (s.team team).holds.any fun y => y.1 == n && y.2.1 == unit && y.2.2 != 0

/-- Takes one hold off a team: the releasing thread's own, or another's of the core when its own has none. -/
def dropHold (s : State) (team n unit : Nat) : State :=
  let who := if hasHold s n unit team then some team
    else (s.work.teams.map Prod.fst).find? (hasHold s n unit)
  match who with
  | none => s
  | some m => s.modTeam m fun x => { x with holds := (x.holds.map fun (a, b, k) =>
      if a == n && b == unit then (a, b, k - 1) else (a, b, k)).filter fun y => y.2.2 != 0 }

/-- The threads' holds once the core holds the pass (R362): the hold count and each thread's team. -/
def takeHolds (s : State) (n unit : Nat) (p : HallPass) (ths : List Nat) : State :=
  let s1 := s.modMem fun m => { m with passes := ainsert m.passes n { p with holder := some unit, count := p.count + ths.length } }
  ths.foldl (fun s t => addHolds s (s.thread t).team n unit 1) s1

/-- The pass passes to a core that waits for nobody: every other holder of its segments is invalidated (R190). -/
def grantPass (s : State) (n unit : Nat) (p : HallPass) : State :=
  passOn (s.modMem fun m => { m with passes := ainsert m.passes n { p with queue := unit :: p.queue } }) n

/-- What every pass word reads. -/
def passAcc (f : ExtForm) : Acc :=
  { engAcc f 0 0 0 with uregs := if bitOf f.x.mod 0 then [f.x.a.idx.toNat] else [] }

/-- A pass word; an unregistered pass traps SPACE_BOUND before any thread acts (R362). -/
def passWord (f : ExtForm) (a : Acc) (s : State) (g : Ready → Nat → HallPass → Eff) : Out :=
  withPrep s a fun r =>
    let n := passNo s r.id f
    if r.ths.isEmpty then .ok (plainIssue s r a)
    else
      match alookup s.mem.passes n with
      | some p => if p.valid then g r n p else .trap .spaceBound { thread := r.ths.head? }
      | none => .trap .spaceBound { thread := r.ths.head? }

/-- REGACQ (R190, R362): a commit point. -/
def execRegacq (f : ExtForm) (s : State) : Out :=
  let a := passAcc f
  passWord f a s fun r n p =>
    let u := (s.cohort r.id).unit
    if p.holder == some u then .ok (commitPoint (plainIssue (takeHolds s n u p r.ths) r a) r.ths)
    else if p.holder.isNone && p.queue.isEmpty then
      let s1 := grantPass s n u p
      .ok (commitPoint (plainIssue (takeHolds s1 n u ((alookup s1.mem.passes n).getD p) r.ths) r a) r.ths)
    else if p.queue.contains u then .stall s (.hallPass n)
    else .stall (s.modMem fun m => { m with passes := ainsert m.passes n { p with queue := p.queue ++ [u] } }) (.hallPass n)

/-- The predicate results of a word, one for each thread. -/
def boolPends (s : State) (w pd : Nat) (l : List (Nat × Bool)) : List (Nat × Pend) :=
  l.flatMap fun (t, v) => (predPends w true (s.sched.clk + 1) pd v).map fun p => (t, p)

/-- REGTRY (R190, R362): a commit point. It fails when another core holds the pass, and when cores wait for it. -/
def execRegtry (f : ExtForm) (s : State) : Out :=
  let pd := f.x.pd.toNat
  let a := { passAcc f with wPreds := if pd < 7 then [pd] else [] }
  passWord f a s fun r n p =>
    let u := (s.cohort r.id).unit
    let free := p.holder.isNone && p.queue.isEmpty
    let ok := p.queue.isEmpty && (p.holder == some u || free)
    let s1 := if free then grantPass s n u p else s
    let s2 := if ok then takeHolds s1 n u ((alookup s1.mem.passes n).getD p) r.ths else s1
    let (w, s3) := s2.newId
    .ok (commitPoint (commit s3 r a (boolPends s w pd (r.ths.map fun t => (t, ok)))) r.ths)

/-- The releases of a word's threads in ascending home-lane order, with each one's outcome. -/
def relAll (s : State) (n unit : Nat) : List Nat → List (Nat × Bool) × State
  | [] => ([], s)
  | t :: r =>
    let ok := match alookup s.mem.passes n with
      | some p => p.holder == some unit && p.count != 0
      | none => false
    let s1 := if ok then dropHold (relHolds s n unit 1) (s.thread t).team n unit else s
    let (l, s2) := relAll s1 n unit r
    ((t, ok) :: l, s2)

/-- REGREL (R190, R362): a commit point. -/
def execRegrel (f : ExtForm) (s : State) : Out :=
  let pd := f.x.pd.toNat
  let a := { passAcc f with wPreds := if pd < 7 then [pd] else [] }
  passWord f a s fun r n p =>
    if p.holder == some (s.cohort r.id).unit && releaseWait s r.ths 4 then .stall s .drain else
    let (l, s1) := relAll s n (s.cohort r.id).unit r.ths
    let (w, s2) := s1.newId
    .ok (commitPoint (commit s2 r a (boolPends s w pd l)) r.ths)

/-- A cohort that no longer waits leaves the pass queue, unless another cohort of its core waits for the pass too;
a pass that had just passed to the core passes on (R377). -/
def withdrawPass (s : State) (id : Nat) : State :=
  let c := s.cohort id
  match c.wait with
  | .stall (.hallPass n) _ =>
    let other := s.work.cohorts.any fun (i, k) => i != id && k.unit == c.unit &&
      (match k.wait with
       | .stall (.hallPass m) _ => m == n
       | _ => false)
    if other then s
    else
      match alookup s.mem.passes n with
      | none => s
      | some p =>
        let s1 := s.modMem fun m => { m with passes := ainsert m.passes n { p with queue := p.queue.filter (· != c.unit) } }
        if p.holder == some c.unit && p.count == 0 then passOn s1 n else s1
  | _ => s

end Passes

end Sys2Proof.Machine
end

