-- ==== Sys2Proof/Machine/Kill.lean ====
section
/-! DEFINITION. Ending threads, teams and plans from outside (R309): by CKILL, by a failed entry overlay (R35), by a
column fence (R420). -/

namespace Sys2Proof.Machine

/-- A thread still runs, waits or is filed. -/
def Thread.alive (t : Thread) : Bool :=
  match t.place with
  | .exited | .lost => false
  | _ => true

/-- Takes threads out of a cohort: out of its groups and its waits; the next pending group goes on when the active one is
gone. -/
def detachCohort (ths : List Nat) (s : State) (id : Nat) : State :=
  let c := s.cohort id
  if !(c.active ++ c.groups.flatMap Group.threads).any ths.contains then s
  else
    let s1 := s.modCohort id fun c => { c with
      active := without c.active ths
      groups := (c.groups.map fun g => { g with threads := without g.threads ths }).filter fun g => !g.threads.isEmpty
      wait := match c.wait with
        | .barrier late w l => .barrier (without late ths) w (without l ths)
        | .bell n l => .bell n (without l ths)
        | .stall r t => .stall (r.only fun t => !ths.contains t) t
        | w => w }
    if (s1.cohort id).active.isEmpty then nextGroup (withdrawPass s1 id) id
    else
      match (s1.cohort id).wait with
      | .barrier .. => barrierCohort s1 0 id
      | .bell n _ => bellCohort s1 n 0 id
      | _ => s1

/-- Takes threads out of a unit's bins. -/
def detachBins (ths : List Nat) (s : State) (unit : Nat) : State :=
  s.modCore unit fun k => { k with
    bins := (k.bins.map fun (n, b) => (n, { b with threads := b.threads.filter fun f => !ths.contains f.thread })).filter
      fun x => !x.2.threads.isEmpty }

/-- Takes threads out of wherever they are. -/
def detach (s : State) (ths : List Nat) : State :=
  let s1 := (s.work.cohorts.map Prod.fst).foldl (detachCohort ths) s
  let s2 := (distinct (ths.map fun t => (s.thread t).unit)).foldl (detachBins ths) s1
  (distinct (ths.map fun t => (s.thread t).lcoh)).foldl (fun s l => s.modLcoh l fun x =>
    if x.threads.all ths.contains then { x with waiting := none } else x) s2

/-- Ends threads wherever they are: their outstanding register writes are discarded, then steps 2 to 4 of R290 (R309). -/
def killThreads (s : State) (ths : List Nat) : State :=
  let live := ths.filter fun t => (s.thread t).alive
  let s1 := live.foldl (fun s t => s.modThread t fun th => { th with writes := [] }) (detach s live)
  endThreads s1 live

/-- Forgets what would have been replayed for teams that resumed. -/
def dropReplays (s : State) (teams : List Nat) : State :=
  s.modMem fun m => { m with
    copies := m.copies.filter fun c => !(c.squashed && teams.contains c.team)
    stages := m.stages.filter fun c => !(c.squashed && teams.contains c.team) }

/-- Ends every thread of a team (R309). -/
def killTeam (s : State) (team : Nat) : State :=
  preemptNote (dropReplays (killThreads s (s.team team).threads) [team]) team false

/-- Takes a plan out of its launch queue. -/
def leaveQueue (s : State) (plan : Nat) : State :=
  { s with work := { s.work with queues := s.work.queues.map fun (q, l) => (q, l.filter (· != plan)) } }

/-- What the draw pipeline holds of a plan is gone. -/
def dropDraw (s : State) (plan : Nat) : State :=
  { s with
    draw := { s.draw with
      quads := s.draw.quads.filter fun q => q.plan != plan
      bcasts := s.draw.bcasts.filter fun b => b.plan != plan
      cursors := s.draw.cursors.filter fun c => c.plan != plan
      closed := s.draw.closed.filter fun c => c.1 != plan
      ended := s.draw.ended.filter (· != plan) }
    cores := s.cores.map fun (u, k) => (u, { k with closed := k.closed.filter fun m => m.plan != plan }) }

/-- Ends a plan (R309, SCOPE 2): every thread of every launch; its unplaced teams, queue records and unplaced consumer
launches are discarded; one event is recorded. -/
def killPlan (s : State) (plan arg1 : Nat) : State :=
  let p := s.plan plan
  let mine (l : Nat) : Bool := (s.launch l).plan == plan
  let s1 := (leaveQueue s plan).modPlan plan fun p => { p with killed := true, left := true, assign := [], owed := [] }
  let s2 := killThreads s1 ((s.work.threads.filter fun (_, t) => mine t.launch).map Prod.fst)
  let teams := (s.work.teams.filter fun (_, t) => mine t.launch).map Prod.fst
  let s3 := teams.foldl (fun s t => preemptNote s t false) (dropReplays s2 teams)
  let s4 : State := { s3 with
    work := { s3.work with
      launches := s3.work.launches.map fun (i, l) =>
        (i, if l.plan == plan then { l with claim := [], taken := [], ring := none, again := [], quads := [] } else l)
      rings := s3.work.rings.filter fun (_, r) => r.plan != plan
      released := s3.work.released.filter fun r => r.1 != plan
      returned := s3.work.returned.filter fun r => r.1 != plan } }
  let s5 := if p.draw then dropDraw s4 plan
    else p.stages.foldl (fun s g =>
      let (id, s1) := s.newId
      discardQueue s1 (.act id (.discard p.ctx g.queue)) p.ctx g.queue) s4
  let s6 : State := { s5 with
    cores := s5.cores.map fun (u, k) =>
      (u, { k with loads := k.loads.map fun l => { l with disp := l.disp.filter fun d => d.1 != plan } }) }
  logEvent s6 0x0200 0x0003 p.ctx (BitVec.ofNat 64 p.addr) (BitVec.ofNat 64 arg1)

/-- Rejects a plan with a reason (R28): it leaves its launch queue, and none of its threads runs. -/
def rejectPlan (s : State) (plan arg1 : Nat) : State :=
  let p := s.plan plan
  logEvent ((leaveQueue s plan).modPlan plan fun p => { p with left := true, killed := true, done := true })
    0x0200 0x0001 p.ctx (BitVec.ofNat 64 p.addr) (BitVec.ofNat 64 arg1)

end Sys2Proof.Machine
end

