-- ==== Sys2Proof/Machine/Surfaces.lean ====
section
/-! DEFINITION. Surface space: bound entries and formats (R153, R154), homes and frames (R155, R156), the states of a
tile (R157, R158), binding (R159), what the surface words share (R388), and STINFO (R392). -/

namespace Sys2Proof.Machine

section Formats

/-- Bytes per pixel (R154). -/
def bpp (fmt : Nat) : Nat := if fmt == 2 then 16 else if fmt == 0 || fmt == 4 || fmt == 6 then 8 else 4

/-- Bytes of a tile (R154). -/
def tileLen (fmt : Nat) : Nat := 64 * bpp fmt

/-- Colour or depth channels of a format (R154); a VB64 pixel has none. -/
def channels (fmt : Nat) : Nat := if fmt == 1 || fmt == 5 then 1 else if fmt == 6 then 0 else 4

/-- Bytes of a channel. -/
def chanBytes (fmt : Nat) : Nat := if fmt == 3 then 1 else if fmt == 0 || fmt == 4 then 2 else 4

/-- M of a normalised format, 0 for a float format (R108). -/
def normMax (fmt : Nat) : Nat := if fmt == 3 then 255 else if fmt == 4 then 65535 else 0

/-- The bits of a channel of a pixel. -/
def chanBits (fmt c : Nat) (px : List Byte) : Nat := leNat ((px.drop (c * chanBytes fmt)).take (chanBytes fmt))

/-- A channel's bits as an F32 value: exact, or RNE(e / M) (R129, R227, R389). -/
def chanF32 (fmt bits : Nat) : Nat :=
  if normMax fmt != 0 then normToF32 bits (normMax fmt)
  else if fmt == 0 then F32.round 0 (F16.val bits)
  else bits

/-- An F32 value as the bits of a channel: the format rule of R227. -/
def chanOfF32 (fmt v : Nat) : Nat :=
  if normMax fmt != 0 then f32ToNorm (normMax fmt) v
  else if fmt == 0 then F16.round 0 (F32.val v)
  else v

/-- Replaces a channel's bytes in a pixel. -/
def setChan (fmt c v : Nat) (px : List Byte) : List Byte :=
  let n := chanBytes fmt
  px.take (c * n) ++ leBytes n v ++ px.drop (c * n + n)

/-- The four F32 channels that SLD and the sampler read (R237, R389). -/
def pixelF32 (fmt : Nat) (px : List Byte) : List Nat :=
  if channels fmt == 4 then (List.range 4).map fun c => chanF32 fmt (chanBits fmt c px)
  else [chanF32 fmt (chanBits fmt 0 px), 0, 0, 0x3F800000]

end Formats

section Slots

/-- The bound entry of a slot of a context with surface steps; none where it is empty (R153, R155). -/
def boundSte (s : State) (ctx slot : Nat) : Option Ste :=
  match alookup s.surf.bound (256 * ctx + slot) with
  | some e => if e.nl == 0 || (ctxOf s ctx).steps == 0 then none else some e
  | none => none

/-- The bound entry of a slot that has a level. -/
def surfSte (s : State) (ctx slot level : Nat) : Option Ste :=
  match boundSte s ctx slot with
  | some e => if level < e.nl then some e else none
  | none => none

/-- Changes a bound entry. -/
def modSte (s : State) (ctx slot : Nat) (f : Ste → Ste) : State :=
  { s with surf := { s.surf with bound := amodify s.surf.bound (256 * ctx + slot) f } }

/-- Width and height of a level (R154). -/
def Ste.width (e : Ste) (l : Nat) : Nat := Nat.max 1 ((e.wm1 + 1) >>> l)
def Ste.height (e : Ste) (l : Nat) : Nat := Nat.max 1 ((e.hm1 + 1) >>> l)

/-- Tiles of a level across and down. -/
def Ste.tilesX (e : Ste) (l : Nat) : Nat := (e.width l + 7) / 8
def Ste.tilesY (e : Ste) (l : Nat) : Nat := (e.height l + 7) / 8

/-- A tile's index in level-major, row-major order (R156). -/
def Ste.tileIndex (e : Ste) (k : TileKey) : Nat :=
  (List.range k.level).foldl (fun n l => n + e.tilesX l * e.tilesY l) 0 + k.ty * e.tilesX k.level + k.tx

/-- Every tile of a slot. -/
def Ste.allTiles (e : Ste) (ctx slot : Nat) : List TileKey :=
  (List.range e.nl).flatMap fun l => (List.range (e.tilesY l)).flatMap fun ty =>
    (List.range (e.tilesX l)).map fun tx => ⟨ctx, slot, l, tx, ty⟩

/-- The pixel lies in the level. -/
def Ste.inside (e : Ste) (l x y : Nat) : Bool := decide (x < e.width l) && decide (y < e.height l)

/-- The tile of a pixel, and the pixel's offset in it (R154). -/
def tileAt (ctx slot level x y : Nat) : TileKey := ⟨ctx, slot, level, x / 8, y / 8⟩
def pixelOff (fmt x y : Nat) : Nat := (8 * (y % 8) + x % 8) * bpp fmt

end Slots

section Tiles

/-- The home column of a tile (R155). -/
def homeColumn (s : State) (k : TileKey) : Nat :=
  let stack := (k.tx + k.ty) % 2
  128 * stack + unfencedColumn s stack ((k.tx + 8 * k.ty + 17 * k.slot + 7 * k.level) % 128) 128

/-- The bank of a tile: its column and its number in the column (R147, R155). -/
def bankOf (s : State) (k : TileKey) : Nat × Nat :=
  let nb := 32 * (ctxOf s k.ctx).steps.toNat
  let first := 255 - 32 * (List.range k.ctx).foldl (fun n c => n + (ctxOf s c).steps.toNat) 0
  (homeColumn s k, first - (k.tx / 128 + 5 * (k.ty / 16) + k.slot + k.level) % nb)

/-- A tile; one that has not been touched since its slot was bound is spilled: blank, or raw in its spill slot (R157). -/
def tileOf (s : State) (k : TileKey) : Tile :=
  (s.surf.tiles.find? fun t => t.key == k).getD
    (match alookup s.surf.bound (256 * k.ctx + k.slot) with
     | some e => { key := k, st := .spilled, blank := !e.load, current := e.load,
                   bytes := List.replicate (tileLen e.fmt) 0 }
     | none => { key := k, st := .spilled, blank := true, bytes := [] })

/-- Sets a tile where it stands in the order of use. -/
def setTile (s : State) (t : Tile) : State :=
  let l := s.surf.tiles
  let l' := if l.any fun x => x.key == t.key then l.map fun x => if x.key == t.key then t else x else l ++ [t]
  { s with surf := { s.surf with tiles := l' } }

/-- Sets a tile and marks it most recently used (R157). -/
def useTile (s : State) (t : Tile) : State :=
  let (col, bank) := bankOf s t.key
  let s1 := touchDomain s col (bank / 64)
  { s1 with surf := { s1.surf with tiles := (s1.surf.tiles.filter fun x => x.key != t.key) ++ [t] } }

/-- The power domain of a tile's bank is in retention or waking (R171). -/
def asleep (s : State) (k : TileKey) : Bool := domainAsleep s (bankOf s k).1 ((bankOf s k).2 / 64)

/-- An access begins to wake the power domain of a tile's bank (R171). -/
def wakeTile (s : State) (k : TileKey) : State := wakeDomain s (bankOf s k).1 ((bankOf s k).2 / 64)

/-- Bytes of a bank's 128 KiB that frames take (R156); with `all` those being spilled too. -/
def framesHeld (s : State) (k : TileKey) (all : Bool) : Nat :=
  s.surf.tiles.foldl (fun n t =>
    if t.st != .spilled && (all || t.st != .spilling) && t.key.ctx == k.ctx && bankOf s t.key == bankOf s k then
      n + t.bytes.length else n) 0

/-- A frame is free for a tile. -/
def frameFree (s : State) (k : TileKey) (all : Bool) : Bool :=
  decide (framesHeld s k all + (tileOf s k).bytes.length ≤ 131072)

/-- A tile is wanted: a spilled one gets a frame and its fill begins, or its fill waits for a frame (R157, R158). -/
def wantTile (s0 : State) (k : TileKey) : State :=
  let s := wakeTile s0 k
  let t := tileOf s k
  if t.st == .spilled then
    if frameFree s k true then setTile s { t with st := .filling, wants := false }
    else setTile s { t with wants := true }
  else s

/-- The tiles of a list that are not resident, or whose power domain is not awake. -/
def notResident (s : State) (ks : List TileKey) : List TileKey :=
  ks.eraseDups.filter fun k => (tileOf s k).st != .resident || asleep s k

/-- Asks for every tile of a list. -/
def wantTiles (s : State) (ks : List TileKey) : State := ks.foldl wantTile s

/-- A request that waits for tiles still does: a surface access, a copy or a completed quad. -/
def tokenLive (s : State) (id : Nat) : Bool :=
  (s.surf.reqs.any fun q => q.id == id) || (s.mem.copies.any fun c => c.id == id && !c.squashed) ||
    s.draw.quads.any fun q => q.id == id && q.phase == 3

/-- A request that came before another one waits for one of its tiles (R157). -/
def blockedTiles (s : State) (id : Nat) (ks : List TileKey) : Bool :=
  (s.surf.order.takeWhile fun x => x.1 != id).any fun x => x.2.any ks.contains && tokenLive s x.1

/-- A request can be served now: its tiles are resident and awake, and its turn has come (R157, R171). -/
def servable (s : State) (id : Nat) (ks : List TileKey) : Bool := (notResident s ks).isEmpty && !blockedTiles s id ks

/-- A request joins those that wait for its tiles, which it asks for. -/
def enqueueTiles (s : State) (id : Nat) (ks : List TileKey) : State :=
  let l := s.surf.order
  let l1 := if l.any fun x => x.1 == id then l.map fun x => if x.1 == id then (id, ks) else x else l ++ [(id, ks)]
  wantTiles { s with surf := { s.surf with order := l1 } } ks

/-- A request has been served. -/
def dequeueTiles (s : State) (id : Nat) : State :=
  { s with surf := { s.surf with order := s.surf.order.filter fun x => x.1 != id } }

/-- The operation reads the paired slot (R232). -/
def bankPaired (op : Nat) : Bool := op == 2 || op == 3

/-- The paired slot, slot XOR 128 (R232). -/
def pairedSlot (slot : Nat) : Nat := (slot + 128) % 256

/-- The tiles that a job needs resident: its own, and its paired one (R231, R232). -/
def jobTiles (j : Job) : List TileKey :=
  if bankPaired j.op then [j.tile, { j.tile with slot := pairedSlot j.tile.slot }] else [j.tile]

/-- A tile has a waiting request, a BANKOP in progress, or a fragment in a reorder buffer (R158). -/
def tileBusy (s : State) (k : TileKey) : Bool :=
  (s.surf.order.any fun x => x.2.contains k && tokenLive s x.1) ||
  (s.surf.jobs.any fun j => j.running && !j.suspended && (jobTiles j).contains k) ||
  (s.draw.quads.any fun q => q.tile == k && q.phase == 3)

/-- The tile's damage: its slot reports it and an event is recorded (R158, R432). -/
def damage (s : State) (k : TileKey) : State :=
  let i := ((alookup s.surf.bound (256 * k.ctx + k.slot)).map fun e => e.tileIndex k).getD 0
  logEvent (modSte s k.ctx k.slot fun e => { e with damage := true }) (homeColumn s k) 0x0021 k.ctx
    (BitVec.ofNat 64 k.slot) (BitVec.ofNat 64 i)

/-- The address of a tile's spill slot (R156). -/
def spillVa (s : State) (k : TileKey) : Nat :=
  ((alookup s.surf.bound (256 * k.ctx + k.slot)).map fun e => e.spill + e.tileIndex k * tileLen e.fmt).getD 0

/-- The physical address of a spill slot, which no page boundary cuts, and its page's cache policy (R151, R153, R156). -/
def spillPa (s : State) (k : TileKey) (write : Bool) : Option (Nat × Nat) × State :=
  match translate s none k.ctx (spillVa s k) write false false with
  | (.ok _ a leaf, s1) => (some (a, policy leaf 0), s1)
  | (.fault .., s1) => (none, s1)

/-- The bytes of a tile with its poisoned blocks read as zeros (R431); they are kept so. -/
def Tile.content (t : Tile) : List Byte := t.bytes

/-- Zeros the 64-byte blocks of bytes that a list names. -/
def zeroBlocks (bs : List Byte) (blocks : List Nat) : List Byte :=
  bs.zipIdx.map fun (b, i) => if blocks.contains (i / 64) then 0 else b

/-- The blocks of a tile. -/
def Tile.blocks (t : Tile) : List Nat := List.range (t.bytes.length / 64)

/-- Writes a tile to its spill slot, raw when asked for or when the private form is not shorter (R156). The blocks that a list
names fail, all of them where the slot cannot be reached: they are zeros, and the tile goes on as if the transfer had
succeeded (R158). -/
def spillTile (s : State) (t : Tile) (forceRaw : Bool) (failed : List Nat) : State :=
  let (pa, s1) := spillPa s t.key true
  let lost := if pa.isSome then failed else t.blocks
  let s2 := if lost.isEmpty then s1 else damage s1 t.key
  let t1 := { t with bytes := zeroBlocks t.content lost }
  let packed := Config.compress t1.content
  let raw := forceRaw || decide (t1.bytes.length ≤ packed.length)
  let done (s : State) : State :=
    setTile s { t1 with st := .spilled, dirty := false, blank := pa.isNone, current := pa.isSome, raw := raw, poison := [] }
  match pa with
  | some (a, cp) => done (homePut s2 a t.key.ctx cp (if raw then t1.content else packed))
  | none => done s2

/-- Free bytes (log entry 2). -/
def freeBytes (s : State) : Nat → List Byte × State
  | 0 => ([], s)
  | n + 1 =>
    let (v, s1) := s.free 256
    let (l, s2) := freeBytes s1 n
    (BitVec.ofNat 8 v :: l, s2)

/-- A tile's spill slot is to be read or written: whether that is done now, and the state in which it is, or waits (R171, R178). -/
def admitTile (s : State) (t : Tile) : Bool × State :=
  admitRanges s (.tile t.key) t.key.ctx [(spillVa s t.key, t.bytes.length)]

/-- What a fill brings: the tile's bytes, and whether a block was poisoned or unreadable (R157, R158). -/
def fillBytes (s : State) (t : Tile) : List Byte × Bool × State :=
  let n := t.bytes.length
  let zeros := List.replicate n (0 : Byte)
  if t.blank then (zeros, false, s)
  else
    match spillPa s t.key false with
    | (none, s1) => (zeros, true, s1)
    | (some (a, cp), s1) =>
      let s2 := homeAccess s1 a n t.key.ctx cp false
      let bad := s2.mem.poison.any fun b => decide (a / 64 ≤ b) && decide (b ≤ (a + n - 1) / 64)
      if t.raw then (readPa s2 a n, bad, s2)
      else
        let packed := Config.compress t.content
        if bad then (zeros, true, s2)
        else if readPa s2 a packed.length == packed then (t.content, false, s2)
        else
          let (bs, s3) := freeBytes s2 n
          (bs, false, s3)

end Tiles

section Pixels

/-- The bytes of a pixel of a resident tile. -/
def pixelAt (s : State) (e : Ste) (ctx slot level x y : Nat) : List Byte :=
  if e.inside level x y then
    ((tileOf s (tileAt ctx slot level x y)).content.drop (pixelOff e.fmt x y)).take (bpp e.fmt)
  else List.replicate (bpp e.fmt) 0

/-- Writes bytes of a resident tile: it is dirty, its spill slot out of date, and a poisoned block written is sound
again (R157, R431). -/
def writeTile (s : State) (k : TileKey) (off : Nat) (bs : List Byte) : State :=
  let t := tileOf s k
  useTile s { t with
    dirty := true
    current := false
    bytes := t.bytes.take off ++ bs ++ t.bytes.drop (off + bs.length)
    poison := t.poison.filter fun b => decide (b < off / 64) || decide ((off + bs.length - 1) / 64 < b) }

/-- Writes a pixel of a resident tile; one outside the level is not written (R140). -/
def writePixel (s : State) (e : Ste) (ctx slot level x y : Nat) (px : List Byte) : State :=
  if e.inside level x y then writeTile s (tileAt ctx slot level x y) (pixelOff e.fmt x y) px else s

/-- A resident tile is read: it is the most recently used one (R157). -/
def readTiles (s : State) (ks : List TileKey) : State := ks.foldl (fun s k => useTile s (tileOf s k)) s

end Pixels

section Binding

/-- Entries of a surface table: 32 bytes to a slot, DAMAGE cleared (R153). -/
def steBytes (table : List Byte) (slot : Nat) : List Byte :=
  let b := (table.drop (32 * slot)).take 32
  b.take 7 ++ [(b.getD 7 0) &&& 0xBF] ++ b.drop 8

/-- An entry's fields; none where it is not valid or a field is invalid (R153). -/
def parseSte (b : List Byte) : Option Ste :=
  let d0 := dwordAt b 0
  let d1 := dwordAt b 8
  let d2 := dwordAt b 16
  if nfld d0 63 63 == 0 || decide (1 < nfld d0 61 60) || nfld d0 58 56 != 0 || decide (6 < nfld d0 55 52) ||
      nfld d0 47 0 != 0 || nfld d1 31 0 != 0 || nfld d2 63 52 != 0 || nfld d2 11 0 != 0 || dwordAt b 24 != 0 then none
  else some { load := nfld d0 61 60 == 1, keep := nfld d0 59 59 == 1, fmt := nfld d0 55 52, nl := nfld d0 51 48 + 1,
              wm1 := nfld d1 63 48, hm1 := nfld d1 47 32, spill := nfld d2 51 0, raw := b }

/-- An empty slot. -/
def emptySte (b : List Byte) : Ste :=
  { load := false, keep := false, fmt := 0, nl := 0, wm1 := 0, hm1 := 0, spill := 0, raw := b }

/-- The bytes that a slot is bound to. -/
def boundBytes (s : State) (ctx slot : Nat) : List Byte :=
  ((alookup s.surf.bound (256 * ctx + slot)).map Ste.raw).getD (List.replicate 32 0)

/-- The context's table in memory; all zeros where CX.STAB is 0; none where it cannot be read (R159). -/
def surfaceTable (s : State) (ctx : Nat) : Option (List Byte) :=
  let a := (ctxOf s ctx).stab.toNat
  if a == 0 then some (List.replicate 8192 0) else readHome s ctx a 8192

/-- The slots whose entries in memory differ from the bound copies (R159). -/
def staleSlots (s : State) (ctx : Nat) (table : List Byte) : List Nat :=
  (List.range 256).filter fun i => steBytes table i != boundBytes s ctx i

/-- A plan that was placed under a slot's current binding is incomplete (R159). -/
def slotInUse (s : State) (ctx slot : Nat) : Bool :=
  let since := ((alookup s.surf.bound (256 * ctx + slot)).map Ste.since).getD 0
  s.work.plans.any fun (_, p) => p.begun && !p.done && p.ctx == ctx && decide (since ≤ p.begunAt)

/-- The spill area is present, writable and neither TIER nor REMOTE (R159). -/
def spillAreaOk (s : State) (ctx : Nat) (e : Ste) : Bool × State :=
  let bytes := (List.range e.nl).foldl (fun n l => n + e.tilesX l * e.tilesY l) 0 * tileLen e.fmt
  (List.range ((bytes + 4095) / 4096)).foldl (fun (ok, s) i =>
    match translate s none ctx (e.spill + 4096 * i) true false false with
    | (.ok .., s1) => (ok, s1)
    | (.fault .., s1) => (false, s1)) (true, s)

/-- The tile's spill slot holds it in raw form already. -/
def keptAlready (s : State) (k : TileKey) : Bool := let t := tileOf s k; t.st == .spilled && t.current && t.raw

/-- The ranges of physical bytes that unbinding a slot accesses: the spill slots of the tiles that it writes (R159). -/
def unbindSpans (s : State) (ctx slot : Nat) : List (Nat × Nat) :=
  match alookup s.surf.bound (256 * ctx + slot) with
  | some e =>
    if e.keep && e.nl != 0 then
      rangeSpans s ctx (((e.allTiles ctx slot).filter fun k => !keptAlready s k).map fun k => (spillVa s k, tileLen e.fmt))
    else []
  | none => []

/-- Writes a tile of a slot that is unbound with KEEP to its spill slot in raw form (R159). -/
def keepTile (s : State) (k : TileKey) : State :=
  let t := tileOf s k
  if keptAlready s k then s
  else
    let (bs, bad, s1) := if t.st == .spilled || t.st == .filling then fillBytes s t else (t.content, false, s)
    spillTile (if bad then damage s1 k else s1) { t with bytes := bs } true []

/-- Unbinds a slot: with KEEP every tile is written to its spill slot in raw form; its tiles are gone (R159). -/
def unbindSlot (s : State) (ctx slot : Nat) : State :=
  let s1 := match alookup s.surf.bound (256 * ctx + slot) with
    | some e => if e.keep && e.nl != 0 then (e.allTiles ctx slot).foldl keepTile s else s
    | none => s
  { s1 with surf := { s1.surf with tiles := s1.surf.tiles.filter fun t => !(t.key.ctx == ctx && t.key.slot == slot) } }

/-- Binds a slot to 32 bytes of its table (R153, R159). -/
def bindSlot (s : State) (ctx slot : Nat) (b : List Byte) : State :=
  let (n, s1) := (unbindSlot s ctx slot).newId
  let put (s : State) (e : Ste) : State :=
    { s with surf := { s.surf with bound := ainsert s.surf.bound (256 * ctx + slot) { e with since := n } } }
  match parseSte b with
  | some e =>
    match spillAreaOk s1 ctx e with
    | (true, s2) => put s2 e
    | (false, s2) => logEvent (put s2 (emptySte b)) 0x0200 0x0022 ctx (BitVec.ofNat 64 slot) 0
  | none =>
    if nfld (dwordAt b 0) 63 63 == 0 then put s1 (emptySte b)
    else logEvent (put s1 (emptySte b)) 0x0200 0x0022 ctx (BitVec.ofNat 64 slot) 0

/-- Unbinds every slot of every context (R147). -/
def unbindAll (s : State) : State :=
  let s1 := (s.surf.bound.map Prod.fst).foldl (fun s n => unbindSlot s (n / 256) (n % 256)) s
  { s1 with surf := { s1.surf with bound := [] } }

end Binding

section Words

/-- The cohort that issues. -/
def issuing (s : State) : Cohort := s.cohort (s.sched.cur.getD 0)

/-- The slot and level that a surface word names (R388). -/
def slotLevel (c : Cohort) (x : Ext) : Nat × Nat :=
  if bitOf x.mod 8 then
    let v := (c.readUreg x.c.idx.toNat).toNat
    (v % 256, nfld v 11 8)
  else (fld x.imm 7 0, fld x.imm 11 8)

/-- SPACE_BOUND of a surface operand (R388, R410). The access width of a slot that has no format, 1 to 16 or 0xFF, is free (log
entry 2). -/
def surfTrap (s : State) (t : Option Nat) (ctx slot level kind : Nat) : Eff :=
  let w := match boundSte s ctx slot with
    | some e => bpp e.fmt
    | none => let w := Config.freeNat s.sched.fresh % 17; if w == 0 then 0xFF else w
  .trap .spaceBound { thread := t, i0 := BitVec.ofNat 64 (slot * 256 + level),
                      i1 := BitVec.ofNat 64 (0xFF * 2 ^ 24 + w * 2 ^ 16 + 4 * 2 ^ 8 + kind) }

/-- ENGINE_FAULT with a cause (R240). -/
def engineFault (t : Option Nat) (cause : Nat) : Eff := .trap .engineFault { thread := t, i0 := BitVec.ofNat 64 cause }

/-- A group of n names from an operand, as single values. -/
def groupSrcs (o : Opnd) (n : Nat) (pb : Bool) (k : Nat) : List Src :=
  (List.range n).map fun i => if pb then .back (o.idx.toNat + i) k false else .name (o.idx.toNat + i) false

/-- Coordinates (R388). -/
def coords (v : DWord) : Nat × Nat := (v.toNat % 65536, v.toNat / 65536 % 65536)

/-- The accesses of a surface word, its slot register among them. -/
def surfAcc (f : ExtForm) (na nb : Nat) (l : List Src) : Acc :=
  let a := (engAcc f na nb 0).reads l
  if bitOf f.x.mod 8 then { a with uregs := f.x.c.idx.toNat :: a.uregs } else a

/-- What STINFO reads of a bound entry (R392). -/
def Ste.info (e : Ste) : Nat :=
  if e.nl == 0 then 0
  else e.wm1 * 2 ^ 48 + e.hm1 * 2 ^ 32 + 2 ^ 15 + e.damage.toNat * 2 ^ 14 + e.load.toNat * 2 ^ 12 +
    e.keep.toNat * 2 ^ 11 + e.fmt * 2 ^ 4 + (e.nl - 1)

/-- STINFO (R392): once for the cohort. -/
def execStinfo (f : ExtForm) (s : State) : Out :=
  let x := f.x
  let d := x.d.idx.toNat
  let a := { surfAcc f 0 0 [] with wUregs := [d] }
  withPrep s a fun r =>
    if r.ths.isEmpty then .ok (plainIssue s r a)
    else
      let c := s.cohort r.id
      let ctx := ctxOfCohort s c
      let slot := (slotLevel c x).1
      let v := ((alookup s.surf.bound (256 * ctx + slot)).map Ste.info).getD 0
      let s1 := if bitOf x.mod 0 then modSte s ctx slot fun e => { e with damage := false } else s
      let (w, s2) := s1.newId
      .ok (uregResult (plainIssue s2 r a) r.id w d (BitVec.ofNat 64 v))

end Words

end Sys2Proof.Machine
end

