-- ==== Sys2Proof/Machine/Sampler.lean ====
section
/-! DEFINITION. The sampler: coordinates (R127, R128), filtering (R129 to R131), level of detail (R132, R133), and
what a sample reads (R236 to R238). -/

namespace Sys2Proof.Machine

/-- A sampler state word (R236). -/
structure Sampler where
  bias : Nat
  addrU : Nat
  addrV : Nat
  linear : Bool
  mip : Nat
  deriving DecidableEq, Repr

/-- The fields of a sampler state word; none of a faulting one (R236). -/
def parseSampler (w : Nat) : Option Sampler :=
  if nfld w 31 16 != 0 || nfld w 15 14 == 3 || nfld w 13 12 == 3 || nfld w 10 9 == 3 || nfld w 8 0 != 0 then none
  else some ⟨nfld w 63 32, nfld w 15 14, nfld w 13 12, nfld w 11 11 == 1, nfld w 10 9⟩

/-- The floor and the fraction, in 256ths rounded RNE, of an F32 value clamped to ±2^24 (R127). -/
def floorQ (x : Nat) : Int × Nat :=
  match F32.val x with
  | .nan => (0, 0)
  | .inf n => (if n then -2 ^ 24 else 2 ^ 24, 0)
  | .fin n m ex =>
    if 24 ≤ ex + Nat.log2 m && m != 0 then (if n then -2 ^ 24 else 2 ^ 24, 0)
    else
      let (i, fr, d) := splitFloor n m ex
      (i, roundShift 0 false (fr * 256) d)

/-- The texel indices of a coordinate on an extent with their weights in 256ths; a texel of weight 0 takes no part
(R127, R131). -/
def texels (linear : Bool) (u extent : Nat) : List (Int × Nat) :=
  let v := match F32.val u with
    | .nan => FVal.fin false 0 0
    | v => v
  let p := v.mul (FVal.ofInt extent)
  if linear then
    let (i, q) := floorQ (F32.round 0 (fsum 0 [p, .fin true 1 (-1)]))
    let (i, q) := if q == 256 then (i + 1, 0) else (i, q)
    if q == 0 then [(i, 256)] else [(i, 256 - q), (i + 1, q)]
  else [((floorQ (F32.round 0 p)).1, 256)]

/-- A texel index made legal (R128). -/
def legalIndex (mode extent : Nat) (i : Int) : Nat :=
  let e : Int := extent
  if mode == 0 then (i % e).toNat
  else if mode == 1 then (if i < 0 then 0 else if e ≤ i then e - 1 else i).toNat
  else
    let m := i % (2 * e)
    (if e ≤ m then 2 * e - 1 - m else m).toNat

/-- A weighted sum in F32: the first product rounded, each further step fused (R131, R133). -/
def blendF32 : List (Nat × Nat) → Nat
  | [] => 0
  | (w, t) :: r =>
    r.foldl (fun h (w, t) => F32.round 0 (fsum 0 [(FVal.fin false w (-8)).mul (F32.val t), F32.val h]))
      (F32.round 0 ((FVal.fin false w (-8)).mul (F32.val t)))

/-- The level and the blend in 256ths of a level of detail clamped to 0 to NL − 1 (R132, R133). -/
def lodLevel (nl lam : Nat) : Nat × Nat :=
  match F32.val lam with
  | .nan => (0, 0)
  | .inf n => (if n then 0 else nl - 1, 0)
  | .fin n m ex =>
    if n || m == 0 then (0, 0)
    else if 4 ≤ ex + Nat.log2 m then (nl - 1, 0)
    else
      let (i, fr, d) := splitFloor false m ex
      let l := i.toNat
      let q := roundShift 0 false (fr * 256) d
      if nl - 1 ≤ l then (nl - 1, 0) else if q == 256 then (l + 1, 0) else (l, q)

/-- The levels used with their weights in 256ths (R133). -/
def mipLevels (mip nl lam : Nat) : List (Nat × Nat) :=
  let (l, q) := lodLevel nl lam
  if mip == 0 then [(0, 256)]
  else if mip == 1 then [(if q < 128 then l else l + 1, 256)]
  else if q == 0 then [(l, 256)]
  else [(l, 256 - q), (l + 1, q)]

/-- The level of detail of a quad from its four coordinate pairs, before the clamp (R132). -/
def quadLod (e : Ste) (bias : Nat) (uv : Nat → Nat × Nat) : Nat :=
  let w := FVal.ofInt (e.wm1 + 1 : Nat)
  let h := FVal.ofInt (e.hm1 + 1 : Nat)
  let diff (i : Nat) (f : Nat × Nat → Nat) (k : FVal) : FVal :=
    F32.val (F32.round 0 ((F32.val (F32.sub 0 (f (uv i)) (f (uv 0)))).mul k))
  let len (i : Nat) : Nat :=
    let a := diff i Prod.fst w
    let b := diff i Prod.snd h
    F32.round 0 (fsum 0 [a.mul a, F32.val (F32.round 0 (b.mul b))])
  let lg := F32.val (F32.round 0 (F32.val (F32.max (len 1) (len 2))).log2)
  F32.add 0 (F32.round 0 (lg.mul (.fin false 1 (-1)))) bias

/-- The texels of one level: rows of texels with their weights, as coordinates within the level (R127, R128). -/
def levelTexels (e : Ste) (m : Sampler) (level u v : Nat) : List (Nat × List (Nat × Nat × Nat)) :=
  let w := e.width level
  let h := e.height level
  (texels m.linear v h).map fun (j, wy) =>
    (wy, (texels m.linear u w).map fun (i, wx) => (wx, legalIndex m.addrU w i, legalIndex m.addrV h j))

/-- One sample: the four channels (R129 to R131, R133, R237). -/
def sample (s : State) (e : Ste) (ctx slot : Nat) (m : Sampler) (lam u v : Nat) : List Nat :=
  let levels := mipLevels m.mip e.nl lam
  let one (c : Nat) : Nat :=
    let bits (l x y : Nat) : Nat := chanBits e.fmt c (pixelAt s e ctx slot l x y)
    if normMax e.fmt != 0 then
      -- the weights of all texels sum to 2^24
      let t := levels.foldl (fun n (l, wl) => (levelTexels e m l u v).foldl (fun n (wy, row) =>
        row.foldl (fun n (wx, x, y) => n + wl * wy * wx * bits l x y) n) n) 0
      F32.round 0 (if t == 0 then .fin false 0 0 else quot false t (2 ^ 24 * normMax e.fmt) 0)
    else
      blendF32 (levels.map fun (l, wl) => (wl, blendF32 ((levelTexels e m l u v).map fun (wy, row) =>
        (wy, blendF32 (row.map fun (wx, x, y) => (wx, chanF32 e.fmt (bits l x y)))))))
  if channels e.fmt == 4 then (List.range 4).map one else [one 0, 0, 0, 0x3F800000]

/-- The tiles that a sample reads. -/
def sampleTiles (e : Ste) (ctx slot : Nat) (m : Sampler) (lam u v : Nat) : List TileKey :=
  (mipLevels m.mip e.nl lam).flatMap fun (l, _) => (levelTexels e m l u v).flatMap fun (_, row) =>
    row.map fun (_, x, y) => tileAt ctx slot l x y

/-- The coordinates of the quad partner of a thread at a pixel: its own where the partner does not execute the word
(R238). -/
def partnerUv (s : State) (ths : List Nat) (uv : Nat → Nat × Nat) (t pix : Nat) : Nat × Nat :=
  match ths.find? fun p => (s.thread p).quad == (s.thread t).quad && (s.thread p).pix == pix with
  | some p => uv p
  | none => uv t

end Sys2Proof.Machine
end

