-- ==== Sys2Proof/Machine/SurfaceWords.lean ====
section
/-! DEFINITION. Surface accesses in the order of their arrival at a tile (R157, R199, R379), the completions of fills and
spills and the eviction engine (R157, R158), and the words SLD, SST, VBMIN, SAMP and SAMPL (R389 to R391, R395). -/

namespace Sys2Proof.Machine

section Requests

/-- The minimum of VBMIN on a pixel, whose tile is then the most recently used one (R228, R157). -/
def vbMin (s : State) (e : Ste) (ctx slot level x y v : Nat) : State :=
  if v < leNat (pixelAt s e ctx slot level x y) then writePixel s e ctx slot level x y (leBytes 8 v)
  else if e.inside level x y then readTiles s [tileAt ctx slot level x y] else s

/-- The bytes that a load reads as its result (R389). -/
def loadedPixel (raw : Bool) (fmt : Nat) (p : List Byte) : Nat :=
  if raw then leNat p else (pixelF32 fmt p).reverse.foldl (fun m v => m * 2 ^ 32 + v) 0

/-- The result of a load: a pixel outside the level reads as zeros (R389). -/
def sldValue (s : State) (e : Ste) (ctx slot level : Nat) (raw : Bool) (x y : Nat) : Nat :=
  if e.inside level x y then loadedPixel raw e.fmt (pixelAt s e ctx slot level x y) else 0

/-- The pixel that a store leaves (R390): the channels that it writes, or the bytes. -/
def storedPixel (raw : Bool) (fmt : Nat) (chans : List Nat) (val : Nat → Nat) (old : List Byte) : List Byte :=
  if raw then (List.range (bpp fmt / 4)).flatMap fun i => leBytes 4 (val i)
  else chans.foldl (fun px i => setChan fmt i (chanOfF32 fmt (val i)) px) old

/-- A store (R390). -/
def sstPixel (s : State) (e : Ste) (ctx slot level : Nat) (raw : Bool) (chans : List Nat) (x y : Nat) (val : Nat → Nat) : State :=
  writePixel s e ctx slot level x y (storedPixel raw e.fmt chans val (pixelAt s e ctx slot level x y))

/-- A sample as one number (R395). -/
def sampleValue (s : State) (e : Ste) (ctx slot : Nat) (m : Sampler) (lam u v : Nat) : Nat :=
  (sample s e ctx slot m lam u v).reverse.foldl (fun n v => n * 2 ^ 32 + v) 0

/-- The tile of a pixel; none outside the level. -/
def pixelTiles (e : Ste) (ctx slot level x y : Nat) : List TileKey :=
  if e.inside level x y then [tileAt ctx slot level x y] else []

/-- The word of a value that goes to a target of an access's result. -/
def answerWord (q : SurfReq) (v : Nat) : Target → DWord
  | .name n => BitVec.ofNat 64 ((v >>> (32 * (n - q.d))) % 2 ^ 32)
  | _ => 0

/-- The result of an access that has now been performed; a checkpoint that waits for the value takes it (R289). -/
def answerReq (s : State) (q : SurfReq) (v : Nat) : State :=
  s.modThread q.thread fun th =>
    let mine (p : Pend) : Bool := p.held && p.id == q.word
    (th.writes.filter mine).foldl (fun t p => t.resample p (answerWord q v p.tgt))
      { th with writes := th.writes.map fun p =>
          if mine p then { p with held := false, due := Nat.max p.due (s.sched.clk + 1) } else p }

/-- Performs a surface access whose turn it is (R157). One whose slot is no longer bound is gone. -/
def performReq (s : State) (q : SurfReq) (ks : List TileKey) : State :=
  let w (i : Nat) : Nat := (q.data.getD i 0).toNat
  match surfSte s q.ctx q.slot q.level with
  | none => s
  | some e =>
    if q.kind == 0 then readTiles (answerReq s q (sldValue s e q.ctx q.slot q.level q.raw q.x q.y)) ks
    else if q.kind == 1 then sstPixel s e q.ctx q.slot q.level q.raw q.chans q.x q.y w
    else if q.kind == 2 then vbMin s e q.ctx q.slot q.level q.x q.y (w 0 + 2 ^ 32 * w 1)
    else match parseSampler q.sampler.toNat with
      | none => s
      | some m => readTiles (answerReq s q (sampleValue s e q.ctx q.slot m (w 2) (w 0) (w 1))) ks.eraseDups

/-- Performs the access if its turn has come. -/
def serveReq (s : State) (q : SurfReq) : State :=
  let ks := ((s.surf.order.find? fun x => x.1 == q.id).map Prod.snd).getD []
  if servable s q.id ks then
    let s1 := dequeueTiles (performReq s q ks) q.id
    { s1 with surf := { s1.surf with reqs := s1.surf.reqs.filter fun x => x.id != q.id } }
  else s

/-- Performs, in order of arrival, every surface access whose turn has come; the tiles of the others are asked for (R157). -/
def serveReqs (s : State) : State :=
  let s1 := s.surf.reqs.foldl serveReq s
  let live := s1.surf.order.filter fun x => tokenLive s1 x.1
  live.foldl (fun s x => wantTiles s x.2) { s1 with surf := { s1.surf with order := live } }

/-- A surface access waits for its tiles. -/
def addReq (s : State) (q : SurfReq) (ks : List TileKey) : State :=
  let (n, s1) := s.newId
  enqueueTiles { s1 with surf := { s1.surf with reqs := s1.surf.reqs ++ [{ q with id := n }] } } n ks

end Requests

section Engine

/-- FILL_COMPLETE (R157): the tile becomes resident, and the accesses that wait for it are served. -/
def execFillComplete (s : State) : Out :=
  let t := tileOf s s.sched.arg.tile
  if t.st != .filling then .next s
  else
    match if t.blank then (true, s) else admitTile s t with
    | (false, s1) => .next s1
    | (true, s1) =>
      let (bs, bad, s2) := fillBytes s1 t
      let s3 := if bad then damage s2 t.key else s2
      .next (serveReqs (useTile s3 { t with st := .resident, dirty := false, blank := false, bytes := bs, poison := [] }))

/-- SPILL_COMPLETE (R157): the spill slot is written, or, where `ok` is false, the writes of the tile's blocks in `list` have
failed, of all of them where it is empty (R158). -/
def execSpillComplete (s : State) : Out :=
  let t := tileOf s s.sched.arg.tile
  let l := s.sched.arg.list
  if t.st != .spilling then .next s
  else
    match admitTile s t with
    | (false, s1) => .next s1
    | (true, s1) => .next (serveReqs (spillTile s1 t false (if s.sched.arg.ok then [] else if l.isEmpty then t.blocks else l)))

/-- EVICTION_REQUEST (R158): for a tile whose fill waits for a frame, the least recently used idle resident tile of its
bank and context is evicted, unless enough frames are free or being freed. -/
def execEvictionRequest (s : State) : Out :=
  let k := s.sched.arg.tile
  if !(tileOf s k).wants then .next s
  else if frameFree s k true then .next (wantTile s k)
  else if frameFree s k false then .next s
  else
    match s.surf.tiles.find? fun t =>
        t.st == .resident && t.key.ctx == k.ctx && bankOf s t.key == bankOf s k && !tileBusy s t.key with
    | none => .next s
    | some v =>
      .next (serveReqs (setTile s { v with st := if !v.dirty && v.current then .spilled else .spilling }))

end Engine

section Words

/-- Destinations of a word whose values surface accesses will give. -/
def heldPends (r : Ready) (w d n : Nat) (due : Nat) : List (Nat × Pend) :=
  (loadPendsAt r w d n (fun _ => due) (r.ths.map fun t => (t, 0))).map fun (t, p) => (t, { p with held := true })

/-- A surface word issues: its accesses are performed at once where the turn of each has come, and are left to wait otherwise
(R157, R379). Each thread's access comes with its tiles; d and n are the names of the result. -/
def surfIssue (s : State) (r : Ready) (a : Acc) (d n due : Nat) (reqs : List (SurfReq × List TileKey)) (now : State → State) : Eff :=
  let ks := reqs.flatMap Prod.snd
  if servable s 0 ks then .ok (now s)
  else
    let (w, s1) := s.newId
    let s2 := commit s1 r a (heldPends r w d n due)
    .ok (serveReqs (reqs.foldl (fun s x => addReq s { x.1 with word := w, d := d } x.2) s2))

/-- A surface word: the slot check, then the effect with the entry and each thread's pixel (R388). -/
def surfWord (f : ExtForm) (a : Acc) (xy : Src) (kind : Nat) (bad : Ste → Bool) (s : State)
    (g : Ready → Ste → Nat → Nat → Nat → List (Nat × Nat × Nat) → Eff) : Out :=
  withPrep s a fun r =>
    if r.ths.isEmpty then .ok (plainIssue s r a)
    else
      let c := s.cohort r.id
      let ctx := ctxOfCohort s c
      let (slot, level) := slotLevel c f.x
      match surfSte s ctx slot level with
      | none => surfTrap s r.ths.head? ctx slot level kind
      | some e =>
        if bad e then engineFault r.ths.head? 9
        else g r e ctx slot level (r.ths.map fun t => (t, coords (srcVal s c t xy)))

/-- SLD (R389). -/
def execSld (f : ExtForm) (s : State) : Out :=
  let x := f.x
  let c0 := issuing s
  let raw := bitOf x.mod 9
  let sl := slotLevel c0 x
  let fmt0 := ((surfSte s (ctxOfCohort s c0) sl.1 sl.2).map Ste.fmt).getD 0
  let n := if raw then bpp fmt0 / 4 else 4
  let xy := opndSrc x.a false (x.pbs == 1) (x.km1.toNat + 1)
  let d := x.d.idx.toNat
  let a := { surfAcc f 1 0 [xy] with wNames := (List.range n).map (d + ·) }
  surfWord f a xy 0 (fun e => !raw && e.fmt == 6) s fun r e ctx slot level px =>
    let req (y : Nat × Nat × Nat) : SurfReq × List TileKey :=
      ({ id := 0, thread := y.1, kind := 0, ctx := ctx, slot := slot, level := level, x := y.2.1, y := y.2.2, raw := raw },
       pixelTiles e ctx slot level y.2.1 y.2.2)
    surfIssue s r a d n (s.sched.clk + 1) (px.map req) fun s =>
      let (w, s1) := (readTiles s (px.flatMap fun (_, p, q) => pixelTiles e ctx slot level p q)).newId
      commit s1 r a (loadPends s r w d n (px.map fun (t, p, q) => (t, sldValue s e ctx slot level raw p q)))

/-- SST (R390): in ascending home-lane order. -/
def execSst (f : ExtForm) (s : State) : Out :=
  let x := f.x
  let c0 := issuing s
  let raw := bitOf x.mod 9
  let mask := fld x.mod 3 0
  let sl := slotLevel c0 x
  let fmt0 := ((surfSte s (ctxOfCohort s c0) sl.1 sl.2).map Ste.fmt).getD 0
  let k := x.km1.toNat + 1
  let n := if raw then bpp fmt0 / 4 else 4
  let xy := opndSrc x.a false (x.pbs == 1) k
  let ds := groupSrcs x.b n (x.pbs == 2) k
  let used := (List.range n).filter fun i => raw || (mask.testBit i && decide (i < channels fmt0))
  let a0 := surfAcc f 1 n (xy :: used.filterMap fun i => ds[i]?)
  let a := if x.pbs == 2 then { a0 with back := some (x.b.idx.toNat, k, n) } else a0
  surfWord f a xy 1 (fun e => !raw && e.fmt == 6) s fun r e ctx slot level px =>
    let c := s.cohort r.id
    let val (t i : Nat) : Nat := ((ds[i]?).map fun d => (srcVal s c t d).toNat).getD 0
    let req (y : Nat × Nat × Nat) : SurfReq × List TileKey :=
      ({ id := 0, thread := y.1, kind := 1, ctx := ctx, slot := slot, level := level, x := y.2.1, y := y.2.2, raw := raw,
         data := (List.range n).map fun i => BitVec.ofNat 32 (val y.1 i), chans := used },
       pixelTiles e ctx slot level y.2.1 y.2.2)
    surfIssue s r a 0 0 0 (px.map req) fun s =>
      plainIssue (px.foldl (fun s2 (t, p, q) => sstPixel s2 e ctx slot level raw used p q (val t)) s) r a

/-- VBMIN (R391). -/
def execVbmin (f : ExtForm) (s : State) : Out :=
  let x := f.x
  let k := x.km1.toNat + 1
  let xy := opndSrc x.a false (x.pbs == 1) k
  let v := opndSrc x.b true (x.pbs == 2) k
  let a := surfAcc f 1 2 [xy, v]
  surfWord f a xy 2 (fun e => e.fmt != 6) s fun r e ctx slot level px =>
    let c := s.cohort r.id
    let req (y : Nat × Nat × Nat) : SurfReq × List TileKey :=
      let n := (srcVal s c y.1 v).toNat
      ({ id := 0, thread := y.1, kind := 2, ctx := ctx, slot := slot, level := level, x := y.2.1, y := y.2.2,
         data := [BitVec.ofNat 32 n, BitVec.ofNat 32 (n / 2 ^ 32)] },
       pixelTiles e ctx slot level y.2.1 y.2.2)
    surfIssue s r a 0 0 0 (px.map req) fun s =>
      plainIssue (px.foldl (fun s2 (t, p, q) => vbMin s2 e ctx slot level p q (srcVal s c t v).toNat) s) r a

/-- A sampling word, with the level of detail that SAMPL reads (R395). A result is written no earlier than 64 cycles
after issue (R239). -/
def sampleWord (f : ExtForm) (lod : Option Src) (s : State) : Out :=
  let x := f.x
  let k := x.km1.toNat + 1
  let xy := opndSrc x.a true (x.pbs == 1) k
  let d := x.d.idx.toNat
  let a := { (engAcc f 2 0 (if lod.isSome then 1 else 0)).reads ([xy, .ureg x.b.idx.toNat true] ++ lod.toList) with
    wNames := (List.range 4).map (d + ·) }
  withPrep s a fun r =>
    if r.ths.isEmpty then .ok (plainIssue s r a)
    else
      let c := s.cohort r.id
      let ctx := ctxOfCohort s c
      let slot := fld x.imm 7 0
      match surfSte s ctx slot 0 with
      | none => surfTrap s r.ths.head? ctx slot 0 0
      | some e =>
        if e.fmt == 6 then engineFault r.ths.head? 9
        else
          match parseSampler (c.readUreg x.b.idx.toNat).toNat with
          | none => engineFault r.ths.head? 11
          | some m =>
            let uv (t : Nat) : Nat × Nat :=
              let v := (srcVal s c t xy).toNat
              (v % 2 ^ 32, v / 2 ^ 32)
            let lam (t : Nat) : Nat := match lod with
              | some l => F32.add 0 ((srcVal s c t l).toNat % 2 ^ 32) m.bias
              | none =>
                if (s.thread t).quad.isNone then F32.add 0 0 m.bias
                else quadLod e m.bias (partnerUv s r.ths uv t)
            let tiles (t : Nat) : List TileKey := sampleTiles e ctx slot m (lam t) (uv t).1 (uv t).2
            let req (t : Nat) : SurfReq × List TileKey :=
              ({ id := 0, thread := t, kind := 3, ctx := ctx, slot := slot, level := 0, sampler := c.readUreg x.b.idx.toNat,
                 data := [BitVec.ofNat 32 (uv t).1, BitVec.ofNat 32 (uv t).2, BitVec.ofNat 32 (lam t)] }, tiles t)
            surfIssue s r a d 4 (s.sched.clk + 64) (r.ths.map req) fun s =>
              let (w, s1) := (readTiles s (r.ths.flatMap tiles).eraseDups).newId
              commit s1 r a (loadPendsAt r w d 4 (fun _ => s.sched.clk + 64)
                (r.ths.map fun t => (t, sampleValue s e ctx slot m (lam t) (uv t).1 (uv t).2)))

/-- SAMP (R395): level of detail from the quad. -/
def execSamp (f : ExtForm) (s : State) : Out := sampleWord f none s

/-- SAMPL (R395): a given level of detail. -/
def execSampl (f : ExtForm) (s : State) : Out :=
  sampleWord f (some (opndSrc f.x.c false (f.x.pbs == 3) (f.x.km1.toNat + 1))) s

end Words

end Sys2Proof.Machine
end

