-- ==== Sys2Proof/Machine/Errors.lean ====
section
/-! DEFINITION. Errors, column fences and power: uncorrected and corrected errors (R431), fences (R419, R420), the thermal
cap (R433) and retention (R171). -/

namespace Sys2Proof.Machine

/-- A counter that saturates at 2^64 − 1. -/
def countUp (c : DWord) (n : Nat) : DWord := BitVec.ofNat 64 (Nat.min (2 ^ 64 - 1) (c.toNat + n))

/-- UE_POISON from a source (R432). -/
def poisonEvent (s : State) (src arg0 : Nat) : State := logEvent s src 0x0010 0 (BitVec.ofNat 64 arg0) 0

/-- Poisons a 64-byte block of GDDR7: every read returns zeros for it (R431). -/
def poisonBlock (s : State) (b : Nat) : State :=
  s.modMem fun m => { m with
    gddr := Memory.clear m.gddr (64 * b) 64
    poison := if m.poison.contains b then m.poison else m.poison ++ [b] }

section Fences

/-- Of some 64-byte blocks from one on, a free choice could not be written back, and each of those is poisoned (R192, log
entry 2). -/
def poisonSome (unit n : Nat) (s : State) (first : Nat) : State :=
  let (mask, s1) := s.free (2 ^ n)
  (List.range n).foldl (fun s i => if mask.testBit i then poisonEvent (poisonBlock s (first + i)) unit (64 * (first + i)) else s) s1

/-- What a fenced column may leave unwritten: blocks of the segments that it owns, and of the dirty blocks in its L1 that lie in
the range of a pass that it holds, which makes no directory entry (R191, R192). -/
def poisonUnwritten (s : State) (unit : Nat) : State :=
  let owned := (s.mem.dir.filter fun (_, g) => g.own && g.holders.any fun h => h.1 == unit).map Prod.fst
  let held := ((s.core unit).l1.filter fun l => l.dirty && ownPass s (l.block / 16) unit).map L1Line.block
  held.foldl (fun s b => poisonSome unit 4 s (4 * b)) (owned.foldl (fun s g => poisonSome unit 64 s (64 * g)) s)

/-- The tiles of a column lose their frames (R419, step 3). -/
def loseTiles (s : State) (unit : Nat) : State :=
  let mine := s.surf.tiles.filter fun t => t.st != .spilled && homeColumn s t.key == unit
  mine.foldl (fun s t =>
    let t1 := if t.current then { t with st := .spilled, wants := false, dirty := false, poison := [] }
      else { t with st := .spilled, wants := false, dirty := false, poison := [], blank := true,
                    bytes := List.replicate t.bytes.length 0 }
    setTile (modSte s t.key.ctx t.key.slot fun e => { e with damage := true }) t1) s

/-- A lost thread publishes 0 for every name that it has not published, unless its plan is restartable (R55). -/
def publishLost (s : State) (t : Nat) : State :=
  let th := s.thread t
  let p := s.planOf t
  let names := (p.pass.map Prod.fst).filter fun n => !th.published.contains n
  if p.restart || (s.launchOf t).stage != 0 || names.isEmpty then s
  else
    let s1 := (s.modThread t fun x => { x with names := [], writes := [] })
    logEvent (names.foldl (fun s n => publishName s t n) s1) 0x0200 0x0005 p.ctx (BitVec.ofNat 64 p.addr) (BitVec.ofNat 64 th.lin)

/-- The names, stack and predicates of a lost thread are gone. -/
def loseThread (s : State) (t : Nat) : State :=
  (publishLost s t).modThread t fun th => { th with
    place := .lost, names := [], writes := [], stack := [], preds := 0, barRec := none, bells := [] }

/-- Forgets a team that is placed again from its entry (R420). -/
def forgetTeam (s : State) (team : Nat) : State :=
  { s with work := { s.work with
      threads := s.work.threads.filter fun (_, t) => t.team != team
      lcohs := s.work.lcohs.filter fun (_, l) => l.team != team
      teams := aerase s.work.teams team } }

/-- A team that has lost a thread is to be placed again when its plan is restartable (R420). -/
def markAgain (s : State) (team : Nat) : State :=
  let tm := s.team team
  if (s.plan (s.launch tm.launch).plan).restart then s.modLaunch tm.launch fun l => { l with again := l.again ++ [tm.num] } else s

/-- Ends a team that has lost a thread (R420). -/
def endLostTeam (s : State) (team : Nat) : State :=
  let tm := s.team team
  let pl := (s.launch tm.launch).plan
  let p := s.plan pl
  let s2 := killTeam s team
  let quads := distinct ((s2.team team).threads.filterMap fun t => (s2.thread t).quad)
  let s3 := teamExit (if p.restart then s2 else quads.foldl quadCheck s2) team
  let s4 := logEvent s3 0x0200 0x0004 p.ctx (BitVec.ofNat 64 p.addr) (BitVec.ofNat 64 tm.num)
  if p.restart then forgetTeam s4 team else s4

/-- Quads that wait on a fenced core, and launches formed there and not placed, go to the new home of their tiles (R155); fused
rings there are gone. -/
def moveQuads (s : State) (unit : Nat) : State :=
  let gone (i : Nat) : Bool := ((alookup s.work.rings i).map Ring.unit) == some unit
  let kept (r : QRec) : Bool := match r with
    | .ring i _ => !gone i
    | .mem _ => true
  let home (q : Nat) : Nat := ((s.draw.quads.find? fun x => x.id == q).map fun x => homeColumn s x.tile).getD unit
  { s with
    draw := { s.draw with quads := s.draw.quads.map fun q =>
      if q.unit == unit && q.phase == 1 then { q with unit := homeColumn s q.tile } else q }
    work := { s.work with
      launches := s.work.launches.map fun (i, l) =>
        (i, { l with
          fixed := if l.fixed == some unit then (if l.quads.isEmpty then none else some (home (l.quads.headD 0))) else l.fixed
          ring := l.ring.bind fun i => if gone i then none else some i
          claim := l.claim.filter kept
          taken := l.taken.filter kept })
      rings := s.work.rings.filter fun (_, r) => r.unit != unit } }

/-- Fences a column (R419): the core takes nothing more; its threads are lost, its tiles spilled, what its L1 holds written back
(R179), its overlays and tags gone, the operations of its threads ended. -/
def fenceColumn (s : State) (unit : Nat) : State :=
  if (s.core unit).fenced then s
  else
    let s0 := loseTiles s unit
    let s1 := logEvent (s0.modCore unit fun k => { k with fenced := true }) unit 0x0011 0 (BitVec.ofNat 64 unit) 0
    let lost := (s1.work.threads.filter fun (_, t) => t.unit == unit && t.alive && t.place != .saved).map Prod.fst
    let teams := distinct (lost.map fun t => (s1.thread t).team)
    let s2 := poisonUnwritten (lost.foldl loseThread (detach s1 lost)) unit
    let s3 := teams.foldl (fun s tm =>
      let hs := (s.team tm).holds.filter fun h => h.2.1 == unit
      (hs.foldl (fun s (n, u, k) => relHolds s n u k) s).modTeam tm fun x => { x with holds := x.holds.filter fun h => h.2.1 != unit }) s2
    let s5 := (leaveDirectory (dropL1 s3 unit fun _ => true) unit).modMem fun m => { m with
      l2 := m.l2.filter fun l => l.slice != unit
      copies := m.copies.filter fun c => c.unit != unit || c.squashed
      stages := m.stages.filter fun c => c.unit != unit || c.squashed
      passes := m.passes.map fun (n, p) => (n, { p with queue := p.queue.filter (· != unit) }) }
    let s6 := s5.modCore unit fun k => { k with
      images := [], loads := [], lastLoads := [], tags := [], mx := {}, l1 := [], scratch := [], conv := .none }
    serveReqs (teams.foldl endLostTeam (teams.foldl markAgain (moveQuads s6 unit)))

end Fences

section ErrorCounts

/-- An uncorrected error counts, and may fence the column (R431). -/
def countUncorrected (s : State) (unit : Nat) : State :=
  let s1 := s.modCore unit fun k => { k with uecnt := countUp k.uecnt 1 }
  let k := s1.core unit
  if k.uefence != 0 && decide (k.uefence.toNat ≤ k.uecnt.toNat) then fenceColumn s1 unit else s1

/-- CORRECTED_ERROR (R431). -/
def execCorrectedError (s : State) : Out :=
  .next (s.modCore s.sched.arg.a fun k => { k with cecnt := countUp k.cecnt 1 })

/-- The GDDR7 channel of a physical address (R148). -/
def channelOf (pa : Nat) : Nat :=
  let p := pa / 256
  let x (hi lo : Nat) := nfld p hi lo
  (x 6 0) ^^^ (x 13 7) ^^^ (x 20 14) ^^^ (x 27 21) ^^^ (x 29 28)

/-- Zeros a 64-byte block of a list of bytes. -/
def zeroBlock (bs : List Byte) (block : Nat) : List Byte :=
  (bs.zipIdx).map fun (b, i) => if i / 64 == block then 0 else b

/-- UNCORRECTED_ERROR (R431), treated by where it lies. An event's address that the manual does not define is free (log
entry 2). -/
def execUncorrectedError (s : State) : Out :=
  let (any, s0) := s.free (2 ^ 60)
  .next (match s.sched.arg.site with
    | .gddr b => countUncorrected (poisonEvent (poisonBlock s b) (0x0100 + channelOf (64 * b)) (64 * b)) 0
    | .cache b =>
      let u := homeOf s (64 * b)
      countUncorrected (poisonEvent (poisonBlock s b) u (64 * b)) u
    | .surface k b =>
      let t := tileOf s0 k
      let u := homeColumn s0 k
      let s1 := setTile s0 { t with
        bytes := zeroBlock t.bytes b, poison := if t.poison.contains b then t.poison else t.poison ++ [b] }
      countUncorrected (poisonEvent (if t.st == .spilled then s0 else s1) u any) u
    | .row u p r =>
      let hit (t : Thread) : Thread :=
        if t.unit == u && t.part == p then
          { t with names := t.names.map fun (n, v) => (n, if v.row == r then { v with val := 0 } else v) }
        else t
      let s1 : State := { s with work := { s.work with threads := s.work.threads.map fun (i, t) => (i, hit t) } }
      countUncorrected (poisonEvent s1 u r) u
    | .checkpoint t =>
      let u := (s.thread t).unit
      let s1 := s0.modThread t fun th => { th with
        ckpt := { th.ckpt with live := th.ckpt.live.map fun (n, v) => (n, v.map fun _ => 0), preds := 0 } }
      countUncorrected (poisonEvent s1 u any) u
    | .note l lin n =>
      let same (x : Note) : Bool := x.launch == l && x.lin == lin && x.name == n
      let u := ((s.work.notes.find? same).map Note.unit).getD 0
      let s1 : State := { s0 with work := { s0.work with
        notes := s0.work.notes.map fun x => if same x then { x with val := 0 } else x } }
      countUncorrected (poisonEvent s1 u any) u
    | .scratch u b =>
      countUncorrected (poisonEvent (s0.modCore u fun k => { k with scratch := Memory.clear k.scratch (64 * b) 64 }) u any) u
    | .l1 u b => countUncorrected (poisonEvent (poisonBlock s b) u (64 * b)) u
    | .istore u => countUncorrected s u
    | .flash _ => countUncorrected s 0)

end ErrorCounts

section Power

/-- The cap in force on a core (R433). -/
def capInForce (k : Core) : Nat :=
  if k.thermal then (if k.pcap == 0 then 8 else Nat.min k.pcap.toNat 8) else k.pcap.toNat

/-- THERMAL_CAP (R433): every core of a die is capped, with one POWER event each. -/
def execThermalCap (s : State) : Out :=
  let die := s.sched.arg.a % 2
  .next ((List.range 128).foldl (fun s i =>
    let u := 128 * die + i
    if (s.core u).thermal then s
    else
      let s1 := s.modCore u fun k => { k with thermal := true }
      logEvent s1 u 0x0070 0 (BitVec.ofNat 64 u) (BitVec.ofNat 64 (capInForce (s1.core u)))) s)

/-- THERMAL_CAP_LIFT (R433). -/
def execThermalCapLift (s : State) : Out :=
  let die := s.sched.arg.a % 2
  .next ((List.range 128).foldl (fun s i =>
    if (s.core (128 * die + i)).thermal then s.modCore (128 * die + i) fun k => { k with thermal := false } else s) s)

/-- RETENTION_ENTRY (R171): a layer of a column that has had no access for its threshold enters retention; layer 0 holds
cloakroom banks and never does (R146). -/
def execRetentionEntry (s : State) : Out :=
  let u := s.sched.arg.a
  let layer := s.sched.arg.b
  let k := s.core u
  if layer == 0 || decide (4 ≤ layer) || decide (256 ≤ u) || k.retain == 0 || k.retained.contains layer ||
      (alookup k.waking layer).isSome || decide (s.sched.clk < (alookup k.access layer).getD 0 + k.retain.toNat) then .next s
  else .next (s.setCore u { k with retained := k.retained ++ [layer] })

/-- WAKE_COMPLETE (R171): the domain's accesses go on. -/
def execWakeComplete (s : State) : Out :=
  let u := s.sched.arg.a
  let layer := s.sched.arg.b
  match alookup (s.core u).waking layer with
  | some due =>
    if s.sched.clk < due then .next s
    else .next (serveReqs (s.modCore u fun k => { k with
      waking := aerase k.waking layer, access := ainsert k.access layer s.sched.clk }))
  | none => .next s

end Power

end Sys2Proof.Machine
end

