-- ==== Sys2Proof/Machine/Configs.lean ====
section
/-! DEFINITION. The configuration space (R312, R313, R414, R427), deferred fields and context boundaries (R314), and the
events that write it. -/

namespace Sys2Proof.Machine

/-- The hub proctor as it stands in a configuration write. -/
def hubWho : Nat := 32

/-- A proctor reaches a core (R306). -/
def reaches (who core : Nat) : Bool := who == hubWho || who == core / 8

section Reads

/-- A hall-pass entry (R189). -/
def passAt (s : State) (n : Nat) : HallPass := (alookup s.mem.passes n).getD {}

/-- A completion counter (R427). -/
def counterAt (s : State) (n : Nat) : DWord := (alookup s.host.counters n).getD 0

/-- Sets a completion counter. -/
def setCounter (s : State) (n : Nat) (v : DWord) : State :=
  s.modHost fun h => { h with counters := if v = 0 then aerase h.counters n else ainsert h.counters n v }

/-- A unit of a core block; none where the offset is unmapped (R313, R414, R427). -/
def coreUnit (k : Core) (core off : Nat) : Option Nat :=
  if off == 0x000 then some k.bken.toNat
  else if off == 0x008 then some k.retain.toNat
  else if 0x040 ≤ off ∧ off < 0x0C0 then some (quotaOf k ((off - 0x40) / 8))
  else if off == 0x100 then some k.cecnt.toNat
  else if off == 0x108 then some k.uecnt.toNat
  else if off == 0x110 then some k.evwin.toNat
  else if off == 0x118 then some k.evras.toNat
  else if off == 0x120 then some k.fenced.toNat
  else if off == 0x128 then some k.uefence.toNat
  else if off == 0x130 then some (k.ovfl.toNat * 2 ^ 24)
  else if off == 0x138 then some k.pcap.toNat
  else if off == 0x140 then some (if core == 0 then k.hubport.toNat else 0)
  else if off == 0x200 then some k.safelim.toNat
  else if off == 0x208 then some k.drain.toNat
  else if off == 0x210 then some k.fenced.toNat
  else none

/-- A unit of a context block: pending values of deferred fields (R313, R314, R414). -/
def ctxUnit (c : Ctx) (off : Nat) : Option Nat :=
  if off == 0x00 then some c.stepsP.toNat
  else if off == 0x08 then some c.waysP.toNat
  else if off == 0x10 then some c.stab.toNat
  else if off == 0x18 then some (c.ptroot.toNat + c.xlen.toNat)
  else if off == 0x20 then some c.save.toNat
  else if off == 0x28 then some c.savesz.toNat
  else none

/-- Reads a configuration unit for a proctor; none where it is unmapped or outside reach (R312). -/
def cfgRead (s : State) (who addr : Nat) : Option DWord :=
  let hub := who == hubWho
  (if addr % 8 != 0 then none
  else if addr < 0x4000 then
    let p := passAt s (addr / 16)
    some (if addr % 16 == 0 then p.valid.toNat * 2 ^ 63 + p.base * 4096 else p.nseg)
  else if addr < 0x4400 then
    let b := bellAt s ((addr - 0x4000) / 16)
    if !hub then none else some (if addr % 16 == 0 then b.target.toNat else b.gen.toNat)
  else if addr == 0x8000 then (if hub then some s.cfg.privP.toNat else none)
  else if 0x10000 ≤ addr ∧ addr < 0x18000 then some (counterAt s ((addr - 0x10000) / 8)).toNat
  else if 0x100000 ≤ addr ∧ addr < 0x200000 then
    let n := (addr - 0x100000) / 0x1000
    if reaches who n then coreUnit (s.core n) n (addr % 0x1000) else none
  else if 0x200000 ≤ addr ∧ addr < 0x201000 then
    (if hub then ctxUnit (ctxOf s ((addr - 0x200000) / 0x100)) (addr % 0x100) else none)
  else none).map (BitVec.ofNat 64)

end Reads

section Writes

/-- Writes the two units of a hall-pass entry; refused on reserved bits, a held entry, a range that is empty, too long or
overlaps another valid one (R189). A range is judged at every write of either unit. -/
def writePass (s : State) (n off v : Nat) : Option State :=
  let p := passAt s n
  let q : HallPass := if off == 0 then { p with valid := nfld v 63 63 == 1, base := nfld v 37 12 } else { p with nseg := nfld v 26 0 }
  let bad := if off == 0 then nfld v 62 38 != 0 || nfld v 11 0 != 0
    else nfld v 63 27 != 0 || nfld v 26 0 == 0 || decide (2 ^ 26 < nfld v 26 0)
  let clash := s.mem.passes.any fun (i, r) => i != n && q.valid && r.valid &&
    decide (q.base < r.base + r.nseg) && decide (r.base < q.base + q.nseg)
  if bad || p.holder.isSome || decide (2 ^ 26 < q.base + q.nseg) || clash then none
  else some (s.modMem fun m => { m with passes := ainsert m.passes n q })

/-- Writes a bell line's target, which resets its count (R313). -/
def writeBellTarget (s : State) (n v : Nat) : Option State :=
  if 2 ^ 32 ≤ v then none
  else some (s.modMem fun m => { m with bells := ainsert m.bells n { bellAt s n with target := BitVec.ofNat 32 v, count := 0 } })

/-- Writes a bell line's generation: every waiter whose recorded generation is below it completes (R313). -/
def writeBellGen (s : State) (n v : Nat) : Option State :=
  if 2 ^ 32 ≤ v then none
  else
    let b := bellAt s n
    let b1 : Bell := { b with gen := BitVec.ofNat 32 v, opened := v, releasing :=
        (b.releasing.filter fun x => decide (v < x.gen)).map fun x => { x with live := false } }
    let s1 := s.modMem fun m => { m with bells := ainsert m.bells n b1 }
    some ((s1.work.cohorts.map Prod.fst).foldl (fun s id => bellCohort s n v id) s1)

/-- Sets a completion counter, never to less than it holds (R312). -/
def writeCounter (s : State) (n v : Nat) : Option State :=
  if v < (counterAt s n).toNat then none else some (setCounter s n (BitVec.ofNat 64 v))

/-- Sets a tenant's slot quota on a core (R101). -/
def writeQuota (s : State) (core t v : Nat) : Option State :=
  let k := s.core core
  let total := (List.range 16).foldl (fun n i => n + (if i == t then v else quotaOf k i)) 0
  if decide (64 < v) || decide (64 < total) || decide (v < chargeOf k t) then none
  else some (s.setCore core { k with quota := ainsert k.quota t v })

/-- A deferred field takes a pending value (R314). -/
def deferred (s : State) : State := { s with cfg := { s.cfg with deferred := true } }

/-- Writes PRIVATE, CX.STEPS or CX.WAYS (R314). -/
def writeDeferred (s : State) (addr v : Nat) : Option State :=
  if addr == 0x8000 then
    if 2 ≤ v then none else some (deferred { s with cfg := { s.cfg with privP := v == 1 } })
  else
    let x := (addr - 0x200000) / 0x100
    if addr % 0x100 == 0 then
      let total := (List.range 16).foldl (fun n i => n + (if i == x then v else (ctxOf s i).stepsP.toNat)) 0
      if decide (8 ≤ v) || decide (7 < total) then none
      else some (deferred (modCtx s x fun c => { c with stepsP := BitVec.ofNat 3 v }))
    else if 16 < v then none
    else some (deferred (modCtx s x fun c => { c with waysP := BitVec.ofNat 5 v }))

/-- Clears an error counter; any other value is refused (R427). -/
def clearCounter (s : State) (core off v : Nat) : Option State :=
  if v != 0 then none
  else some (s.modCore core fun k =>
    if off == 0x100 then { k with cecnt := 0 }
    else if off == 0x108 then { k with uecnt := 0 }
    else if off == 0x110 then { k with evwin := 0 }
    else { k with evras := 0 })

/-- Writes CC.FENCE: 1 fences the column, 0 is ignored (R427). -/
def writeFence (s : State) (core v : Nat) : Option State :=
  if v == 0 then some s else if v == 1 then some (fenceColumn s core) else none

/-- A unit of a core block with no behaviour of its own (R313, R414, R427). -/
def writeCorePlain (s : State) (core off v : Nat) : Option State :=
  let w (bits : Nat) (f : Core → Core) : Option State := if 2 ^ bits ≤ v then none else some (s.modCore core f)
  if off == 0x000 then w 1 fun k => { k with bken := v == 1 }
  else if off == 0x008 then w 32 fun k => { k with retain := BitVec.ofNat 32 v }
  else if off == 0x128 then w 16 fun k => { k with uefence := BitVec.ofNat 16 v }
  else if off == 0x130 then
    (if v % 2 ^ 24 != 0 then none else w 38 fun k => { k with ovfl := BitVec.ofNat 14 (v / 2 ^ 24) })
  else if off == 0x138 then w 4 fun k => { k with pcap := BitVec.ofNat 4 v }
  else if off == 0x200 then w 32 fun k => { k with safelim := BitVec.ofNat 32 v }
  else if off == 0x208 then w 32 fun k => { k with drain := BitVec.ofNat 32 v }
  else none

/-- A unit of a context block that is not deferred (R313, R414). -/
def writeCtxPlain (s : State) (x off v : Nat) : Option State :=
  if off == 0x10 then
    if nfld v 63 52 != 0 || nfld v 12 0 != 0 then none else some (modCtx s x fun c => { c with stab := BitVec.ofNat 52 v })
  else if off == 0x18 then
    if nfld v 63 38 != 0 || nfld v 12 1 != 0 then none
    else some (modCtx s x fun c => { c with ptroot := BitVec.ofNat 52 (v / 8192 * 8192), xlen := v % 2 == 1 })
  else if off == 0x20 then
    if nfld v 63 52 != 0 || nfld v 15 0 != 0 then none else some (modCtx s x fun c => { c with save := BitVec.ofNat 52 v })
  else if off == 0x28 then
    if v % 65536 != 0 then none else some (modCtx s x fun c => { c with savesz := BitVec.ofNat 64 v })
  else none

/-- What a configuration address is (R312, R313). -/
inductive CfgUnit where
  | pass | bellTarget | bellGen | counter | quota | deferred | errors | fence | core | ctx | none
  deriving DecidableEq, Repr

/-- The kind of a configuration unit. -/
def cfgUnit (addr : Nat) : CfgUnit :=
  if addr % 8 != 0 then .none
  else if addr < 0x4000 then .pass
  else if addr < 0x4400 then (if addr % 16 == 0 then .bellTarget else .bellGen)
  else if addr == 0x8000 then .deferred
  else if 0x10000 ≤ addr ∧ addr < 0x18000 then .counter
  else if 0x100000 ≤ addr ∧ addr < 0x200000 then
    let off := addr % 0x1000
    if 0x040 ≤ off ∧ off < 0x0C0 then .quota
    else if 0x100 ≤ off ∧ off < 0x120 then .errors
    else if off == 0x120 then .fence
    else .core
  else if 0x200000 ≤ addr ∧ addr < 0x201000 then (if addr % 0x100 < 0x10 then .deferred else .ctx)
  else .none

/-- Writes a configuration unit for a proctor; none where the write is refused (R312). -/
def cfgWrite (s : State) (who addr v : Nat) : Option State :=
  let core := (addr - 0x100000) / 0x1000
  let hub := who == hubWho
  match cfgUnit addr with
  | .none => none
  | .pass => if hub then writePass s (addr / 16) (addr % 16) v else none
  | .bellTarget => if hub then writeBellTarget s ((addr - 0x4000) / 16) v else none
  | .bellGen => if hub then writeBellGen s ((addr - 0x4000) / 16) v else none
  | .counter => if hub then writeCounter s ((addr - 0x10000) / 8) v else none
  | .deferred => if hub then writeDeferred s addr v else none
  | .quota => if reaches who core then writeQuota s core ((addr % 0x1000 - 0x40) / 8) v else none
  | .errors => if reaches who core then clearCounter s core (addr % 0x1000) v else none
  | .fence => if reaches who core then writeFence s core v else none
  | .core => if reaches who core then writeCorePlain s core (addr % 0x1000) v else none
  | .ctx => if hub then writeCtxPlain s ((addr - 0x200000) / 0x100) (addr % 0x100) v else none

end Writes

section Events

/-- A configuration write as an event: of units of the given kinds; a refused write changes nothing. -/
def cfgEvent (s : State) (kinds : List CfgUnit) : Out :=
  let w := s.sched.arg.cfg
  let a := w.addr.toNat
  .next (if kinds.contains (cfgUnit a) then (cfgWrite s w.who a w.value.toNat).getD s else s)

/-- CONFIG_WRITE (R312): a unit with no behaviour of its own. -/
def execConfigWrite (s : State) : Out := cfgEvent s [.core, .ctx]

/-- HALL_PASS_ENTRY_WRITE (R189). -/
def execHallPassEntryWrite (s : State) : Out := cfgEvent s [.pass]

/-- BL_TARGET_WRITE (R313). -/
def execBlTargetWrite (s : State) : Out := cfgEvent s [.bellTarget]

/-- BL_GEN_WRITE (R313). -/
def execBlGenWrite (s : State) : Out := cfgEvent s [.bellGen]

/-- COMPLETION_COUNTER_WRITE (R312). -/
def execCompletionCounterWrite (s : State) : Out := cfgEvent s [.counter]

/-- CC_QUOTA_WRITE (R101). -/
def execCcQuotaWrite (s : State) : Out := cfgEvent s [.quota]

/-- DEFERRED_FIELD_WRITE (R314). -/
def execDeferredFieldWrite (s : State) : Out := cfgEvent s [.deferred]

/-- ERROR_COUNTER_CLEAR (R427). -/
def execErrorCounterClear (s : State) : Out := cfgEvent s [.errors]

/-- CC_FENCE_WRITE (R427). -/
def execCcFenceWrite (s : State) : Out := cfgEvent s [.fence]

/-- No plan that has had a team placed is incomplete, and no copy or STAGE is outstanding (R147). -/
def atBoundary (s : State) : Bool :=
  s.work.plans.all (fun (_, p) => !p.begun || p.done) && s.mem.copies.isEmpty && s.mem.stages.isEmpty

/-- CONTEXT_BOUNDARY (R314, R147): the pending values take effect, the stacked cache is flushed and every slot is unbound.
Private mode needs ways that total 16, else the cache is shared and one event is recorded. The total is judged at every boundary
for which PRIVATE is 1, also where PRIVATE was 1 before and only WAYS changes (log entry 79, DESIGN CHOICE). -/
def execContextBoundary (s : State) : Out :=
  if !s.cfg.deferred || !atBoundary s then .next s
  else
    match takeTurn s .boundary (s.surf.bound.flatMap fun x => unbindSpans s (x.1 / 256) (x.1 % 256)) with
    | (false, s0) => .next s0
    | (true, s0) =>
    let s1 := (unbindAll s0).modMem fun m => { m with l2 := [] }
    let total := (List.range 16).foldl (fun n i => n + (ctxOf s1 i).waysP.toNat) 0
    let ok := !s1.cfg.privP || total == 16
    let s2 : State := { s1 with cfg := { s1.cfg with
      deferred := false, priv := s1.cfg.privP && ok, privP := s1.cfg.privP && ok
      ctxs := s1.cfg.ctxs.map fun (i, c) => (i, { c with steps := c.stepsP, ways := c.waysP }) } }
    .next (if s1.cfg.privP && !ok then logEvent s2 0x0200 0x0041 0 (BitVec.ofNat 64 total) 0 else s2)

end Events

end Sys2Proof.Machine
end

