-- ==== Sys2Proof/Machine/Draw.lean ====
section
/-! DEFINITION. The draw pipeline from meshlets to ordered quads: the mesh words (R216, R217, R396 to R399), the
rasteriser (R134 to R138, R218, R219), the crossbar, the cursors and broadcasts (R220, R221, R224) and the launches of
the pixel stage (R222). -/

namespace Sys2Proof.Machine

section Triangles

/-- A transformed vertex (R134): snapped position, depth and 1/w. -/
structure Vtx where
  x : Int
  y : Int
  z : Nat
  rw : Nat
  deriving DecidableEq, Repr

/-- RNE(v × 256) as an integer of 24 bits; none outside them (R134, R135). -/
def snap (v : Nat) : Option Int :=
  match F32.val v with
  | .fin n m ex =>
    if 32 < ex + Nat.log2 m then none
    else
      let q := toIntegral 0 n m (ex + 8)
      if -2 ^ 23 ≤ q ∧ q < 2 ^ 23 then some q else none
  | _ => none

/-- A vertex transformed; none where it discards its triangles (R134, R135). -/
def transform (d : Draw) (v : List Word) : Option Vtx :=
  let c (i : Nat) : Nat := ((v[i]?).getD 0).toNat
  let w := F32.val (c 3)
  let bad := ((List.range 4).any fun i => F32.val (c i) == .nan) || w.isNeg ||
    (match w with
     | .fin _ m _ => m == 0
     | _ => false)
  if bad then none
  else
    let n (i : Nat) : FVal := F32.val (F32.div 0 (c i) (c 3))
    let x := F32.round 0 (fsum 0 [(n 0).mul (F32.val d.hw.toNat), F32.val d.cx.toNat])
    let y := F32.round 0 (fsum 0 [F32.val d.cy.toNat, ((n 1).mul (F32.val d.hh.toNat)).neg])
    let z := F32.round 0 (fsum 0 [(n 2).mul (F32.val d.dz.toNat), F32.val d.oz.toNat])
    match snap x, snap y with
    | some xq, some yq => some ⟨xq, yq, z, F32.div 0 0x3F800000 (c 3)⟩
    | _, _ => none

/-- The edge function (R136). -/
def edge (a b : Vtx) (px py : Int) : Int := (b.x - a.x) * (py - a.y) - (b.y - a.y) * (px - a.x)

/-- A top or a left edge (R137). -/
def topLeft (a b : Vtx) : Bool := (a.y == b.y && decide (a.x < b.x)) || decide (b.y < a.y)

/-- A triangle set up: its vertices in order and twice its area, which is positive (R136). -/
structure Tri3 where
  v0 : Vtx
  v1 : Vtx
  v2 : Vtx
  area : Int
  deriving DecidableEq, Repr

/-- The triangle of three vertices' words, as they stand. -/
def triOf (d : Draw) (verts : List (List Word)) : Option Tri3 :=
  match verts.map (transform d) with
  | [some a, some b, some c] => some ⟨a, b, c, edge a b c.x c.y⟩
  | _ => none

/-- The sample point of a pixel is covered (R137). -/
def Tri3.covers (t : Tri3) (x y : Nat) : Bool :=
  let px : Int := 256 * x + 128
  let py : Int := 256 * y + 128
  let on (a b : Vtx) : Bool :=
    let e := edge a b px py
    decide (0 < e) || (e == 0 && topLeft a b)
  on t.v0 t.v1 && on t.v1 t.v2 && on t.v2 t.v0

/-- The weights of the vertices at a pixel (R138). -/
def Tri3.weights (t : Tri3) (x y : Nat) : List Nat :=
  let px : Int := 256 * x + 128
  let py : Int := 256 * y + 128
  [edge t.v1 t.v2 px py, edge t.v2 t.v0 px py, edge t.v0 t.v1 px py].map fun e =>
    F32.round 0 (if e == 0 then .fin false 0 0 else quot (decide (e < 0)) e.natAbs t.area.natAbs 0)

/-- The sequence of R138 over three values. -/
def interp (b v : List Nat) : Nat :=
  let g (l : List Nat) (i : Nat) : Nat := (l[i]?).getD 0
  let t := F32.mul 0 (g b 2) (g v 2)
  let t := F32.fma 0 (g b 1) (g v 1) t
  F32.fma 0 (g b 0) (g v 0) t

/-- Depth at a pixel (R138). -/
def Tri3.depth (t : Tri3) (x y : Nat) : Nat := interp (t.weights x y) [t.v0.z, t.v1.z, t.v2.z]

/-- An attribute component at a pixel, linear or perspective-correct (R139). -/
def Tri3.attr (t : Tri3) (verts : List (List Word)) (idx : Nat) (persp : Bool) (x y : Nat) : Nat :=
  let b := t.weights x y
  let a := verts.map fun v => ((v[4 + idx]?).getD 0).toNat
  let rw := [t.v0.rw, t.v1.rw, t.v2.rw]
  if persp then F32.div 0 (interp b ((a.zip rw).map fun (p, q) => F32.mul 0 p q)) (interp b rw) else interp b a

/-- The pixel columns or rows whose sample points lie between two coordinates, cut to first ≤ … ≤ last. -/
def spanOf (lo hi : Int) (first last : Nat) : List Nat :=
  let a := Nat.max first ((lo + 127) / 256).toNat
  let b := Nat.min last ((hi - 128) / 256).toNat
  if hi < 128 then [] else (List.range (b + 1 - a)).map (a + ·)

/-- The quads of a triangle, by tile row, tile column, then row-major in the tile (R219): position and coverage. -/
def Tri3.quads (t : Tri3) (d : Draw) (w h : Nat) : List (Nat × Nat × Nat) :=
  let mn (a b c : Int) : Int := if a ≤ b ∧ a ≤ c then a else if b ≤ c then b else c
  let mx (a b c : Int) : Int := if b ≤ a ∧ c ≤ a then a else if c ≤ b then b else c
  let xs := spanOf (mn t.v0.x t.v1.x t.v2.x) (mx t.v0.x t.v1.x t.v2.x) d.sx0 (Nat.min d.sx1 (w - 1))
  let ys := spanOf (mn t.v0.y t.v1.y t.v2.y) (mx t.v0.y t.v1.y t.v2.y) d.sy0 (Nat.min d.sy1 (h - 1))
  let bit (x y k : Nat) : Nat := if xs.contains x && ys.contains y && t.covers x y then 2 ^ k else 0
  let tilesX := distinct (xs.map (· / 8))
  let tilesY := distinct (ys.map (· / 8))
  tilesY.flatMap fun ty => tilesX.flatMap fun tx =>
    (List.range 4).flatMap fun qy => (List.range 4).filterMap fun qx =>
      let x := 8 * tx + 2 * qx
      let y := 8 * ty + 2 * qy
      let cov := bit x y 0 + bit (x + 1) y 1 + bit x (y + 1) 2 + bit (x + 1) (y + 1) 3
      if cov == 0 then none else some (x, y, cov)

end Triangles

section Records

/-- A blend word (R214). -/
def parseBlend (b : Nat) : Blend :=
  ⟨nfld b 63 63 == 1, nfld b 62 59, nfld b 58 55, nfld b 54 52, nfld b 51 48, nfld b 47 44, nfld b 43 41,
   BitVec.ofNat 4 (nfld b 40 37)⟩

/-- The surfaces that a draw uses: slot, and whether it is a colour target. -/
def Draw.uses (d : Draw) : List (Nat × Bool) :=
  ((d.ct.take d.nct).map fun c => (c, true)) ++ (if d.den then [(d.dslot, false)] else [])

/-- The slot of a draw's ordering tiles (R220). -/
def Draw.orderSlot (d : Draw) : Nat := if d.nct == 0 then d.dslot else d.ct.headD 0

/-- A draw state record (R214), judged against the bound surfaces (R215). -/
def parseDraw (s : State) (ctx : Nat) (bs : List Byte) : Draw :=
  let w (i : Nat) : Nat := dwordAt bs (8 * i)
  let word (v hi : Nat) : Word := BitVec.ofNat 32 (nfld v (hi + 31) hi)
  let blends := (List.range 4).map fun t => parseBlend (w (6 + t))
  let d : Draw :=
    { hw := word (w 0) 32, cx := word (w 0) 0, hh := word (w 1) 32, cy := word (w 1) 0, dz := word (w 2) 32,
      oz := word (w 2) 0, sx0 := nfld (w 3) 63 48, sy0 := nfld (w 3) 47 32, sx1 := nfld (w 3) 31 16,
      sy1 := nfld (w 3) 15 0, mcount := nfld (w 4) 63 32, cull := nfld (w 4) 31 30, dfunc := nfld (w 4) 29 27,
      dwrite := nfld (w 4) 26 26 == 1, den := nfld (w 4) 25 25 == 1, nct := nfld (w 4) 24 22,
      nattr := nfld (w 4) 21 17, dslot := nfld (w 4) 7 0,
      ct := [nfld (w 5) 31 24, nfld (w 5) 23 16, nfld (w 5) 15 8, nfld (w 5) 7 0], blend := blends,
      k := [word (w 10) 32, word (w 10) 0, word (w 11) 32, word (w 11) 0], invalid := false }
  let used := blends.take d.nct
  let badField := decide (d.sx1 < d.sx0) || decide (d.sy1 < d.sy0) || d.cull == 3 || decide (4 < d.nct) ||
    decide (16 < d.nattr) || nfld (w 4) 16 8 != 0 || nfld (w 5) 63 32 != 0 || ((bs.drop 96).any (· != 0)) ||
    ((List.range (Nat.min d.nct 4)).any fun t => nfld (w (6 + t)) 36 0 != 0) ||
    used.any fun b => b.srcc == 15 || b.dstc == 15 || b.srca == 15 || b.dsta == 15 || decide (4 < b.opc) || decide (4 < b.opa)
  let stes := d.uses.map fun (slot, colour) => (boundSte s ctx slot, colour)
  let badSlot := stes.any fun (e, colour) => match e with
    | none => true
    | some e => if colour then decide (5 ≤ e.fmt) else e.fmt != 5
  let dims := (stes.filterMap fun (e, _) => e.map fun e => (e.wm1, e.hm1)).eraseDups
  { d with invalid := badField || badSlot || stes.isEmpty || decide (1 < dims.length) }

/-- The draw table as it is read before the first team is placed (R213), each invalid draw with its event (R215). -/
def readDraws (s : State) (plan : Nat) (table : List Byte) : State :=
  let p := s.plan plan
  let ds := (List.range (table.length / 128)).map fun i => parseDraw s p.ctx ((table.drop (128 * i)).take 128)
  (ds.zipIdx).foldl (fun s (d, i) =>
    if d.invalid then logEvent s 0x0200 0x0030 p.ctx (BitVec.ofNat 64 p.addr) (BitVec.ofNat 64 i) else s)
    (s.modPlan plan fun p => { p with draws := ds })

/-- A draw of a plan. -/
def drawAt (s : State) (plan d : Nat) : Option Draw := ((s.plan plan).draws.drop d).head?

end Records

section Mesh

/-- ENGINE_FAULT 0x0C where a word's threads are not of a stage of a DRAW plan (R396). -/
def stageRule (s : State) (r : Ready) (stage : Nat) (k : Eff) : Eff :=
  match r.ths with
  | [] => k
  | t :: _ => if (s.planOf t).draw && (s.launchOf t).stage == stage then k else engineFault (some t) 12

/-- A word of the mesh stage: the stage rule, then the wait for the rasteriser (R217, R396, R399). -/
def meshWord (a : Acc) (s : State) (g : Ready → Eff) : Out :=
  withPrep s a fun r =>
    if r.ths.isEmpty then .ok (plainIssue s r a)
    else stageRule s r 0
      (if r.ths.any fun t => (s.thread t).meshArr || (((s.teamOf t).mesh.map Meshlet.closed).getD false) then .stall s (.meshlet r.ths)
       else g r)

/-- The meshlet that a team builds. -/
def meshOf (s : State) (team : Nat) : Meshlet :=
  let tm := s.team team
  tm.mesh.getD { plan := (s.launch tm.launch).plan, team := team, unit := tm.units.headD 0 }

/-- EMITV (R397). -/
def execEmitv (f : ExtForm) (s : State) : Out :=
  let x := f.x
  let first := fld x.mod 6 2
  let n := fld x.mod 1 0 + 1
  let vs := groupSrcs x.a n false 0
  let a := (engAcc f n 0 0).reads vs
  meshWord a s fun r =>
    match r.ths.find? fun t => decide (128 ≤ (s.thread t).seat) with
    | some t => engineFault (some t) 7
    | none =>
      let c := s.cohort r.id
      let s1 := r.ths.foldl (fun s1 t =>
        let m := meshOf s1 (s.thread t).team
        let verts := (vs.zipIdx).foldl (fun l (v, i) =>
          ainsert l (20 * (s.thread t).seat + first + i) ((srcVal s c t v).setWidth 32)) m.verts
        s1.modTeam m.team fun x => { x with mesh := some { m with verts := verts } }) s
      .ok (plainIssue s1 r a)

/-- Appends triangles in seat order: the state, and the threads that fail (R398). -/
def appendTris (s : State) : List (Nat × Nat) → List Nat × State
  | [] => ([], s)
  | (t, v) :: r =>
    let m := meshOf s (s.thread t).team
    let tri : Tri := ⟨v % 256, v / 256 % 256, v / 65536 % 256⟩
    let bad := decide (128 ≤ tri.a) || decide (128 ≤ tri.b) || decide (128 ≤ tri.c) || decide (256 ≤ m.tris.length)
    let (l, s1) := appendTris (s.modTeam m.team fun x => { x with mesh := some { m with tris := m.tris ++ [tri] } }) r
    (if bad then t :: l else l, s1)

/-- EMITP (R398). -/
def execEmitp (f : ExtForm) (s : State) : Out :=
  let x := f.x
  let v := opndSrc x.a false (x.pbs == 1) (x.km1.toNat + 1)
  let a := (engAcc f 1 0 0).reads [v]
  meshWord a s fun r =>
    let c := s.cohort r.id
    let (bad, s1) := appendTris s ((sortBy (fun t => (s.thread t).seat) r.ths).map fun t => (t, (srcVal s c t v).toNat))
    match r.ths.find? bad.contains with
    | some t => engineFault (some t) 7
    | none => .ok (plainIssue s1 r a)

/-- A pair is out of range, unequal to the first arrival's or not above the team's last (R217). -/
def badPair (s : State) (t d m : Nat) : Bool :=
  let tm := s.teamOf t
  (match drawAt s (s.launchOf t).plan d with
   | none => true
   | some r => decide (r.mcount ≤ m)) ||
  (match tm.mesh.bind Meshlet.pair with
   | some p => p != (d, m)
   | none => false) ||
  (match tm.lastPair with
   | some (a, b) => decide (d * 2 ^ 32 + m ≤ a * 2 ^ 32 + b)
   | none => false)

/-- MESHEND (R399). -/
def execMeshend (f : ExtForm) (s : State) : Out :=
  let n := f.x.a.idx.toNat
  let a := { engAcc f 0 0 0 with uregs := [n] }
  meshWord a s fun r =>
    let v := ((s.cohort r.id).readUreg n).toNat
    let d := v % 2 ^ 32
    let m := v / 2 ^ 32
    match r.ths.find? fun t => badPair s t d m with
    | some t => engineFault (some t) 8
    | none =>
      let s1 := r.ths.foldl (fun s1 t =>
        let ml := meshOf s1 (s.thread t).team
        (s1.modThread t fun x => { x with meshArr := true }).modTeam ml.team fun x =>
          { x with mesh := some { ml with pair := some (d, m) } }) (plainIssue s r a)
      .ok ((distinct (r.ths.map fun t => (s.thread t).team)).foldl meshCheck s1)

end Mesh

section Cursors

/-- The first draw from d on that has pairs that count. -/
def firstDraw (draws : List Draw) (d : Nat) : Nat :=
  match ((draws.drop d).zipIdx).find? fun (r, _) => !r.invalid && r.mcount != 0 with
  | some (_, i) => d + i
  | none => draws.length

/-- The pair after a pair (R224). -/
def nextPair (draws : List Draw) (d m : Nat) : Nat × Nat :=
  match (draws.drop d).head? with
  | some r => if !r.invalid && m + 1 < r.mcount then (d, m + 1) else (firstDraw draws (d + 1), 0)
  | none => (draws.length, 0)

/-- A broadcast's rectangle holds a tile. -/
def Broadcast.inside (b : Broadcast) (k : TileKey) : Bool :=
  match b.rect with
  | some (x0, y0, x1, y1) => decide (x0 ≤ k.tx) && decide (k.tx ≤ x1) && decide (y0 ≤ k.ty) && decide (k.ty ≤ y1)
  | none => false

/-- Every quad of a pair has been sent, so that its end markers are under way (R220). -/
def allSent (s : State) (plan d m : Nat) : Bool :=
  !(s.draw.quads.any fun q => q.plan == plan && q.d == d && q.m == m && q.phase == 0)

/-- A pair whose broadcast is b is done at a tile (R224). -/
def pairDone (s : State) (b : Broadcast) (k : TileKey) (blended : Nat) : Bool :=
  let here := b.arrived.contains k || decide (b.due ≤ s.sched.clk)
  here && (!b.inside k || (b.marked.contains k && blended == ((b.counts.find? fun c => c.1 == k).map Prod.snd).getD 0))

/-- Moves a cursor past done pairs (R217, R224). -/
def advance (s : State) (plan : Nat) (draws : List Draw) (k : TileKey) (d m blended : Nat) : Nat → Nat × Nat × Nat
  | 0 => (d, m, blended)
  | fuel + 1 =>
    if draws.length ≤ d then (d, m, 0)
    else
      match s.draw.bcasts.find? fun b => b.plan == plan && b.d == d && b.m == m with
      | some b =>
        if pairDone s b k blended then
          let (d1, m1) := nextPair draws d m
          advance s plan draws k d1 m1 0 fuel
        else (d, m, blended)
      | none =>
        if s.draw.ended.contains plan && !s.draw.closed.contains (plan, d, m) then
          -- no pair closes any more: on to the least one that has closed
          let later := s.draw.closed.filter fun c => c.1 == plan && decide (d * 2 ^ 32 + m < c.2.1 * 2 ^ 32 + c.2.2)
          match minBy (fun c : Nat × Nat × Nat => c.2.1 * 2 ^ 32 + c.2.2) later with
          | some (_, d1, m1) => advance s plan draws k d1 m1 0 fuel
          | none => (draws.length, 0, 0)
        else (d, m, blended)

/-- The cursor of an ordering tile (R221). R221 gives each tile one cursor and names no plan, and the pairs of two plans are not
ordered with each other: the model keeps a cursor for each plan that draws to the tile (log entry 74, DESIGN CHOICE). -/
def cursorAt (s : State) (plan : Nat) (k : TileKey) : Nat × Nat × Nat :=
  let draws := (s.plan plan).draws
  let fuel := 2 * s.draw.bcasts.length + 2
  match s.draw.cursors.find? fun c => c.plan == plan && c.tile == k with
  | some c => advance s plan draws k c.d c.m c.blended fuel
  | none => advance s plan draws k (firstDraw draws 0) 0 0 fuel

/-- A quad's pair as a number. -/
def Quad.seq (q : Quad) : Nat := q.d * 2 ^ 32 + q.m

/-- The crossbar would let a quad in to its tile now (R221). The limits of 64 and 48 count the quads of the quad's own plan, as its
cursor is the plan's own (log entry 74, DESIGN CHOICE). -/
def admissible (s : State) (q : Quad) : Bool :=
  let (d, m, _) := cursorAt s q.plan q.tile
  let cur := d * 2 ^ 32 + m
  let here := s.draw.quads.filter fun x => x.plan == q.plan && x.tile == q.tile && x.phase != 0
  decide (here.length < 64) &&
  (decide (q.seq ≤ cur) || decide ((here.filter fun x => decide (cur < x.seq)).length < 48))

/-- The first waiting quad of each meshlet that a core's rasteriser has taken. -/
def firstWaiting (s : State) (unit : Nat) : List Quad :=
  let w := s.draw.quads.filter fun q => q.src == unit && q.phase == 0
  w.filter fun q => !(w.any fun x => x.plan == q.plan && x.seq == q.seq && decide (x.id < q.id))

/-- BROADCAST_ARRIVAL (R224): a rectangle, or an end marker once every quad of the pair has been sent, reaches the bank
unit of a tile. -/
def execBroadcastArrival (s : State) : Out :=
  let k := s.sched.arg.tile
  .next { s with draw := { s.draw with
    bcasts := s.draw.bcasts.map fun b =>
      if b.id == s.sched.arg.a then
        { b with
          arrived := if b.arrived.contains k then b.arrived else b.arrived ++ [k]
          marked := if b.inside k && allSent s b.plan b.d b.m && !b.marked.contains k then b.marked ++ [k] else b.marked }
      else b } }

end Cursors

section Raster

/-- A vertex of a meshlet; a word never written reads 0 (R216). -/
def Meshlet.vertex (m : Meshlet) (i : Nat) : List Word := (List.range 20).map fun j => (alookup m.verts (20 * i + j)).getD 0

/-- A triangle set up and its quads, or whether it was discarded (R135, R136, R218). -/
def setUp (d : Draw) (w h : Nat) (m : Meshlet) (t : Tri) : Bool × Bool × List (List Word) × List (Nat × Nat × Nat) :=
  let vs := [m.vertex t.a, m.vertex t.b, m.vertex t.c]
  match triOf d vs with
  | none => (true, false, vs, [])
  | some t3 =>
    let back := decide (t3.area < 0)
    let vs1 := if back then [m.vertex t.a, m.vertex t.c, m.vertex t.b] else vs
    let t4 : Tri3 := if back then ⟨t3.v0, t3.v2, t3.v1, -t3.area⟩ else t3
    if t3.area == 0 || d.cull == (if back then 1 else 2) then (false, back, vs1, [])
    else (false, back, vs1, t4.quads d w h)

/-- Quads as the rasteriser numbers them, each with its ordinal among those of its tile (R219), and the count of each tile. -/
def numberQuads (id : Nat) (counts : List (TileKey × Nat)) :
    List (TileKey × (Nat → Nat → Quad)) → List Quad × List (TileKey × Nat)
  | [] => ([], counts)
  | (k, f) :: r =>
    let n := ((counts.find? fun c => c.1 == k).map Prod.snd).getD 0
    let (l, c) := numberQuads (id + 1) ((k, n + 1) :: counts.filter fun c => c.1 != k) r
    (f id n :: l, c)

/-- RASTERISE_MESHLET (R218): a core's rasteriser takes the smallest closed meshlet, unless a meshlet that it has taken has a
quad that the crossbar would let in. -/
def execRasteriseMeshlet (s : State) : Out :=
  let u := s.sched.arg.a
  let key (m : Meshlet) : Nat := let (d, k) := m.pair.getD (0, 0); d * 2 ^ 32 + k
  match minBy key (s.core u).closed with
  | none => .next s
  | some m =>
    let (d, k) := m.pair.getD (0, 0)
    match drawAt s m.plan d with
    | none => .next s
    | some dr =>
      if (firstWaiting s u).any (admissible s) then .next s
      else
        let ctx := (s.plan m.plan).ctx
        let e := boundSte s ctx dr.orderSlot
        let w := (e.map fun e => e.width 0).getD 0
        let h := (e.map fun e => e.height 0).getD 0
        let tris := (m.tris.map (setUp dr w h m)).zipIdx
        let discarded := (tris.filter fun (t, _) => t.1).length
        let mk (prim x y cov : Nat) (back : Bool) (vs : List (List Word)) (id n : Nat) : Quad :=
          { id := id, plan := m.plan, d := d, m := k, prim := prim, x := x, y := y, cov := BitVec.ofNat 4 cov,
            back := back, tile := tileAt ctx dr.orderSlot 0 x y, ordinal := n, verts := vs, src := u }
        let todo := tris.flatMap fun ((_, back, vs, qs), prim) => qs.map fun (x, y, cov) =>
          (tileAt ctx dr.orderSlot 0 x y, mk prim x y cov back vs)
        let id0 := s.sched.next
        let (quads, counts) := numberQuads (id0 + 1) [] todo
        let txs := counts.map fun c => c.1.tx
        let tys := counts.map fun c => c.1.ty
        let lo (l : List Nat) : Nat := l.foldl Nat.min (l.headD 0)
        let hi (l : List Nat) : Nat := l.foldl Nat.max 0
        let b : Broadcast :=
          { id := id0, plan := m.plan, d := d, m := k
            rect := if counts.isEmpty then none else some (lo txs, lo tys, hi txs, hi tys)
            counts := counts, due := s.sched.clk + 64 }
        let s1 := s.modSched fun x => { x with next := id0 + 1 + quads.length }
        let s2 := s1.modCore u fun c => { c with
          closed := c.closed.erase m
          evras := BitVec.ofNat 64 (Nat.min (2 ^ 64 - 1) (c.evras.toNat + discarded)) }
        let s3 : State := { s2 with draw := { s2.draw with
          quads := s2.draw.quads ++ quads, bcasts := s2.draw.bcasts ++ [b] } }
        -- taken: the team's buffer is empty again (R399)
        if (s3.team m.team).mesh == some m then
          .next ((s3.team m.team).threads.foldl (fun s t => s.modThread t fun x => { x with meshArr := false })
            (s3.modTeam m.team fun x => { x with mesh := none }))
        else .next s3

/-- QUAD_ADMISSION (R220, R221): the first waiting quad of a meshlet, when no smaller meshlet of the same rasteriser has one
that could be admitted, goes to the core whose column holds its ordering tile. -/
def execQuadAdmission (s : State) : Out :=
  match s.draw.quads.find? fun q => q.id == s.sched.arg.a with
  | none => .next s
  | some q =>
    let first := firstWaiting s q.src
    if first.contains q && admissible s q &&
        !(first.any fun x => decide (x.seq < q.seq) && admissible s x) then
      .next { s with draw := { s.draw with quads := s.draw.quads.map fun x =>
        if x.id == q.id then { x with phase := 1, admitted := s.sched.clk, unit := homeColumn s q.tile } else x } }
    else .next s

end Raster

section PixelLaunches

/-- Quads that wait on a core for a pixel-stage launch of a plan, in admission order. -/
def waitingQuads (s : State) (unit plan : Nat) : List Quad :=
  sortBy Quad.admitted (s.draw.quads.filter fun q => q.plan == plan && q.unit == unit && q.phase == 1)

/-- The pixel stage of a plan: its batch and its extent. -/
def pixelStage (p : Plan) : Option Stage := (p.stages.drop 1).head?

/-- Forms a launch of the pixel stage from the quads that wait on a core (R222). -/
def formPixelLaunch (s : State) (unit plan : Nat) (st : Stage) : State :=
  let ext := (st.levels.head?.map Level.extent).getD 4
  let qs := ((waitingQuads s unit plan).take (ext / 4)).map Quad.id
  let (id, s1) := s.newId
  let la : Launch :=
    { plan := plan, stage := 2
      levels := st.levels.map fun l => { l with extent := 4 * qs.length }
      teamlv := 0, total := 4 * qs.length, teamSize := 4 * qs.length, entryix := st.entryix, quads := qs, fixed := some unit }
  { s1 with
    work := { s1.work with launches := ainsert s1.work.launches id la }
    draw := { s1.draw with quads := s1.draw.quads.map fun q => if qs.contains q.id then { q with phase := 2 } else q } }

/-- A plan is pre-empted: it has teams, and every one leaves or is saved (R230, log entry 70). -/
def planAway (s : State) (plan : Nat) : Bool :=
  let ts := (s.work.teams.map Prod.snd).filter fun t => !t.exited && (s.launch t.launch).plan == plan
  !ts.isEmpty && ts.all fun t => t.leaving.isSome || t.save.isSome

/-- The plans with quads that wait on a core, with their pixel stages; the quads of a plan that is pre-empted are delivered again
when it resumes (R230). -/
def pixelPlans (s : State) (unit : Nat) : List (Nat × Stage) :=
  ((distinct ((s.draw.quads.filter fun q => q.unit == unit && q.phase == 1).map Quad.plan)).filter fun p => !planAway s p).filterMap
    fun p => (pixelStage (s.plan p)).map fun st => (p, st)

/-- PIXEL_LAUNCH (R222): BATCH quads of a plan wait on a core. -/
def execPixelLaunch (s : State) : Out :=
  let u := s.sched.arg.a
  match (pixelPlans s u).find? fun (p, st) => decide (st.batch ≤ (waitingQuads s u p).length) with
  | some (p, st) => .next (formPixelLaunch s u p st)
  | none => .next s

/-- PIXEL_LAUNCH_AGE (R222): the oldest quad that waits on a core has waited AGE cycles. -/
def execPixelLaunchAge (s : State) : Out :=
  let u := s.sched.arg.a
  match (pixelPlans s u).find? fun (p, _) =>
      ((waitingQuads s u p).head?.map fun q => decide (q.admitted + (s.plan p).age ≤ s.sched.clk)).getD false with
  | some (p, st) => .next (formPixelLaunch s u p st)
  | none => .next s

end PixelLaunches

end Sys2Proof.Machine
end

