-- ==== Sys2Proof/Machine/Plans.lean ====
section
/-! DEFINITION. Lesson plans as the dispatcher reads them (R17 to R28, R57, R58, R213, R216, R222). -/

namespace Sys2Proof.Machine

section Levels

/-- Thread counts T₀ to T_NLEV (R25). -/
def threadCounts : List Level → List Nat
  | [] => [1]
  | l :: r =>
    let ts := threadCounts r
    l.extent * ts.headD 1 :: ts

/-- The thread count of an instance of a level (R25). -/
def countAt (ls : List Level) (n : Nat) : Nat := (threadCounts ls).getD n 1

/-- A level entry (R21). -/
def parseLevel (w : Nat) : Level := ⟨nfld w 63 32, nfld w 31 29, nfld w 28 26⟩

/-- The fields of a level entry are in range (R21). -/
def Level.inRange (l : Level) : Bool := l.extent != 0 && decide (l.domain ≤ 4) && decide (l.scope ≤ 5)

/-- Each level is no narrower than the next (R25, item 5). -/
def nested : List Level → Bool
  | a :: b :: r => decide (b.domain ≤ a.domain) && nested (b :: r)
  | _ => true

/-- A level structure is legal (R25). -/
def legalLevels (ls : List Level) (t : Nat) : Bool :=
  let dt := (ls[t]?.map Level.domain).getD 5
  decide (countAt ls 0 ≤ 2 ^ 32) && (dt == 1 || dt == 2) && decide (countAt ls t ≤ 2048) && nested ls &&
  (ls.zipIdx).all fun (l, n) =>
    (if n < t then decide (3 ≤ l.domain) else decide (l.domain ≤ dt)) &&
    (l.domain != 0 || decide (countAt ls n ≤ 32)) && decide (l.domain ≤ l.scope)

end Levels

section Parse

/-- Kibibytes of a carve-out setting's scratchpad (R144). -/
def menuKiB (menu : Nat) : Nat := scratchBytes menu / 1024

/-- What a part of a plan record breaks: reason codes (R28). -/
def codeIf (b : Bool) (code : Nat) : List Nat := if b then [code] else []

/-- The entry of stage i + 1 (R57) and the codes it breaks; of stage 1 of a DRAW plan, a fixed stage, only BATCH and QUEUE
are read (R58). A STG.QUEUE that is not 32-byte aligned breaks the stage structure, 0x06 (log entry 63). -/
def parseStage (draw : Bool) (i : Nat) (e : List Byte) : Stage × List Nat :=
  let w0 := dwordAt e 0
  let w1 := dwordAt e 8
  let fixed := nfld w0 48 48 == 1
  let nlev := nfld w0 55 52
  let teamlv := nfld w0 51 49
  let lws := (List.range (Nat.min nlev 8)).map fun i => dwordAt e (16 + 8 * i)
  let levels := lws.map parseLevel
  let st : Stage := { batch := nfld w0 63 56, levels := levels, teamlv := teamlv, fixed := fixed, entryov := nfld w0 47 32,
                      entryix := nfld w0 31 16, queue := nfld w1 51 0 }
  let body :=
    if fixed && draw && i == 0 then []
    else
      codeIf (nfld w0 15 0 != 0 || nfld w1 63 52 != 0 || ((e.drop 0x50).any (· != 0)) || lws.any fun w => w % 2 ^ 26 != 0) 0x01 ++
      codeIf (nlev == 0 || decide (8 < nlev) || decide (nlev ≤ teamlv) || !levels.all Level.inRange || !legalLevels levels teamlv) 0x06
  (st, body ++ codeIf (st.batch == 0 || st.queue % 32 != 0) 0x06)

/-- The rules of a DRAW plan's stages and resources (R58, R213, R216, R222). -/
def drawBroken (stages : List Stage) (levels : List Level) (teamlv menu spwin : Nat) (win7 : Option (Nat × Nat)) : Bool :=
  let shape := match stages with
    | [a, b] =>
      a.fixed && !b.fixed && b.teamlv == 0 &&
      (match b.levels with
       | [l] => l.domain == 1 && l.extent % 4 == 0 && decide (4 ≤ l.extent) && decide (l.extent ≤ 2048) &&
           decide (4 * b.batch ≤ l.extent)
       | _ => false)
    | _ => false
  let table := match win7 with
    | some (_, n) => n != 0 && n % 128 == 0
    | none => false
  !shape || !table || (levels[teamlv]?.map Level.domain) != some 1 || decide (menuKiB menu < spwin + 12)

/-- A queued plan as its record gives it, with the codes of every condition that it breaks (R17 to R28); a record that cannot
be read breaks 0x05 alone. Of the overlay table the header is read, its entries only by the loads (log entry 62); the context's
surface table and the draw table are read as the first team is placed (R159, R213), or to tell the lowest code of a plan that is
rejected before (`rejectLowest`). -/
def parsePlan (s : State) (p : Plan) : Plan × List Nat :=
  match readHome s p.ctx p.addr 512 with
  | none => (p, [0x05])
  | some bs =>
    let w (off : Nat) : Nat := dwordAt bs off
    let ctl := w 0
    let ovtab := w 8
    let ent := w 0x10
    let res := w 0x18
    let draw := nfld ctl 63 60 == 1
    let nlev := nfld ctl 53 50
    let teamlv := nfld ctl 49 47
    let nstage := nfld ctl 46 44
    let menu := nfld ctl 43 41
    let passk := nfld ctl 40 38
    let npass := nfld ctl 37 35
    let sigen := nfld ctl 32 32 == 1
    let bound (i : Nat) : Bool := (nfld ctl 31 24).testBit i
    let waitOn (i : Nat) : Bool := (nfld ctl 23 16).testBit i
    let lws := (List.range (Nat.min nlev 8)).map fun i => w (0x20 + 8 * i)
    let pws := (List.range (Nat.min npass 4)).map fun i => w (0x60 + 8 * i)
    let wws := ((List.range 8).filter bound).map fun i => (i, w (0x80 + 16 * i), w (0x88 + 16 * i))
    let cws := ((List.range 8).filter waitOn).map fun i => (w (0x100 + 16 * i), w (0x108 + 16 * i))
    let signal := w 0x180
    let stages := w 0x188
    let rowmin := nfld res 55 48
    let rowmax := nfld res 47 40
    let acct := nfld res 39 36
    let spwin := nfld res 24 16
    let levels := lws.map parseLevel
    let names := pws.map fun x => nfld x 38 32
    let reserved := nfld ctl 15 0 != 0 || nfld ovtab 63 52 != 0 || nfld res 63 56 != 0 || nfld res 35 25 != 0 || nfld res 15 0 != 0 ||
      (lws.any fun x => x % 2 ^ 26 != 0) || (pws.any fun x => nfld x 63 39 != 0) ||
      (wws.any fun x => nfld x.2.1 63 52 != 0 || nfld x.2.2 63 32 != 0) || (cws.any fun x => nfld x.1 63 12 != 0) ||
      (sigen && nfld signal 63 12 != 0) || (nstage != 0 && nfld stages 63 52 != 0) || (bs.drop 0x190).any (· != 0)
    let range := decide (1 < nfld ctl 63 60) || nlev == 0 || decide (8 < nlev) || decide (nlev ≤ teamlv) || decide (4 < menu) ||
      decide (4 < passk) || decide (4 < npass) || ovtab % 8 != 0 || rowmin == 0 || decide (128 < rowmin) || decide (rowmax < rowmin) ||
      decide (128 < rowmax) || decide (8 < acct) || decide (menuKiB menu < spwin) || (wws.any fun x => x.2.1 % 16 != 0) ||
      (nstage != 0 && stages % 128 != 0) || !levels.all Level.inRange
    let structure_ := levels.all Level.inRange && decide (teamlv < levels.length) && !legalLevels levels teamlv
    let passes := (npass == 0) != (passk == 0) || (distinct names).length != names.length || names.any fun n => decide (rowmax ≤ n)
    let ents := (List.range nstage).map fun j => readHome s p.ctx (nfld stages 51 0 + 128 * j) 128
    let parsed := ents.zipIdx.filterMap fun (e, i) => e.map (parseStage draw i)
    let sts := parsed.map Prod.fst
    let wins : AMap (Nat × Nat) := wws.map fun x => (x.1, nfld x.2.1 51 0, nfld x.2.2 31 0)
    let readable := (readHome s p.ctx (nfld ovtab 51 0) 32).isSome
    let codes := codeIf reserved 0x01 ++ codeIf range 0x02 ++ codeIf structure_ 0x03 ++ codeIf passes 0x04 ++
      codeIf (!readable || ents.any Option.isNone) 0x05 ++ parsed.flatMap Prod.snd ++
      codeIf (!draw && sts.any Stage.fixed) 0x06 ++
      codeIf (draw && (ents.all Option.isSome || nstage != 2) && drawBroken sts levels teamlv menu spwin (alookup wins 7)) 0x06
    let age := nfld ent 31 0
    ({ p with
        draw := draw, prio := nfld ctl 59 57, menu := menu, passk := passk, check := nfld ctl 34 34 == 1
        restart := nfld ctl 33 33 == 1, sigen := sigen, ovtab := nfld ovtab 51 0, entryov := nfld ent 63 48
        entryix := nfld ent 47 32, age := if age == 0 then 1024 else Nat.max age 64, rowmin := rowmin, rowmax := rowmax
        acct := acct, spwin := spwin, levels := levels, teamlv := teamlv
        pass := pws.map fun x => (nfld x 38 32, BitVec.ofNat 32 x), wins := wins
        waits := cws.map fun x => (nfld x.1 11 0, x.2), signal := nfld signal 11 0, stages := sts, parsed := true }, codes)

/-- What is read of memory beside a plan's own record: its context's table and its draw table (R159, R213). -/
def tableRanges (s : State) (p : Plan) : List (Nat × Nat) :=
  let a := (ctxOf s p.ctx).stab.toNat
  (if a == 0 then [] else [(a, 8192)]) ++
    match p.draw, alookup p.wins 7 with
    | true, some x => [x]
    | _, _ => []

/-- The context's table or the draw table of a plan of which no team has been placed cannot be read (R28, R159, R213). -/
def tablesUnread (s : State) (p : Plan) : Bool :=
  !p.begun && (tableRanges s p).any fun (a, n) => (readHome s p.ctx a n).isNone

/-- Rejects a plan, read as p, with a reason, or with 0x05 where that is lower and a table cannot be read either (R28). -/
def rejectLowest (s : State) (plan : Nat) (p : Plan) (arg1 : Nat) : State :=
  if 5 < arg1 % 256 && tablesUnread s p then rejectPlan (visitAll s p.ctx (tableRanges s p)) plan 0x05
  else rejectPlan s plan arg1

/-- What is read of memory for a plan at the head of its queue: its record, the header of its overlay table, its stage entries
(R28). -/
def planRanges (s : State) (p : Plan) : List (Nat × Nat) :=
  match readHome s p.ctx p.addr 512 with
  | none => []
  | some bs =>
    (p.addr, 512) :: (nfld (dwordAt bs 8) 51 0, 32) ::
      (List.range (nfld (dwordAt bs 0) 46 44)).map fun j => (nfld (dwordAt bs 0x188) 51 0 + 128 * j, 128)

/-- The launch of a level structure (R16). -/
def launchOf (plan stage : Nat) (ls : List Level) (teamlv entryix : Nat) : Launch :=
  { plan := plan, stage := stage, levels := ls, teamlv := teamlv, total := countAt ls 0, teamSize := countAt ls teamlv,
    entryix := entryix }

/-- The heads of the launch queues are read (R28): one that breaks a condition is rejected with the lowest code, and the next
plan becomes the head; another gets its stage 0 launch; a read waits for its turn (R171, R178). The placements for
which a head has waited (R32) count from when it is read as head (log entry 61). -/
def examineHead (q : Nat) (s : State) : Nat → State
  | 0 => s
  | fuel + 1 =>
    match ((alookup s.work.queues q).getD []).head? with
    | none => s
    | some id =>
      let (p, codes) := parsePlan s (s.plan id)
      let code := minBy (fun x => x) codes
      let rs := planRanges s (s.plan id)
      -- the tables are read too where a lower code than the one found could come of them
      let more := if 5 < code.getD 0 then tableRanges s p else []
      if (s.plan id).parsed then s
      else
        match admitRanges s (.plan id 0) p.ctx (rs ++ more) with
        | (false, s1) => s1
        | (true, s1) =>
        let s0 := visitAll s1 p.ctx rs
        match code with
        | some c => examineHead q (rejectLowest s0 id p c) fuel
        | none =>
          let (l, s1) := (s0.modPlan id fun _ => p).newId
          { s1 with work := { s1.work with
            launches := ainsert s1.work.launches l (launchOf id 0 p.levels p.teamlv p.entryix)
            since := ainsert s1.work.since q 0 } }

/-- Every launch queue's head is read. -/
def examineHeads (s : State) : State :=
  (List.range 8).foldl (fun s q => examineHead q s (((alookup s.work.queues q).getD []).length)) s

/-- A plan is at the head of its queue, and every wait of it is satisfied (R31). -/
def eligibleHead (s : State) (id : Nat) : Bool :=
  let p := s.plan id
  p.parsed && ((alookup s.work.queues p.queue).getD []).head? == some id &&
  p.waits.all fun (c, t) => decide (t ≤ (counterAt s c).toNat)

/-- A plan that a LAUNCH names enters its queue, or is answered otherwise (R31): the reply's status. -/
def submitPlan (s : State) (ctx addr : Nat) : Nat × State :=
  match readHome s ctx addr 8 with
  | none => (0x09, logEvent s 0x0200 0x0001 ctx (BitVec.ofNat 64 addr) 0x05)
  | some bs =>
    let q := nfld (leNat bs) 56 54
    let l := (alookup s.work.queues q).getD []
    if 256 ≤ l.length then (0x01, s)
    else
      let (id, s1) := (visitHome s ctx addr 8).newId
      (0x00, { s1 with work := { s1.work with
        plans := ainsert s1.work.plans id { Plan.nil with addr := addr, ctx := ctx, queue := q }
        queues := ainsert s1.work.queues q (l ++ [id]) } })

end Parse

end Sys2Proof.Machine
end

