-- ==== Sys2Proof/Machine/Loads.lean ====
section
/-! DEFINITION. The end of an overlay load (R93, R281, R300) and what it means for a plan whose entry overlay it is (R35). -/

namespace Sys2Proof.Machine

/-- A load for the dispatcher has ended (R35): for want of slots or quota the core is passed over in this placement
decision; another failure rejects the plan or, once a team has been placed, ends it. A stage given as 256 more is that of a
team to be placed again, for which any failure passes over the core (R416). -/
def dispatcherLoaded (unit st : Nat) (s : State) (d : Nat × Nat) : State :=
  let p := s.plan d.1
  if st == 0 || p.killed || p.done then s
  else if 256 ≤ d.2 then s.modPlan d.1 fun p => { p with noSlot := p.noSlot ++ [(unit, d.2 - 256)] }
  else if st == 0x10 || st == 0x11 then s.modPlan d.1 fun p => { p with noSlot := p.noSlot ++ [(unit, d.2)] }
  else if p.begun then killPlan s d.1 st
  else rejectLowest s d.1 (s.plan d.1) (st * 256 + 0x07)

/-- Ends a load with a status: every requester sees the outcome (R93). -/
def endLoad (s : State) (unit st : Nat) (l : Load) : State :=
  let s2 := s.modCore unit fun k => { k with
    loads := k.loads.filter fun x => x.id != l.id
    images := k.images.map fun i => if i.reserved == some l.id then { i with reserved := none } else i
    lastLoads := ⟨l.ref, st, if l.share then some (l.len, l.digest) else none⟩ :: k.lastLoads.filter fun x => x.ref != l.ref }
  let s3 := l.tags.foldl (fun s (t, _) => tagDone s unit t (st != 0)) s2
  let s4 := (s3.work.cohorts.map Prod.fst).foldl (wakeCallo unit l.ref st) s3
  l.disp.foldl (dispatcherLoaded unit st) s4

/-- A load completes, and those that have joined it (R93). -/
def completeLoad (s : State) (unit : Nat) (l : Load) : State :=
  let (st, s1) := finishLoad s unit l
  ((s.core unit).loads.filter fun x => x.follows == some l.id).foldl (fun s x =>
    let (st1, s1) := followLoad s unit st x
    endLoad s1 unit st1 x) (endLoad s1 unit st l)

/-- What a load accesses of its image (R178). -/
def imageSpans (s : State) (unit : Nat) (l : Load) : List (Nat × Nat) :=
  if l.fail.isSome then [] else overlaySpans s unit l.ref.tenant l.priv l.image l.len 66

/-- OVERLAY_LOAD_COMPLETE (R93): its data names the unit and the load, which goes on with its first steps if it had to wait for
them. -/
def execOverlayLoadComplete (s : State) : Out :=
  let u := s.sched.arg.a
  match (s.core u).loads.find? fun l => l.id == s.sched.arg.b && l.follows.isNone with
  | none => .next s
  | some l =>
    .next <|
      if l.unread then enterLoad (s.modCore u fun k => { k with loads := k.loads.filter fun x => x.id != l.id }) u { l with unread := false }
      else
        match takeTurn s (.req l.id) (imageSpans s u l) with
        | (false, s1) => s1
        | (true, s1) => completeLoad s1 u l

end Sys2Proof.Machine
end

