-- ==== Sys2Proof/Machine/Matrix.lean ====
section
/-! DEFINITION. The matrix array (R121 to R126, R203 to R212) and its words (R380 to R387). -/

namespace Sys2Proof.Machine

section Shapes

/-- K of a weight format (R205, R381). -/
def mxDepth (fmt : Nat) : Nat := if fmt ≤ 1 then 64 else if fmt ≤ 4 then 128 else if fmt == 5 then 256 else if fmt == 6 then 512 else 1024

/-- Bits of an integer weight (R381). -/
def mxBits (fmt : Nat) : Nat := if fmt == 4 then 8 else if fmt == 5 then 4 else if fmt == 6 then 2 else 1

/-- Bytes of a stream's row (R382). -/
def rowBytes (afmt k : Nat) : Nat := if afmt ≤ 1 then 2 * k else if afmt ≤ 4 then k else k / 2

/-- Bytes of a drained element (R384). -/
def outBytes (out : Nat) : Nat := if out == 0 || out == 5 then 4 else if out ≤ 2 then 2 else 1

/-- The format of a float stream or weight by code: BF16, F16, F8A, F8B (R381, R382). -/
def mxFmt (code : Nat) : Fmt := if code == 0 then BF16 else if code == 1 then F16 else if code == 2 then F8A else F8B

/-- The stream format fits the half's mode (R124). -/
def mxFits (afmt fmt : Nat) : Bool := decide (afmt ≤ 3) == decide (fmt ≤ 3)

end Shapes

section Compute

/-- A weight of a latched tile (R164, R205): a float pattern, or an offset-binary value. -/
def weightAt (h : LatchHalf) (k n : Nat) : Nat :=
  let b (i : Nat) : Nat := (h.tile.getD i 0).toNat
  if h.fmt ≤ 1 then b (2 * (64 * k + n)) + 256 * b (2 * (64 * k + n) + 1)
  else if h.fmt ≤ 3 then b (64 * k + n)
  else (List.range (mxBits h.fmt)).foldl (fun v p =>
    v + 2 ^ p * ((b (8 * mxDepth h.fmt * p + 8 * k + n / 8) / 2 ^ (n % 8)) % 2)) 0

/-- An activation of a row of a stream's bytes (R207). -/
def activation (afmt : Nat) (row : List Byte) (k : Nat) : Nat :=
  let b (i : Nat) : Nat := (row.getD i 0).toNat
  if afmt ≤ 1 then b (2 * k) + 256 * b (2 * k + 1)
  else if afmt ≤ 4 then b k
  else b (k / 2) / 16 ^ (k % 2) % 16

/-- BlockSum of 16 products (R121). -/
def blockSum (l : List FVal) : Nat :=
  match fsum 0 l with
  | .fin n m e => if m == 0 then 0 else F32.round 0 (.fin n m e)
  | v => F32.round 0 v

/-- An accumulator element after one K-block of 16 (R121, R124). -/
def accStep (h : LatchHalf) (afmt : Nat) (row : List Byte) (za : Nat) (b n : Nat) (acc : Nat) : Nat :=
  let ks := (List.range 16).map fun i => 16 * b + i
  if afmt ≤ 3 then
    F32.add 0 acc (blockSum (ks.map fun k => ((mxFmt afmt).val (activation afmt row k)).mul ((mxFmt h.fmt).val (weightAt h k n))))
  else
    let w := mxBits h.fmt
    let zw := (h.zp.getD n 0).toNat % 2 ^ w
    let za := if afmt == 5 then za % 16 else za
    wrapTo 32 (ks.foldl (fun (v : Int) k =>
      v + ((activation afmt row k : Int) - za) * ((weightAt h k n : Int) - zw)) (acc : Int))

/-- The key of an accumulator element. -/
def accKey (tile row col : Nat) : Nat := 8192 * tile + 64 * row + col

/-- An accumulator element; an unlisted one is +0. -/
def accAt (m : Matrix) (tile row col : Nat) : Nat := ((alookup m.tiles (accKey tile row col)).getD 0).toNat

/-- Sets an accumulator element. -/
def setAcc (m : Matrix) (tile row col v : Nat) : Matrix :=
  let k := accKey tile row col
  let w := BitVec.ofNat 32 v
  { m with tiles := if w = 0 then aerase m.tiles k else ainsert m.tiles k w }

/-- Every element of some rows of a tile is replaced. -/
def mapRows (m : Matrix) (tile : Nat) (rows : List Nat) (f : Nat → Nat → Nat) : Matrix :=
  rows.foldl (fun m r => (List.range 64).foldl (fun m n => setAcc m tile r n (f r n)) m) m

/-- MDRAIN's value of an element (R126). -/
def drained (out : Nat) (int : Bool) (cs rs acc : Nat) : Nat :=
  if out == 5 then acc
  else
    let x := if int then F32.round 0 (FVal.ofInt (toSigned 32 acc)) else acc
    convert 0 out 0 (F32.mul 0 (F32.mul 0 x cs) rs)

end Compute

section Issue

/-- A matrix command's operands in scratchpad: offset, alignment, bytes, whether written. -/
structure Span where
  off : Nat
  align : Nat
  bytes : Nat
  write : Bool := false
  deriving DecidableEq, Repr

/-- The operands of a command, whose half has the issued format `hf` (R381 to R384). -/
def mxSpans (m : MCmd) (hf : Nat) : List Span :=
  match m.op with
  | 0 => ⟨m.pa, 256, 8192, false⟩ :: (if m.unit then [] else [⟨m.pb, 16, 256, false⟩]) ++
      (if 4 ≤ m.fmt then [⟨m.pc, 16, 64, false⟩] else [])
  | 1 => ⟨m.pa, 64, m.rows * rowBytes m.fmt (mxDepth hf), false⟩ :: (if 4 ≤ m.fmt then [⟨m.pb, 1, m.rows, false⟩] else [])
  | 4 => ⟨m.pa, 64, 8192 * outBytes m.fmt, true⟩ :: (if m.unit || m.fmt == 5 then [] else [⟨m.pb, 16, 512, false⟩])
  | _ => []

/-- The half that a command reads. -/
def mxReads (m : MCmd) : Option Nat := if m.op == 1 || (m.op == 4 && !m.nocs) then some m.half else none

/-- The tiles that a command names. -/
def mxTiles (m : MCmd) : List Nat := if m.op == 0 then [] else if m.op == 2 then [m.acc, m.src] else [m.acc]

/-- The checks of a matrix command at issue (R210, R379): alignment, then the causes in ascending order. -/
def mxCheck (s : State) (unit t : Nat) (m : MCmd) : Option Eff :=
  let issued (h : Nat) : Option Nat := alookup (s.core unit).mx.issued h
  let hf := ((mxReads m).bind issued).getD 0
  let spans := mxSpans m hf
  let acct := (s.planOf t).acct
  match spans.find? fun x => x.off % x.align != 0 with
  | some x =>
    -- the width that the record gives such an operand is free (log entry 2)
    let w := Config.freeNat s.sched.fresh % 256
    some (.trap .misaligned
      { thread := some t, i0 := BitVec.ofNat 64 x.off,
        i1 := BitVec.ofNat 64 (0xFF * 2 ^ 24 + w * 2 ^ 16 + 2 ^ 8 + x.write.toNat) })
  | none =>
    if acct == 0 || (mxTiles m).any (fun a => decide (acct ≤ a)) then some (engineFault (some t) 1)
    else if ((mxReads m).map fun h => (issued h).isNone) == some true then some (engineFault (some t) 2)
    else if m.op == 1 && !mxFits m.fmt hf then some (engineFault (some t) 3)
    else if spans.any fun x => decide (windowBytes s t < x.off + x.bytes) then some (engineFault (some t) 4)
    else none

/-- Commands of the queue that have not started (R209). -/
def mxWaiting (m : Matrix) : List MCmd := m.queue.filter fun c => c.due.isNone

/-- A command enters the queue; an MWLD is the issued state of its half from then on (R380). -/
def mxEnter (s : State) (unit : Nat) (c : MCmd) : State :=
  let (n, s1) := s.newId
  s1.modCore unit fun k => { k with mx := { k.mx with
    queue := k.mx.queue ++ [{ c with id := n }]
    issued := if c.op == 0 then ainsert k.mx.issued c.half c.fmt else k.mx.issued } }

/-- The opcode of a matrix command (R378). -/
def mxCode (op : Nat) : Nat := [0x80, 0x82, 0x86, 0x87].getD op 0x88

/-- The operands that a matrix word of an opcode reads, nothing in a field that must be zero (R378). -/
def mxSrcs (code : Nat) (x : Ext) : List Src :=
  let i := (extInfo 3 code).getD {}
  let k := x.km1.toNat + 1
  [extSrc x.a (i.ua x) false (x.pbs == 1) k, extSrc x.b (i.ub x) false (x.pbs == 2) k, extSrc x.c (i.uc x) false (x.pbs == 3) k]

/-- The command of a word, with the acting thread's operand values. -/
def mxCmd (s : State) (c : Cohort) (t : Nat) (x : Ext) (op rows : Nat) : MCmd :=
  let v (i : Nat) : Nat := (srcVal s c t ((mxSrcs (mxCode op) x).getD i .zero)).toNat % 2 ^ 32
  let md (hi lo : Nat) := fld x.mod hi lo
  let base : MCmd := { id := 0, op := op, team := (s.thread t).team, unit := bitOf x.imm 7, pa := v 0, pb := v 1, pc := v 2,
                       tag := if bitOf x.imm 6 then some (fld x.imm 5 0) else none }
  match op with
  | 0 => { base with half := md 9 9, fmt := md 8 6 }
  | 1 => { base with half := md 9 9, fmt := md 8 6, acc := md 5 3, row0 := md 2 0 * rows, rows := rows }
  | 2 => { base with int := bitOf x.mod 6, acc := md 5 3, src := md 2 0 }
  | 3 => { base with acc := md 5 3 }
  | _ => { base with int := bitOf x.mod 9, fmt := md 8 6, acc := md 5 3, half := md 2 2, nocs := bitOf x.mod 1 }

/-- The accesses of a matrix word of an opcode: it acts once for the cohort (R379). -/
def mxAcc (code : Nat) (f : ExtForm) : Acc := { (engAcc f 1 1 1).reads (mxSrcs code f.x) with once := true }

/-- A matrix command word (R380 to R384). -/
def mxWord (f : ExtForm) (op rows : Nat) (s : State) : Out :=
  let a := mxAcc (mxCode op) f
  withPrep s a fun r =>
    match actingThread s r.ths with
    | none => .ok (plainIssue s r a)
    | some t =>
      let c := s.cohort r.id
      if 16 ≤ (mxWaiting (s.core c.unit).mx).length then .stall s .matrixQueue
      else
        let m := mxCmd s c t f.x op rows
        match mxCheck s c.unit t m with
        | some e => e
        | none =>
          let s1 := match m.tag with
            | some n => tagIssue s c.unit n
            | none => s
          .ok (plainIssue (mxEnter s1 c.unit m) r a)

def execMwld (f : ExtForm) (s : State) : Out := mxWord f 0 0 s
def execMma16 (f : ExtForm) (s : State) : Out := mxWord f 1 16 s
def execMma32 (f : ExtForm) (s : State) : Out := mxWord f 1 32 s
def execMma64 (f : ExtForm) (s : State) : Out := mxWord f 1 64 s
def execMma128 (f : ExtForm) (s : State) : Out := mxWord f 1 128 s
def execMacc (f : ExtForm) (s : State) : Out := mxWord f 2 0 s
def execMzero (f : ExtForm) (s : State) : Out := mxWord f 3 0 s
def execMdrain (f : ExtForm) (s : State) : Out := mxWord f 4 0 s

/-- MSTAGE (R385). -/
def execMstage (f : ExtForm) (s : State) : Out :=
  let x := f.x
  let a := mxAcc 0x81 f
  let cmd := fld x.imm 15 13
  let slot := fld x.imm 12 11
  withPrep s a fun r =>
    match actingThread s r.ths with
    | none => .ok (plainIssue s r a)
    | some t =>
      let c := s.cohort r.id
      match (alookup (s.core c.unit).mx.slots slot).getD .empty with
      | .occupied _ => .stall s (.staged slot)
      | _ =>
        let m := { mxCmd s c t x (if cmd == 0 then 0 else 1) (2 ^ (3 + cmd)) with tag := none }
        match mxCheck s c.unit t m with
        | some e => e
        | none =>
          .ok (plainIssue (s.modCore c.unit fun k => { k with mx := { k.mx with slots := ainsert k.mx.slots slot (.loaded m) } }) r a)

/-- What MSTAT reads (R386). -/
def mxStatus (m : Matrix) : Nat :=
  let staged := m.slots.foldl (fun v (i, x) => if x == .empty then v else v + 2 ^ i) 0
  let busy (h : Nat) : Option MCmd := m.queue.find? fun c => c.op == 0 && c.half == h && c.due.isSome
  let fmt (h : Nat) : Nat := match busy h with
    | some c => c.fmt
    | none => ((alookup m.halves h).map LatchHalf.fmt).getD 0
  let st (h : Nat) : Nat := if (busy h).isSome then 1 else if (alookup m.halves h).isSome then 2 else 0
  let run := m.queue.any fun c => (c.op == 1 || c.op == 2) && c.due.isSome
  staged * 2 ^ 20 + fmt 1 * 2 ^ 16 + fmt 0 * 2 ^ 12 + st 1 * 2 ^ 10 + st 0 * 2 ^ 8 + run.toNat * 2 ^ 5 + (mxWaiting m).length

/-- MSTAT (R386); a team without accumulator tiles has no array to read (R210, R240). -/
def execMstat (f : ExtForm) (s : State) : Out :=
  let x := f.x
  let d := x.d.idx.toNat
  let a := { engAcc f 0 0 0 with wUregs := [d], once := true }
  withPrep s a fun r =>
    match actingThread s r.ths with
    | none => .ok (plainIssue s r a)
    | some t => if (s.planOf t).acct == 0 then engineFault (some t) 1 else
      let c := s.cohort r.id
      let mx := (s.core c.unit).mx
      let team := (s.thread t).team
      let mine := (mx.queue.filter fun m => m.team == team).map MCmd.id
      let (w, s1) := s.newId
      let s2 := plainIssue s1 r a
      .ok (if bitOf x.mod 0 && !mine.isEmpty then
          s2.modCohort r.id fun k => { k with wait := .mstat mine d, waitSince := s.sched.clk }
        else uregResult s2 r.id w d (BitVec.ofNat 64 (mxStatus mx)))

end Issue

section Run

/-- The rows of a tile that a command reads or writes (R209): tile, first row, rows, whether it writes them. -/
def mxTouches (c : MCmd) : List (Nat × Nat × Nat × Bool) :=
  match c.op with
  | 1 => [(c.acc, c.row0, c.rows, true)]
  | 2 => [(c.src, 0, 128, false), (c.acc, 0, 128, true)]
  | 3 => [(c.acc, 0, 128, true)]
  | 4 => [(c.acc, 0, 128, false)]
  | _ => []

/-- Two commands conflict on tile rows: a row touched by both and written by one (R209). -/
def mxRowClash (a b : MCmd) : Bool :=
  (mxTouches a).any fun x => (mxTouches b).any fun y =>
    x.1 == y.1 && (x.2.2.2 || y.2.2.2) && decide (x.2.1 < y.2.1 + y.2.2.1) && decide (y.2.1 < x.2.1 + x.2.2.1)

/-- Two commands conflict on a latch half: one loads it. -/
def mxHalfClash (a b : MCmd) : Bool :=
  (a.op == 0 && (mxReads b == some a.half || (b.op == 0 && b.half == a.half))) ||
  (b.op == 0 && mxReads a == some b.half)

/-- A command's time (R208). -/
def mxTime (c : MCmd) : Nat :=
  match c.op with
  | 1 => c.rows + 40
  | 2 => 32
  | 3 => 4
  | _ => 64

/-- A command still keeps the array busy (R208). -/
def mxBusy (clk : Nat) (c : MCmd) : Bool :=
  match c.due with
  | some d => (c.op == 1 && decide (clk + 40 < d)) || c.op == 2
  | none => false

/-- The next command may start (R209). -/
def mxMayStart (clk : Nat) (earlier : List MCmd) (c : MCmd) : Bool :=
  earlier.all (fun e => !mxRowClash e c && !mxHalfClash e c) &&
  !((c.op == 1 || c.op == 2) && earlier.any (mxBusy clk))

/-- MATRIX_COMMAND_START (R209): the next queued command of unit a starts if it may. -/
def execMatrixCommandStart (s : State) : Out :=
  let u := s.sched.arg.a
  let mx := (s.core u).mx
  match (mxWaiting mx).head? with
  | none => .next s
  | some c =>
    let earlier := mx.queue.filter fun e => e.due.isSome
    if mxMayStart s.sched.clk earlier c then
      .next (s.modCore u fun k => { k with mx := { k.mx with queue := k.mx.queue.map fun x =>
        if x.id == c.id then { x with due := some (s.sched.clk + mxTime c) } else x } })
    else .next s

/-- Bytes of a team's window on a unit. Commands that an exited team left on the array read zeros there and write nothing
(log entry 76, DESIGN CHOICE). Bytes past the window, which only a staged
command reaches whose half has changed its K (R211, R382), are open (log entry 2). -/
def winBytes (s : State) (team unit off n : Nat) : List Byte :=
  let tm := s.team team
  match alookup tm.windows unit with
  | some b =>
    let size := (s.plan (s.launch tm.launch).plan).spwin * 1024
    let k := Nat.min n (size - off)
    (s.core unit).scratch.bytes (b + off) k ++
      (List.range (n - k)).map fun i => BitVec.ofNat 8 (Config.freeNat s.sched.fresh / 256 ^ (off + k + i - size))
  | none => List.replicate n 0

/-- Writes bytes of a team's window on a unit, while the team holds it. -/
def winWrite (s : State) (team unit off : Nat) (bs : List Byte) : State :=
  match alookup (s.team team).windows unit with
  | some b => s.modCore unit fun k => { k with scratch := k.scratch.putBytes (b + off) bs }
  | none => s

/-- F32 words of a window, or 1.0 in each. -/
def winScales (s : State) (team unit off n : Nat) (one : Bool) : List Word :=
  if one then List.replicate n 0x3F800000
  else
    let bs := winBytes s team unit off (4 * n)
    (List.range n).map fun i => BitVec.ofNat 32 (wordAt bs (4 * i))

/-- Passes of an MMA up to one before `last` (R208). -/
def mmaPasses (s : State) (unit : Nat) (c : MCmd) (h : LatchHalf) (last : Nat) : Matrix :=
  let rb := rowBytes c.fmt (mxDepth h.fmt)
  let bytes := winBytes s c.team unit c.pa (c.rows * rb)
  let zps := winBytes s c.team unit c.pb (if 4 ≤ c.fmt then c.rows else 0)
  let row (i : Nat) : List Byte := (bytes.drop (i * rb)).take rb
  (List.range (last - c.pass)).foldl (fun m i =>
    mapRows m c.acc ((List.range c.rows).map (c.row0 + ·)) fun r n =>
      accStep h c.fmt (row (r - c.row0)) (zps.getD (r - c.row0) 0).toNat (c.pass + i) n (accAt m c.acc r n))
    (s.core unit).mx

/-- Puts a new matrix state into a core. -/
def setMx (s : State) (unit : Nat) (m : Matrix) : State := s.modCore unit fun k => { k with mx := m }

/-- What a command does (R121, R124, R126, R206 to R208, R383, R384). -/
def mxEffect (s : State) (unit : Nat) (c : MCmd) : State :=
  let mx := (s.core unit).mx
  let half := (alookup mx.halves c.half).getD ⟨0, [], [], []⟩
  let all := List.range 128
  match c.op with
  | 0 =>
    let h : LatchHalf :=
      { fmt := c.fmt, tile := winBytes s c.team unit c.pa 8192,
        zp := if 4 ≤ c.fmt then winBytes s c.team unit c.pc 64 else [],
        cs := winScales s c.team unit c.pb 64 c.unit }
    setMx s unit { mx with halves := ainsert mx.halves c.half h }
  | 1 => setMx s unit (mmaPasses s unit c half (mxDepth half.fmt / 16))
  | 2 =>
    setMx s unit (mapRows mx c.acc all fun r n =>
      let a := accAt mx c.acc r n
      let b := accAt mx c.src r n
      if c.int then (a + b) % 2 ^ 32 else F32.add 0 a b)
  | 3 => setMx s unit (mapRows mx c.acc all fun _ _ => 0)
  | _ =>
    let cs := if c.nocs then List.replicate 64 0x3F800000 else half.cs
    let rs := winScales s c.team unit c.pb 128 (c.unit || c.fmt == 5)
    winWrite s c.team unit c.pa (all.flatMap fun r => (List.range 64).flatMap fun n =>
      leBytes (outBytes c.fmt) (drained c.fmt c.int (cs.getD n 0).toNat (rs.getD r 0).toNat (accAt mx c.acc r n)))

/-- A cohort's MSTAT wait after a command has completed: when it was the last one waited for, MSTAT writes its
register (R386). -/
def mstatWake (unit cmd : Nat) (s : State) (id : Nat) : State :=
  let c := s.cohort id
  match c.wait with
  | .mstat l d =>
    if c.unit == unit && l.contains cmd then
      let rest := l.erase cmd
      if rest.isEmpty then
        let (w, s1) := s.newId
        uregResult (s1.modCohort id fun k => { k with wait := .none }) id w d (BitVec.ofNat 64 (mxStatus (s.core unit).mx))
      else s.modCohort id fun k => { k with wait := .mstat rest d }
    else s
  | _ => s

/-- A started command completes: its effect, its tag and the cohorts that wait for it. -/
def mxFinish (s : State) (unit : Nat) (c : MCmd) : State :=
  let s1 := (mxEffect s unit c).modSched fun x => { x with fresh := x.fresh + 1 }
  let s2 := s1.modCore unit fun k => { k with mx := { k.mx with queue := k.mx.queue.filter fun x => x.id != c.id } }
  let s3 := match c.tag with
    | some n => tagDone s2 unit n false
    | none => s2
  (s3.work.cohorts.map Prod.fst).foldl (mstatWake unit c.id) s3

/-- MATRIX_COMMAND_COMPLETE (R208): command b of unit a, once its time has come. -/
def execMatrixCommandComplete (s : State) : Out :=
  let u := s.sched.arg.a
  match (s.core u).mx.queue.find? fun c => c.id == s.sched.arg.b with
  | some c =>
    match c.due with
    | some d => if d ≤ s.sched.clk then .next (mxFinish s u c) else .next s
    | none => .next s
  | none => .next s

end Run

end Sys2Proof.Machine
end

