-- ==== Sys2Proof/Machine/TagWords.lean ====
section
/-! DEFINITION. The tag words TWAIT, TWANY, TFIND, TSTAT and TCLR (R365, R366). -/

namespace Sys2Proof.Machine

/-- The mask of a tag word (R366). -/
def tagMask (c : Cohort) (x : Ext) : DWord := if bitOf x.mod 9 then c.readUreg x.a.idx.toNat else x.imm.setWidth 64

/-- The tags of a mask in ascending order. -/
def tagsIn (m : DWord) : List Nat := (List.range 64).filter fun i => m.getLsbD i

/-- What a tag word reads and writes. -/
def tagAcc (f : ExtForm) (dst : Bool) : Acc :=
  let x := f.x
  let pd := x.pd.toNat
  { engAcc f 0 0 0 with
    uregs := if bitOf x.mod 9 then [x.a.idx.toNat] else []
    wUregs := if dst then [x.d.idx.toNat] else []
    wPreds := if pd < 7 then [pd] else [] }

/-- A tag word's results: a predicate of every executing thread, and a uniform register. -/
def tagResult (s : State) (r : Ready) (a : Acc) (pd : Nat) (p : Bool) (d : Option (Nat × DWord)) : State :=
  let (w, s1) := s.newId
  let s2 := commit s1 r a (boolPends s w pd (r.ths.map fun t => (t, p)))
  match d with
  | some (n, v) => uregResult s2 r.id w n v
  | none => s2

/-- Some thread executes the word, or it has no effect (R348). -/
def tagWord (f : ExtForm) (dst : Bool) (s : State) (g : Ready → Acc → Cohort → DWord → Eff) : Out :=
  let a := tagAcc f dst
  withPrep s a fun r =>
    let c := s.cohort r.id
    if r.ths.isEmpty then .ok (plainIssue s r a) else g r a c (tagMask c f.x)

/-- TWAIT (R366). -/
def execTwait (f : ExtForm) (s : State) : Out :=
  let pd := f.x.pd.toNat
  tagWord f false s fun r a c m =>
    let ts := tagsIn m
    if ts.all fun n => (tagAt s c.unit n).done then
      .ok (tagResult s r a pd (ts.any fun n => (tagAt s c.unit n).err) none)
    else .stall s (.tag false m pd 256 r.ths)

/-- The lowest done tag of a mask. -/
def lowestDone (s : State) (unit : Nat) (m : DWord) : Option Nat := (tagsIn m).find? fun n => (tagAt s unit n).done

/-- TWANY (R366). -/
def execTwany (f : ExtForm) (s : State) : Out :=
  let pd := f.x.pd.toNat
  let d := f.x.d.idx.toNat
  tagWord f true s fun r a c m =>
    if m == 0 then .ok (tagResult s r a pd false (some (d, 64)))
    else
      match lowestDone s c.unit m with
      | some n => .ok (tagResult s r a pd (tagAt s c.unit n).err (some (d, BitVec.ofNat 64 n)))
      | none => .stall s (.tag true m pd d r.ths)

/-- TFIND (R366). -/
def execTfind (f : ExtForm) (s : State) : Out :=
  tagWord f true s fun r a c m =>
    let n := lowestDone s c.unit m
    .ok (tagResult s r a f.x.pd.toNat n.isSome (some (f.x.d.idx.toNat, BitVec.ofNat 64 (n.getD 64))))

/-- TSTAT (R366): the done bitmap, or the error bitmap, at issue. -/
def execTstat (f : ExtForm) (s : State) : Out :=
  let x := f.x
  let a := { engAcc f 0 0 0 with wUregs := [x.d.idx.toNat] }
  withPrep s a fun r =>
    if r.ths.isEmpty then .ok (plainIssue s r a)
    else
      let unit := (s.cohort r.id).unit
      let bit (n : Nat) : Bool := if bitOf x.mod 0 then (tagAt s unit n).err else (tagAt s unit n).done
      let v := ((List.range 64).filter bit).foldl (fun v n => v + 2 ^ n) 0
      let (w, s1) := s.newId
      .ok (uregResult (plainIssue s1 r a) r.id w x.d.idx.toNat (BitVec.ofNat 64 v))

/-- TCLR (R366). -/
def execTclr (f : ExtForm) (s : State) : Out :=
  tagWord f false s fun r a c m =>
    let ts := tagsIn m
    let idle := ts.filter fun n => (tagAt s c.unit n).count == 0
    let s1 := idle.foldl (fun s n => setTag s c.unit n {}) s
    .ok (tagResult s1 r a f.x.pd.toNat (idle.length == ts.length) none)

end Sys2Proof.Machine
end

