-- ==== Sys2Proof/Machine/Copies.lean ====
section
/-! DEFINITION. Layout records (R161 to R164), the copy units (R193, R194, R201, R367 to R371) and STAGE (R167 to R169,
R376). -/

namespace Sys2Proof.Machine

section Records

/-- Bits of an element format (R162). -/
def elemBits (efmt : Nat) : Nat := [32, 16, 16, 8, 8, 8, 4, 2, 1].getD efmt 8

/-- The elements that a dimension of the image spans (R369). -/
def Layout.span (l : Layout) (d : Nat) : Nat := if d < l.ndim then l.box.getD d 1 + l.hb.getD d 0 + l.ha.getD d 0 else 1

/-- Bytes of a row, and from a row to the next (R369). -/
def Layout.rowBytes (l : Layout) : Nat := (l.span 0 * elemBits l.efmt + 7) / 8
def Layout.spacing (l : Layout) : Nat := if l.pitch == 0 then l.rowBytes else l.pitch

/-- Rows and elements of the image. -/
def Layout.rows (l : Layout) : Nat := l.span 1 * l.span 2 * l.span 3 * l.span 4
def Layout.elems (l : Layout) : Nat := l.span 0 * l.rows

/-- Bytes of the image (R369). -/
def Layout.imageBytes (l : Layout) : Nat := if l.planes then 8 * l.span 1 * elemBits l.efmt else l.rows * l.spacing

/-- A layout record's fields (R161). -/
def readLayout (b : List Byte) : Layout :=
  let d0 := dwordAt b 0
  let y (i : Nat) : Nat := (b.getD i 0).toNat
  let five := List.range 5
  { surface := nfld d0 63 62 == 1, ndim := nfld d0 61 59, efmt := nfld d0 58 55, fill := nfld d0 54 53, base := nfld d0 51 0,
    ext := five.map fun d => wordAt b (8 + 4 * d), stride := 0 :: (List.range 4).map fun d => wordAt b (0x1C + 4 * d),
    box := five.map fun d => y (0x2C + d) + 1, hb := five.map fun d => y (0x31 + d) / 16, ha := five.map fun d => y (0x31 + d) % 16,
    swz := y 0x36 / 32, planes := y 0x36 / 16 % 2 == 1, pitch := wordAt b 0x38 }

/-- A record breaks no rule of R161 to R164 and R369; the channel extent of a surface record is judged apart. Only the halo bytes of
dimensions below NDIM count as a halo (log entry 81, DESIGN CHOICE). -/
def layoutOk (b : List Byte) (l : Layout) : Bool :=
  let d0 := dwordAt b 0
  let live := List.range l.ndim
  let halo := live.any fun d => l.hb.getD d 0 != 0 || l.ha.getD d 0 != 0
  let bytes := elemBits l.efmt / 8
  decide (nfld d0 63 62 ≤ 1) && decide (1 ≤ l.ndim) && decide (l.ndim ≤ 5) && decide (l.efmt ≤ 8) && l.fill != 3 &&
  nfld d0 52 52 == 0 && decide (l.swz ≤ 3) && (b.getD 0x36 0).toNat % 16 == 0 && b.getD 0x37 0 == 0 && wordAt b 0x3C == 0 &&
  (live.all fun d => l.ext.getD d 0 != 0) &&
  (if l.surface then l.base / 2 ^ 12 == 0 && decide (2 ≤ l.efmt) && decide (l.efmt ≤ 4) && l.ndim == 3
   else bytes == 0 || l.base % bytes == 0) &&
  (!l.planes || (l.ndim == 2 && decide (5 ≤ l.efmt) && l.box.getD 0 0 == 64 && !halo && l.fill == 0 && l.swz == 0)) &&
  (l.pitch == 0 || decide (l.rowBytes ≤ l.pitch)) && (l.swz == 0 || l.spacing % (64 * 2 ^ l.swz) == 0)

/-- A BOXST record: global, without planes or halos (R368); the halos are those of the dimensions below NDIM (log entry 81, DESIGN
CHOICE). -/
def layoutStores (l : Layout) : Bool :=
  !l.surface && !l.planes && (List.range l.ndim).all fun d => l.hb.getD d 0 == 0 && l.ha.getD d 0 == 0

/-- The place of an element of the image in each dimension, dimension 0 fastest (R163). -/
def Layout.place (l : Layout) (e : Nat) : List Nat :=
  [e % l.span 0, e / l.span 0 % l.span 1, e / (l.span 0 * l.span 1) % l.span 2,
   e / (l.span 0 * l.span 1 * l.span 2) % l.span 3, e / (l.span 0 * l.span 1 * l.span 2 * l.span 3)]

/-- An index made legal by FILL (R163): none where an all-zero element is written. -/
def fillIndex (fill : Nat) (i : Int) (e : Nat) : Option Nat :=
  if 0 ≤ i ∧ i < e then some i.toNat
  else if fill == 0 then none
  else if fill == 1 then some (if i < 0 then 0 else e - 1)
  else
    let m := (i % (2 * e : Nat)).toNat
    some (if e ≤ m then 2 * e - 1 - m else m)

/-- The indices of an element of the tensor; none where an all-zero element is written. -/
def Layout.source (l : Layout) (org : List Int) (e : Nat) : Option (List Nat) :=
  (List.range l.ndim).mapM fun d =>
    fillIndex l.fill (org.getD d 0 - l.hb.getD d 0 + ((l.place e).getD d 0 : Int)) (l.ext.getD d 1)

/-- The indices of an element of a BOXST; none where it lies outside the tensor (R369). -/
def Layout.target (l : Layout) (org : List Int) (e : Nat) : Option (List Nat) :=
  (List.range l.ndim).mapM fun d => fillIndex 0 (org.getD d 0 + ((l.place e).getD d 0 : Int)) (l.ext.getD d 1)

/-- The address of an element of a global tensor, in bits. -/
def Layout.elemBit (l : Layout) (ix : List Nat) : Nat :=
  8 * ((List.range l.ndim).foldl (fun a d => a + ix.getD d 0 * l.stride.getD d 0) l.base) + ix.getD 0 0 * elemBits l.efmt

/-- The place in the image of a byte of a row, after PITCH and swizzle (R163). -/
def Layout.imageByte (l : Layout) (e g : Nat) : Nat :=
  let a := e / l.span 0 * l.spacing + g
  if l.swz == 0 then a else a ^^^ ((l.place e).getD 1 0 % (4 * 2 ^ l.swz) * 16)

end Records

section Access

/-- What comes of an access of a copy to global memory. -/
inductive Reach where
  | gddr (pa : Nat) (leaf : DWord) (s : State)
  | flash (addr : Nat) (s : State)
  | remote (qpn : Nat) (addr : Nat) (leaf : DWord) (s : State)
  /-- a segment is in transition (R178), or a power domain is not awake (R171) -/
  | wait (s : State)
  | fault (code : TrapCode) (cause level : Nat) (entry : DWord) (s : State)
  | race (i : TrapInfo)

/-- The level at which a walk stops. -/
def walkLevel (s : State) (ctx va : Nat) : Nat := (walk s va (nfld (ctxOf s ctx).ptroot.toNat 51 12 * 4096) 0 [] 4).1.2.1

/-- A copy's turn to access a global address: its walk and, of a GDDR7 page that the core's L1 does not serve, the bank (R171,
R178). -/
def admitCopy (s : State) (c : Copy) (va : Nat) (write : Bool) : Bool × State :=
  let walked := walkSpans s (some c.unit) c.ctx va
  let data := match (translate s (some c.unit) c.ctx va write c.priv true).1 with
    | .ok .gddr a _ => [(a, 1)]
    | _ => []
  admitTo s (.req c.id) (spanSegs (walked ++ data))
    (spanDomains s (walked ++ data.filter fun x => c.priv || !inL1 s c.unit x.1))

/-- What an access of a copy comes to when its turn has come (R166, R179, R193, R370, R426). -/
def reached (s : State) (c : Copy) (va : Nat) (write : Bool) : Reach :=
  match translate s (some c.unit) c.ctx va write c.priv true with
  | (.fault code cause level e, s1) =>
    -- a destination on a flash page faults as such, whatever else its leaf denies (R166)
    if write && code == .protection && e.getLsbD 5 then .fault .pageFault 2 level e s1 else .fault code cause level e s1
  | (.ok .tier a leaf, s1) =>
    if write then .fault .pageFault 2 (walkLevel s c.ctx va) leaf s1 else .flash a s1
  | (.ok .remote a leaf, s1) =>
    let q := a / 2 ^ 40 % 4096
    match alookup s1.host.qps q with
    | some p =>
      if p.st == 1 && p.ctx == c.ctx then .remote q (a % 2 ^ 40) leaf s1
      else .fault .pageFault 3 (walkLevel s c.ctx va) leaf s1
    | none => .fault .pageFault 3 (walkLevel s c.ctx va) leaf s1
  | (.ok .gddr a leaf, s1) =>
    let n := a / 4096
    let g := segAt s1 n
    let ak := if write then 3 else 2
    match if c.priv then none else foreignPass s1 n c.unit with
    | some p => .race (raceInfo va n ak {} c.unit c.tag (some p))
    | none =>
      if !c.priv && !ownPass s1 n c.unit && raceAt g c.unit write then .race (raceInfo va n ak g c.unit c.tag none)
      else .gddr a leaf s1

/-- A copy reaches a global address, or waits for its turn. -/
def reach (s : State) (c : Copy) (va : Nat) (write : Bool) : Reach :=
  match admitCopy s c va write with
  | (false, s1) => .wait s1
  | (true, s1) => reached s1 c va write

/-- The queue pair of a remote address that a copy cannot use. -/
def remoteQp (leaf : DWord) : Nat := nfld leaf.toNat 51 40

/-- A queue pair enters ERROR, with one event (R426, R432); a failure that no NAK reports carries a free syndrome (log
entry 2). -/
def qpError (s : State) (qpn : Nat) (syndrome : Option Nat) : State :=
  let q := (alookup s.host.qps qpn).getD { qpn := qpn, peer := 0, ctx := 0, prio := 0, st := 0, rkey := 0, rbase := 0, paddr := 0, rq := 0 }
  if q.st == 2 then s
  else
    let (f, s1) := s.free (2 ^ 64)
    logEvent (s1.modHost fun h => { h with qps := ainsert h.qps qpn { q with st := 2 } }) 0x0203 0x0061 q.ctx
      (BitVec.ofNat 64 qpn) (BitVec.ofNat 64 (syndrome.getD f))

/-- The second doubleword of a record's cause-specific bytes for an access of a copy or stage (R410). -/
def copyInfo (tag level space acc : Nat) : DWord := BitVec.ofNat 64 (tag * 2 ^ 32 + level * 2 ^ 24 + 0xFF * 2 ^ 16 + space * 2 ^ 8 + acc)

/-- A copy ends at a block whose page faults: its fault record (R370). -/
def copyFault (s : State) (c : Copy) (code : TrapCode) (cause level : Nat) (e : DWord) (va : Nat) (write : Bool) : State × Copy :=
  let s1 := if code == .pageFault && cause == 3 then qpError s (remoteQp e) none else s
  (faultRecord s1 c.unit c.priv c.ctx code (if code == .pageFault then cause else 0) c.pc c.lin c.lane c.tag (BitVec.ofNat 64 va)
    (copyInfo c.tag level 0 (if write then 5 else 4)) e 0, { c with failed := true })

/-- A copy ends at a block that races (R185). -/
def copyRace (s : State) (c : Copy) (i : TrapInfo) : State × Copy :=
  (faultRecord s c.unit c.priv c.ctx .race 0 c.pc c.lin c.lane c.tag i.i0 i.i1 i.i2 i.i3, { c with failed := true })

/-- How a copy's access is made. -/
def copyHow (c : Copy) (n : Nat) (write : Bool) : How := { space := 0, size := n, kind := write.toNat, home := c.priv, cp := c.cp }

end Access

section Transfer

/-- One move of a copy: it goes on, or it halts: it waits, has failed or has landed. -/
inductive Prog where
  | go (s : State) (c : Copy)
  | halt (s : State) (c : Copy)

/-- A copy that waits for a peer's answer to its request (R426), sent unless the queue pair's priority is paused (R424). -/
def askPeer (s : State) (c : Copy) (qpn addr va : Nat) (leaf : DWord) (write : Bool) (n : Nat) (data : List Byte) : Prog :=
  match alookup s.host.qps qpn with
  | none => .halt s c
  | some q =>
    if (alookup s.host.pauses q.prio).isSome then .halt s c else
    let r : Sent := .request qpn write (q.rbase + BitVec.ofNat 64 addr) q.rkey n data
    let (k, s1) := s.newId
    .halt (s1.modHost fun h => { h with outbox := h.outbox ++ [r], flights := h.flights ++ [(qpn, c.id, k)] })
      { c with remote := true
               await := some { req := k, qpn := qpn, write := write, n := n, va := va, level := walkLevel s c.ctx va, leaf := leaf } }

/-- Bytes of an access of n bytes up to the end of its page. -/
def inPage (va n : Nat) : Nat := Nat.min n (4096 - va % 4096)

/-- Writes n bytes of one page of global memory for a copy: `f` answers them from those that stand there; `next` is the copy
then. -/
def copyPut (s : State) (c : Copy) (va n : Nat) (f : List Byte → List Byte) (whole : Bool) (next : Copy) : Prog :=
  match reach s c va true with
  | .gddr a leaf s1 =>
    .go (storeLoc s1 c.unit c.ctx c.priv (copyHow c n true) (f (readPa s1 a n)) (.pa a leaf)) next
  | .remote q a leaf s1 =>
    -- bits of a byte are merged into what the peer holds
    if whole then askPeer s1 c q a va leaf true n (f []) else askPeer s1 c q a va leaf false n []
  | .flash _ s1 => .halt s1 { c with failed := true }
  | .wait s1 => .halt s1 c
  | .fault code cause level e s1 => let (s2, c2) := copyFault s1 c code cause level e va true; .halt s2 c2
  | .race i => let (s2, c2) := copyRace s c i; .halt s2 c2

/-- A window's bytes are written for a copy. -/
def copyPutSp (s : State) (c : Copy) (off k : Nat) (bs : List Byte) : Prog :=
  .go (winWrite s c.team c.unit off bs) { c with done := c.done + k }

/-- A flash block whose source cannot be read: its first byte is noted as an event (R169). -/
def tierFail (s : State) (ctx tag dst : Nat) : State :=
  logEvent s 0x0202 0x0020 ctx (BitVec.ofNat 64 (dst / 4096 * 4096)) (BitVec.ofNat 64 tag)

/-- Blocks of the destination of which bytes with a flash source are, and that the event names as unreadable, unless they have
failed already (R169). -/
def newlyBad (s : State) (c : Copy) (dsts : List Nat) : List Nat :=
  ((dsts.map (· / 4096)).filter fun b => s.sched.arg.list.contains b && !c.bad.contains b).eraseDups

/-- Reads n bytes of one page of global memory for a copy, and goes on with them; `dsts` is where they go. Where blocks of the
destination are found to fail, `fail` answers the copy with them zeroed (R169). -/
def copyGet (s : State) (c : Copy) (va n : Nat) (dsts : List Nat) (fail : State → Copy → List Nat → State × Copy)
    (next : State → Copy → List Byte → Prog) : Prog :=
  match reach s c va false with
  | .gddr a leaf s1 =>
    let (bs, s2) := loadLoc s1 c.unit c.ctx c.priv (copyHow c n false) (.pa a leaf)
    next s2 c bs
  | .flash a s1 =>
    match newlyBad s c dsts with
    | [] => next s1 c (s1.mem.flash.bytes a n)
    | l =>
      let (s2, c2) := fail (l.foldl (fun s b => tierFail s c.ctx c.tag (b * 4096)) s1)
        { c with err := true, bad := c.bad ++ l } l
      .go s2 c2
  | .remote q a leaf s1 => askPeer s1 c q a va leaf false n []
  | .wait s1 => .halt s1 c
  | .fault code cause level e s1 => let (s2, c2) := copyFault s1 c code cause level e va false; .halt s2 c2
  | .race i => let (s2, c2) := copyRace s c i; .halt s2 c2

/-- Bytes of the next piece of a LIN copy: up to the next 64-byte boundary of either side. -/
def linPiece (c : Copy) : Nat :=
  let src := c.a + c.done
  let dst := c.b + c.done
  Nat.min (c.len - c.done) (Nat.min (64 - src % 64) (64 - dst % 64))

/-- Puts the bytes of a LIN piece at their destination. -/
def linPut (s : State) (c : Copy) (bs : List Byte) : Prog :=
  let n := bs.length
  if c.dsp then copyPutSp s c (c.b + c.done) n bs
  else copyPut s c (c.b + c.done) n (fun _ => bs) true { c with done := c.done + n }

/-- A LIN copy goes back to the beginning of the first block that has failed, whose bytes are zeros (R169). -/
def linBack (s : State) (c : Copy) (l : List Nat) : State × Copy :=
  (s, { c with done := Nat.min c.done (l.headD 0 * 4096 - c.b) })

/-- The next piece of a LIN copy. -/
def linStep (s : State) (c : Copy) : Prog :=
  let n := linPiece c
  let src := c.a + c.done
  let dst := c.b + c.done
  if c.bad.contains (dst / 4096) then linPut s c (List.replicate n 0)
  else if c.ssp then linPut s c (winBytes s c.team c.unit src n)
  else copyGet s c src n [dst] linBack linPut

/-- A value of some bits, found at a bit of bytes or put there. -/
def getBits (bs : List Byte) (bit w : Nat) : Nat := leNat bs / 2 ^ bit % 2 ^ w
def putBits (bs : List Byte) (bit w v : Nat) : List Byte :=
  let old := leNat bs
  leBytes bs.length (old - old / 2 ^ bit % 2 ^ w * 2 ^ bit + v % 2 ^ w * 2 ^ bit)

/-- Offsets in the window of the bytes of the image that an element's bits are in (R163, R164). -/
def imageOffs (c : Copy) (l : Layout) (e : Nat) : List Nat :=
  let w := elemBits l.efmt
  let j := e % l.span 0
  if l.planes then (List.range w).map fun p => c.b + 8 * l.span 1 * p + 8 * (l.place e).getD 1 0 + j / 8
  else if 8 ≤ w then (List.range (w / 8)).map fun i => c.b + l.imageByte e (j * w / 8 + i)
  else [c.b + l.imageByte e (j * w / 8)]

/-- Writes bytes of the image; those of a failed block of the destination are zeros (R169). -/
def imageWrite (s : State) (c : Copy) (l : List (Nat × Byte)) : State :=
  l.foldl (fun s x => winWrite s c.team c.unit x.1 [if c.bad.contains (x.1 / 4096) then 0 else x.2]) s

/-- Writes an element of the image. Elements of less than a byte are gathered, and their bytes written when the last element of
them is there, so that a byte is read old or new (R194); bits that fill up the last byte of a row are open (log entry 2). -/
def imagePut (s : State) (c : Copy) (l : Layout) (v : Nat) : State × Copy :=
  let e := c.done
  let w := elemBits l.efmt
  let j := e % l.span 0
  let offs := imageOffs c l e
  let next := { c with done := e + 1, part := [] }
  if 8 ≤ w && !l.planes then (imageWrite s c (offs.zip (leBytes (w / 8) v)), next)
  else
    let old := if c.part.isEmpty then offs.map fun _ => (0 : Byte) else c.part
    let bit := if l.planes then j % 8 else j * w % 8
    let one (x : Byte × Nat) : Byte :=
      if l.planes then (putBits [x.1] bit 1 (v / 2 ^ x.2)).headD 0 else (putBits [x.1] bit w v).headD 0
    let new := old.zipIdx.map one
    let used := bit + (if l.planes then 1 else w)
    if used == 8 then (imageWrite s c (offs.zip new), next)
    else if j + 1 == l.span 0 then
      let (f, s1) := s.free 256
      (imageWrite s1 c (offs.zip (new.map fun b => (putBits [b] used (8 - used) f).headD 0)), next)
    else (s, { next with part := new })

/-- Blocks of a BOX copy's destination have failed: what lies in them of the image is zeros (R169). -/
def boxFail (l : Layout) (s : State) (c : Copy) (bad : List Nat) : State × Copy :=
  (imageWrite s c (((List.range l.elems).flatMap (imageOffs c l)).eraseDups.filterMap fun o =>
    if bad.contains (o / 4096) then some (o, (0 : Byte)) else none), c)

/-- Reads an element's bits from the scratchpad image. -/
def imageGet (s : State) (c : Copy) (l : Layout) : Nat :=
  let e := c.done
  let w := elemBits l.efmt
  let j := e % l.span 0
  let byte (g : Nat) : List Byte := winBytes s c.team c.unit (c.b + l.imageByte e g) 1
  if 8 ≤ w then leNat ((List.range (w / 8)).flatMap fun i => byte (j * w / 8 + i))
  else getBits (byte (j * w / 8)) (j * w % 8) w

/-- An element of a BOX copy has been read. -/
def boxPut (s : State) (c : Copy) (l : Layout) (v : Nat) : Prog := let (s1, c1) := imagePut s c l v; .go s1 c1

/-- Bytes of an element in memory. -/
def Layout.elemBytes (l : Layout) : Nat := Nat.max 1 (elemBits l.efmt / 8)

/-- Whether an element takes bytes of its own. -/
def Layout.whole (l : Layout) : Bool := decide (8 ≤ elemBits l.efmt)

/-- An element has several bytes, which can lie in two pages. -/
def Layout.wide (l : Layout) : Bool := decide (1 < l.elemBytes)

/-- The bytes of an element that are read already. -/
def gotten (c : Copy) (l : Layout) : List Byte := if l.wide then c.part else []

/-- The value of an element among the bytes read for it. -/
def boxValue (c : Copy) (l : Layout) (bs : List Byte) : Nat :=
  match l.source c.origin c.done with
  | some ix => getBits bs (l.elemBit ix % 8) (elemBits l.efmt)
  | none => 0

/-- Bytes of an element of a BOX copy have been read: it is put into the image when all are there. -/
def boxGot (l : Layout) (s : State) (c : Copy) (bs : List Byte) : Prog :=
  let all := gotten c l ++ bs
  if all.length < l.elemBytes then .go s { c with part := all }
  else boxPut s (if l.wide then { c with part := [] } else c) l (boxValue c l all)

/-- The next element of a BOX copy (R163, R162, R369). -/
def boxStep (s : State) (c : Copy) (l : Layout) : Prog :=
  match l.source c.origin c.done with
  | none => boxPut s c l 0
  | some ix =>
    if l.surface then
      let slot := l.base % 256
      let level := nfld l.base 11 8
      match surfSte s c.ctx slot level with
      | none => boxPut s c l 0
      | some e =>
        let x := ix.getD 1 0
        let y := ix.getD 2 0
        let k := tileAt c.ctx slot level x y
        if e.inside level x y && !servable s c.id [k] then .halt (enqueueTiles s c.id [k]) c
        else
          let v := chanF32 e.fmt (chanBits e.fmt (ix.getD 0 0) (pixelAt s e c.ctx slot level x y))
          let s1 := if e.inside level x y then serveReqs (dequeueTiles (readTiles s [k]) c.id) else s
          boxPut s1 c l (convert 0 l.efmt 0 v)
    else
      let got := gotten c l
      let va := l.elemBit ix / 8 + got.length
      copyGet s c va (inPage va (l.elemBytes - got.length)) (imageOffs c l c.done) (boxFail l) (boxGot l)

/-- How many elements from the next one on lie, in one row, in the byte of the next one: of elements of less than a byte all those
are stored together, so that a byte is read old or new (R194). -/
def byteRun (c : Copy) (l : Layout) (b : Nat) : Nat → Nat
  | 0 => 0
  | fuel + 1 =>
    match l.target c.origin c.done with
    | some ix =>
      if l.elemBit ix / 8 == b then
        if (c.done + 1) % l.span 0 == 0 then 1 else byteRun { c with done := c.done + 1 } l b fuel + 1
      else 0
    | none => 0

/-- The bytes of a BOXST element, or, of elements of less than a byte, those of k elements merged into the byte that stands
there. -/
def boxstBytes (s : State) (c : Copy) (l : Layout) (k : Nat) (old : List Byte) : List Byte :=
  let w := elemBits l.efmt
  if l.whole then leBytes (w / 8) (imageGet s c l)
  else (List.range k).foldl (fun bs i =>
    let c1 := { c with done := c.done + i }
    match l.target c.origin c1.done with
    | some ix => putBits bs (l.elemBit ix % 8) w (imageGet s c1 l)
    | none => bs) old

/-- A BOXST copy has stored n bytes of its next element, or k elements. -/
def boxstNext (c : Copy) (l : Layout) (n k : Nat) : Copy :=
  if l.whole && c.part.length + n < l.elemBytes then { c with part := c.part ++ List.replicate n 0 }
  else { c with done := c.done + k, part := [] }

/-- The next element of a BOXST copy, page by page (R369). -/
def boxstStep (s : State) (c : Copy) (l : Layout) : Prog :=
  match l.target c.origin c.done with
  | none => .go s { c with done := c.done + 1 }
  | some ix =>
    let va := l.elemBit ix / 8 + c.part.length
    let n := inPage va (l.elemBytes - c.part.length)
    let k := if l.whole then 1 else byteRun c l va 8
    copyPut s c va n (fun old => ((boxstBytes s c l k old).drop c.part.length).take n) l.whole (boxstNext c l n k)

/-- Units of a copy: bytes of LIN, elements of the others. -/
def copySize (c : Copy) : Nat :=
  match c.lay with
  | some l => l.elems
  | none => c.len

/-- The next move of a copy. -/
def copyStep (s : State) (c : Copy) : Prog :=
  match c.lay with
  | some l => if c.kind == 0 then boxStep s c l else boxstStep s c l
  | none => linStep s c

/-- Moves that a copy makes at most: its bytes or elements in two pieces each, and once more those of blocks that fail. -/
def copyMoves (c : Copy) : Nat := 6 * copySize c + 2

/-- Moves a copy on until it halts or lands. -/
def copyLoop (s : State) (c : Copy) : Nat → State × Copy
  | 0 => (s, c)
  | fuel + 1 =>
    if c.failed || c.await.isSome then (s, c)
    else if copySize c ≤ c.done then (s, { c with landed := true })
    else
      match copyStep s c with
      | .go s1 c1 => copyLoop s1 c1 fuel
      | .halt s1 c1 => (s1, c1)

/-- Replaces a copy. -/
def setCopy (s : State) (c : Copy) : State :=
  s.modMem fun m => { m with copies := m.copies.map fun x => if x.id == c.id then c else x }

/-- The global addresses of a copy, page by page or element by element. -/
def copyAddrs (c : Copy) : List Nat :=
  match c.lay with
  | none =>
    let pages (a : Nat) : List Nat :=
      if c.len == 0 then [] else (List.range ((a + c.len - 1) / 4096 - a / 4096 + 1)).map fun i => (a / 4096 + i) * 4096
    (if c.ssp then [] else pages c.a) ++ (if c.dsp then [] else pages c.b)
  | some l =>
    if l.surface then []
    else (List.range l.elems).filterMap fun e =>
      ((if c.kind == 0 then l.source c.origin e else l.target c.origin e).map fun ix => l.elemBit ix / 8)

/-- A copy touches a REMOTE page (R201). -/
def touchesRemote (s : State) (c : Copy) : Bool :=
  (copyAddrs c).any fun va => match (translate s (some c.unit) c.ctx va false c.priv true).1 with
    | .ok .remote _ _ => true
    | _ => false

end Transfer

section Complete

/-- A copy is over: its tag completes, and it is gone (R365, R370). -/
def copyOver (s : State) (c : Copy) (failed : Bool) : State :=
  tagDone (s.modMem fun m => { m with copies := m.copies.filter fun x => x.id != c.id }) c.unit c.tag failed

/-- Why a staged MMA cannot enter the queue: its half is empty, or its mode does not fit the stream format, in the issued state
(R211, R240). -/
def stagedBad (mx : Matrix) (m : MCmd) : Option Nat :=
  if m.op != 1 then none
  else match alookup mx.issued m.half with
    | none => some 2
    | some f => if mxFits m.fmt f then none else some 3

/-- A COPYM's staged command when its copy is over (R211): it enters the queue, waits for room, or is discarded; a discarded MMA,
whose failure stops no cohort, leaves a fault record (R405, log entry 71). -/
def stagedEntry (s : State) (c : Copy) (slot : Nat) : State :=
  let mx := (s.core c.unit).mx
  let free := s.modCore c.unit fun k => { k with mx := { k.mx with slots := ainsert k.mx.slots slot .empty } }
  match (alookup mx.slots slot).getD .empty with
  | .occupied m =>
    -- another team's command is none of this copy's
    if m.team != c.team then copyOver s c (c.failed || c.err)
    else if c.failed || c.err then copyOver free c true
    else if 16 ≤ (mxWaiting mx).length then s
    else match stagedBad mx m with
      | some cause =>
        copyOver (faultRecord free c.unit c.priv c.ctx .engineFault 0 c.pc c.lin c.lane c.tag (BitVec.ofNat 64 cause) 0 0 0) c true
      | none => copyOver (mxEnter free c.unit m) c false
  | _ => copyOver s c (c.failed || c.err)

/-- A copy that has landed or failed completes. -/
def copyEnd (s : State) (c : Copy) : State :=
  match c.slot with
  | some n => stagedEntry s c n
  | none => copyOver s c (c.failed || c.err)

/-- COPY_COMPLETE (R370): copy a moves on, its unreadable flash blocks being in `list`, and completes when every write has
been performed. -/
def execCopyComplete (s : State) : Out :=
  match s.mem.copies.find? fun c => c.id == s.sched.arg.a with
  | none => .next s
  | some c =>
    if c.squashed then .next s
    else
      let (s1, c1) := copyLoop s c (copyMoves c)
      let s2 := setCopy s1 c1
      .next (if (c1.landed || c1.failed) && c1.await.isNone then copyEnd s2 c1 else s2)

/-- STAGED_COMMAND_ENTRY (R211): the staged command of a landed COPYM enters the queue once there is room. -/
def execStagedCommandEntry (s : State) : Out :=
  match s.mem.copies.find? fun c => c.id == s.sched.arg.a with
  | none => .next s
  | some c => .next (if c.landed && !c.squashed then copyEnd s c else s)

/-- A peer has answered a copy (R201): the bytes of a read, or the acknowledgement of a write. -/
def copyAnswer (s : State) (c : Copy) (data : List Byte) : State :=
  match c.await with
  | none => s
  | some w =>
    let c0 := { c with await := none }
    let put (p : Prog) : State := match p with
      | .go s1 c1 => setCopy s1 c1
      | .halt s1 c1 => setCopy s1 c1
    if w.write then
      setCopy s (match c0.lay with
        | some l => boxstNext c0 l w.n (if l.whole then 1 else byteRun c0 l w.va 8)
        | none => { c0 with done := c0.done + w.n })
    else if data.length != w.n then s
    else
      match c0.lay with
      | none => put (linPut s c0 data)
      | some l =>
        if c0.kind == 0 then put (boxGot l s c0 data)
        else
          let k := byteRun c0 l w.va 8
          put (copyPut s c0 w.va w.n (fun _ => boxstBytes s c0 l k data) true (boxstNext c0 l w.n k))

/-- A remote access of a copy fails (R426): the copy ends at its block, and its queue pair enters ERROR. -/
def copyRefused (s : State) (c : Copy) (syndrome : Option Nat) : State :=
  match c.await with
  | none => s
  | some w =>
    let (s1, c1) := copyFault (qpError s w.qpn syndrome) { c with await := none } .pageFault 3 w.level w.leaf w.va
      (w.write || c.kind == 1)
    setCopy s1 c1

end Complete

section CopyWords

/-- A trap of a copy or stage at issue with its address field (R410). -/
def copyTrap (code : TrapCode) (t : Nat) (cause addr tag space acc : Nat) : Option Eff :=
  some (.trap code { cause := cause, thread := some t, i0 := BitVec.ofNat 64 addr, i1 := copyInfo tag 0xFF space acc })

/-- A copy as its word describes it. -/
def copyOf (s : State) (r : Ready) (t : Nat) (x : Ext) (kind a b len : Nat) (origin : List Int) (slot : Option Nat) : Copy :=
  let c := s.cohort r.id
  let th := s.thread t
  { id := 0, unit := c.unit, ctx := ctxOfCohort s c, team := th.team, plan := (s.launchOf t).plan, thread := t, kind := kind,
    tag := fld x.mod 5 0, cp := fld x.mod 7 6, a := a, b := b, len := len, dsp := kind == 2 && bitOf x.imm 1,
    ssp := kind == 2 && bitOf x.imm 0, lay := none, origin := origin, slot := slot, pc := c.pc, lin := th.lin,
    lane := th.lane, priv := c.priv }

/-- Reads and judges the layout record of a BOX or BOXST (R368, step 1). R368 gives this read no class: it is made at home, checks no
line out and raises no RACE (log entry 80, DESIGN CHOICE). -/
def copyRecord (s : State) (t : Nat) (c : Copy) : Except Eff Layout × State :=
  let bad (e : Option Eff) : Except Eff Layout := .error (e.getD (engineFault (some t) 5))
  if c.a % 64 != 0 then (bad (copyTrap .misaligned t 0 c.a c.tag 5 0), s)
  else
    match translate s (some c.unit) c.ctx c.a false c.priv false with
    | (.fault code cause level e, s1) =>
      (.error (.trap code { cause := cause, thread := some t, i0 := BitVec.ofNat 64 c.a, i1 := copyInfo c.tag level 5 0, i2 := e }), s1)
    | (.ok _ pa leaf, s1) =>
      let b := readPa s1 pa 64
      let l := readLayout b
      if !layoutOk b l || (c.kind == 1 && !layoutStores l) then (bad none, s1)
      else if l.surface && ((boundSte s1 c.ctx (l.base % 256)).map fun e => channels e.fmt != l.ext.getD 0 0) == some true then
        (bad none, s1)
      else if l.surface && (surfSte s1 c.ctx (l.base % 256) (nfld l.base 11 8)).isNone then
        (bad (copyTrap .spaceBound t 0 (l.base % 256 * 256 + nfld l.base 11 8) c.tag 4 4), s1)
      else (.ok l, homeAccess s1 pa 64 c.ctx (policy leaf 0) false)

/-- The ranges of physical bytes that reading a layout record accesses. -/
def recordSpans (s : State) (c : Copy) : List (Nat × Nat) :=
  if c.a % 64 != 0 then []
  else walkSpans s (some c.unit) c.ctx c.a ++
    match (translate s (some c.unit) c.ctx c.a false c.priv false).1 with
    | .ok _ pa _ => [(pa, 64)]
    | .fault .. => []

/-- The checks of a BOX or BOXST behind its record (R368, steps 3 and 4). -/
def boxChecks (s : State) (t : Nat) (c : Copy) (l : Layout) : Option Eff :=
  let acc := if c.kind == 0 then 5 else 4
  if windowBytes s t < c.b + l.imageBytes then copyTrap .spaceBound t 0 (Nat.max c.b (windowBytes s t)) c.tag 1 acc
  else if l.swz != 0 && c.b % (64 * 2 ^ l.swz) != 0 then copyTrap .misaligned t 0 c.b c.tag 1 acc
  else none

/-- The checks of a LIN (R368, steps 2 and 3); its scratchpad offsets are N32 values (R367). A range that begins inside and runs
out is reported with its first byte outside (R410). A range of length 0 is judged by its offset: one beyond the window lies outside
(log entry 82, DESIGN CHOICE). -/
def linChecks (s : State) (t : Nat) (c : Copy) : Option Eff :=
  let far (sp : Bool) (a : Nat) : Bool := !sp && decide (2 ^ 52 ≤ a)
  let past (sp : Bool) (a : Nat) : Bool := !sp && c.len != 0 && decide (2 ^ 52 < a + c.len)
  let out (sp : Bool) (a : Nat) : Bool := sp && decide (windowBytes s t < a + c.len)
  if far c.ssp c.a then copyTrap .pageFault t 1 c.a c.tag 0 4
  else if far c.dsp c.b then copyTrap .pageFault t 1 c.b c.tag 0 5
  else if 2 ^ 32 < c.len then copyTrap .spaceBound t 0 c.len c.tag 0 4
  else if past c.ssp c.a then copyTrap .pageFault t 1 (2 ^ 52) c.tag 0 4
  else if past c.dsp c.b then copyTrap .pageFault t 1 (2 ^ 52) c.tag 0 5
  else if out c.ssp c.a then copyTrap .spaceBound t 0 (Nat.max c.a (windowBytes s t)) c.tag 1 4
  else if out c.dsp c.b then copyTrap .spaceBound t 0 (Nat.max c.b (windowBytes s t)) c.tag 1 5
  else none

/-- The checks of COPYM after those of R368 (R371). -/
def copymChecks (s : State) (t : Nat) (c : Copy) : Option Eff :=
  match c.slot with
  | none => none
  | some n =>
    if (s.planOf t).acct == 0 then some (engineFault (some t) 1)
    else
      match (alookup (s.core c.unit).mx.slots n).getD .empty with
      | .loaded _ => none
      | _ => some (engineFault (some t) 6)

/-- A copy issues (R365, R370): its tag, its slot, and as much of it as is performed at once, which is open (R194, log
entry 2). -/
def copyStart (s : State) (c : Copy) : State :=
  let (n, s1) := s.newId
  let s2 := tagIssue s1 c.unit c.tag
  let s3 := match c.slot with
    | some k => s2.modCore c.unit fun u => { u with mx := { u.mx with slots := match alookup u.mx.slots k with
        | some (.loaded m) => ainsert u.mx.slots k (.occupied m)
        | _ => u.mx.slots } }
    | none => s2
  let c1 := { c with id := n, remote := touchesRemote s3 c }
  let (k, s4) := s3.free (copySize c1 + 1)
  let (s5, c2) := copyLoop (s4.modSched fun x => { x with arg := { x.arg with list := [] } }) c1 k
  s5.modMem fun m => { m with copies := m.copies ++ [{ c2 with landed := false }] }

/-- COPY and COPYM of a kind, with a slot (R367, R368, R371). -/
def copyWord (f : ExtForm) (kind : Nat) (slot : Option Nat) (s : State) : Out :=
  let x := f.x
  let k := x.km1.toNat + 1
  let src := opndSrc x.a x.a.kind (x.pbs == 1) k
  let dst := opndSrc x.b x.b.kind (x.pbs == 2) k
  let ci := x.c.idx.toNat
  let len := opndSrc x.c x.c.kind (x.pbs == 3) k
  let a0 := (engAcc f 1 1 (if kind == 2 then 1 else 0)).reads (if kind == 2 then [src, dst, len] else [src, dst])
  let a := { a0 with once := true, uregs := if kind == 2 then a0.uregs else a0.uregs ++ [ci, ci + 1, ci + 2] }
  withPrep s a fun r =>
    match actingThread s r.ths with
    | none => .ok (plainIssue s r a)
    | some t =>
      let c := s.cohort r.id
      let v (o : Src) : Nat := (srcVal s c t o).toNat
      let fin (s1 : State) (cp : Copy) (bad : Option Eff) : Eff :=
        match bad, copymChecks s1 t cp with
        | some e, _ => e
        | none, some e => e
        | none, none => .ok (commitPoint (copyStart (plainIssue s1 r a) cp) r.ths)
      if kind == 2 then
        let off (sp : Bool) (n : Nat) : Nat := if sp then n % 2 ^ 32 else n
        let cp := copyOf s r t x 2 (off (bitOf x.imm 0) (v src)) (off (bitOf x.imm 1) (v dst)) (v len) [] slot
        fin s cp (linChecks s t cp)
      else
        let u (i : Nat) : Nat := (c.readUreg (ci + i)).toNat
        let org := [u 0, u 0 / 2 ^ 32, u 1, u 1 / 2 ^ 32, u 2].map (toSigned 32)
        let cp := copyOf s r t x kind (v src) (v dst % 2 ^ 32) 0 org slot
        match takeTurn s (.req r.id) (recordSpans s cp) with
        | (false, s1) => .stall s1 .transition
        | (true, s1) =>
          match copyRecord s1 t cp with
          | (.error e, _) => e
          | (.ok l, s2) => fin s2 { cp with lay := some l } (boxChecks s2 t cp l)

def execCopyBox (f : ExtForm) (s : State) : Out := copyWord f 0 none s
def execCopyBoxst (f : ExtForm) (s : State) : Out := copyWord f 1 none s
def execCopyLin (f : ExtForm) (s : State) : Out := copyWord f 2 none s
/-- COPYM (R371). -/
def execCopym (f : ExtForm) (s : State) : Out := copyWord f (fld f.x.mod 9 8) (some (fld f.x.imm 3 2)) s

end CopyWords

section Stages

/-- The checks of STAGE at issue (R376). -/
def stageChecks (t : Nat) (q : StageReq) : Option Eff :=
  let two := q.kind == 1 || q.kind == 3
  let al := if two then 4096 else 256
  let far (a : Nat) : Bool := decide (2 ^ 52 ≤ a)
  let past (a : Nat) : Bool := q.len != 0 && decide (2 ^ 52 < a + q.len)
  if far q.src then copyTrap .pageFault t 1 q.src q.tag 0 6
  else if two && far q.dst then copyTrap .pageFault t 1 q.dst q.tag 0 7
  else if q.src % al != 0 then copyTrap .misaligned t 0 q.src q.tag 0 6
  else if two && q.dst % al != 0 then copyTrap .misaligned t 0 q.dst q.tag 0 7
  else if q.len % al != 0 then copyTrap .misaligned t 0 q.len q.tag 0 6
  else if 2 ^ 40 < q.len then copyTrap .spaceBound t 0 q.len q.tag 0 6
  else if past q.src then copyTrap .pageFault t 1 (2 ^ 52) q.tag 0 6
  else if two && past q.dst then copyTrap .pageFault t 1 (2 ^ 52) q.tag 0 7
  else none

/-- STAGE of a kind: 0 UP0, 1 UP1, 2 DOWN1, 3 DOWN2 (R376). -/
def stageWord (f : ExtForm) (kind : Nat) (s : State) : Out :=
  let x := f.x
  let k := x.km1.toNat + 1
  let src := opndSrc x.a x.a.kind (x.pbs == 1) k
  let dst := if kind == 1 || kind == 3 then opndSrc x.b x.b.kind (x.pbs == 2) k else .zero
  let len := opndSrc x.c x.c.kind (x.pbs == 3) k
  let a := { (engAcc f 1 1 1).reads [src, dst, len] with once := true }
  withPrep s a fun r =>
    match actingThread s r.ths with
    | none => .ok (plainIssue s r a)
    | some t =>
      let c := s.cohort r.id
      let th := s.thread t
      let v (o : Src) : Nat := (srcVal s c t o).toNat
      let (n, s1) := s.newId
      let q : StageReq :=
        { id := n, unit := c.unit, ctx := ctxOfCohort s c, team := th.team, plan := (s.launchOf t).plan, kind := kind,
          tag := fld x.mod 5 0, src := v src, dst := v dst, len := v len, pc := c.pc, lin := th.lin, lane := th.lane,
          priv := c.priv }
      match stageChecks t q with
      | some e => e
      | none =>
        let s2 := tagIssue (commitPoint (plainIssue s1 r a) r.ths) c.unit q.tag
        .ok (if q.len == 0 then tagDone s2 c.unit q.tag false
          else s2.modMem fun m => { m with stages := m.stages ++ [q] })

def execStageUp0 (f : ExtForm) (s : State) : Out := stageWord f 0 s
def execStageUp1 (f : ExtForm) (s : State) : Out := stageWord f 1 s
def execStageDown1 (f : ExtForm) (s : State) : Out := stageWord f 2 s
def execStageDown2 (f : ExtForm) (s : State) : Out := stageWord f 3 s

/-- A page of a stage request is reached (R376): its address, or the end of the request with its fault record. A GDDR7 page
where a flash page is named has a cause that the manual does not give (log entry 2). -/
def stageReach (s : State) (q : StageReq) (va : Nat) (write : Bool) (want : LeafKind) : Except State (Nat × DWord × State) :=
  let fail (s : State) (code : TrapCode) (cause level : Nat) (e : DWord) : State :=
    faultRecord s q.unit q.priv q.ctx code cause q.pc q.lin q.lane q.tag (BitVec.ofNat 64 va)
      (copyInfo q.tag level 0 (if write then 7 else 6)) e 0
  match translate s (some q.unit) q.ctx va write q.priv true with
  | (.fault code cause level e, s1) => .error (fail s1 code (if code == .pageFault then cause else 0) level e)
  | (.ok k a leaf, s1) =>
    if k == want then .ok (a, leaf, s1)
    else
      let (n, s2) := s1.free 3
      let cause := match k with
        | .tier => 2
        | .remote => 3
        | .gddr => n + 1
      .error (fail s2 .pageFault cause (walkLevel s q.ctx va) leaf)

/-- The lines of n bytes that the stacked cache holds. -/
def heldLines (s : State) (a n : Nat) : List Nat :=
  ((List.range ((n + 255) / 256)).map fun i => a / 256 + i).filter fun l => s.mem.l2.any fun x => x.line == l

/-- One page of a stage request, `bad` where its flash block failed (R167, R169): whether the tag's error bit is due, and
whether the request ends here. -/
def stagePage (s : State) (q : StageReq) (off n : Nat) (bad : Bool) : State × Bool × Bool :=
  let src := q.src + off
  let dst := q.dst + off
  let lines (a : Nat) : List Nat := (List.range ((n + 255) / 256)).map fun i => a / 256 + i
  match stageReach s q src false (if q.kind == 1 then .tier else .gddr) with
  | .error s1 => (s1, true, true)
  | .ok (a, leaf, s1) =>
    match q.kind with
    | 0 => ((lines a).foldl (fun s l => touchL2 s (l * 256) q.ctx (policy leaf 0) false) s1, false, false)
    | 2 => ((heldLines s1 a n).foldl (fun s l => let d := domainOf s (l * 256); touchDomain s d.1 d.2)
        (s1.modMem fun m => { m with l2 := m.l2.filter fun l => !(lines a).contains l.line }), false, false)
    | 1 =>
      match stageReach s1 q dst true .gddr with
      | .error s2 => (s2, true, true)
      | .ok (d, dleaf, s2) =>
        let bs := if bad then List.replicate n 0 else s2.mem.flash.bytes a n
        let s3 := homePut s2 d q.ctx (policy dleaf 0) bs
        (if bad then tierFail s3 q.ctx q.tag dst else s3, bad, false)
    | _ =>
      match stageReach s1 q dst true .tier with
      | .error s2 => (s2, true, true)
      | .ok (d, _, s2) =>
        let s3 := homeAccess s2 a n q.ctx (policy leaf 0) false
        if bad then (tierFail s3 q.ctx q.tag dst, true, false)
        else (s3.modMem fun m => { m with flash := m.flash.putBytes d (readPa s3 a n) }, false, false)

/-- The pages of a stage request from an offset on: whether the error bit is due. -/
def stageRun (s : State) (q : StageReq) (failed : List Nat) (off : Nat) (err : Bool) : Nat → State × Bool
  | 0 => (s, err)
  | fuel + 1 =>
    if q.len ≤ off then (s, err)
    else
      let n := Nat.min (q.len - off) (4096 - (q.src + off) % 4096)
      let (s1, e, stop) := stagePage s q off n (failed.contains ((q.dst + off) / 4096))
      if stop then (s1, true) else stageRun s1 q failed (off + n) (err || e) fuel

/-- What the pages of a stage request have accessed at one of its addresses: the entries of walks, and bytes of GDDR7. -/
def stageSpans (s : State) (q : StageReq) (va : Nat) (write : Bool) : List (Nat × Nat) × List (Nat × Nat) :=
  let pages := (List.range ((va % 4096 + q.len + 4095) / 4096)).map fun i => Nat.max va ((va / 4096 + i) * 4096)
  (pages.flatMap fun a => walkSpans s (some q.unit) q.ctx a,
   pages.filterMap fun a =>
    match (translate s (some q.unit) q.ctx a write q.priv true).1 with
    | .ok .gddr pa _ => some (pa, Nat.min (4096 - a % 4096) (va + q.len - a))
    | _ => none)

/-- A stage request's turn: a UP1 or DOWN2 accesses its pages of GDDR7 at home, a UP0 or DOWN1 only lines of the stacked cache
(R171, R178). -/
def admitStage (s : State) (q : StageReq) : Bool × State :=
  let two := q.kind == 1 || q.kind == 3
  let (w1, d1) := stageSpans s q q.src false
  let (w2, d2) := if two then stageSpans s q q.dst true else ([], [])
  let lines := if q.kind == 2 then d1.flatMap fun x => (heldLines s x.1 x.2).map fun l => (l * 256, 1) else d1 ++ d2
  admitTo s (.req q.id) (spanSegs (w1 ++ w2 ++ if two then d1 ++ d2 else [])) (spanDomains s (w1 ++ w2 ++ lines))

/-- STAGE_COMPLETE (R169): request a is performed, its failed destination blocks being in `list`, and its tag completes.
Writes to flash are performed in issue order (R168). -/
def execStageComplete (s : State) : Out :=
  match s.mem.stages.find? fun q => q.id == s.sched.arg.a with
  | none => .next s
  | some q =>
    let first := (s.mem.stages.find? fun x => x.kind == 3 && !x.squashed).map StageReq.id
    if q.squashed || (q.kind == 3 && first != some q.id) then .next s
    else
      match admitStage s q with
      | (false, s1) => .next s1
      | (true, s1) =>
        let (s2, err) := stageRun s1 q s.sched.arg.list 0 false (q.len / 256 + 2)
        .next (tagDone (s2.modMem fun m => { m with stages := m.stages.filter fun x => x.id != q.id }) q.unit q.tag err)

end Stages

end Sys2Proof.Machine
end

