-- ==== Sys2Proof/Machine/BankOps.lean ====
section
/-! DEFINITION. The bank units' jobs (R231 to R235) and the words BANKOP and BANKST (R393, R394). -/

namespace Sys2Proof.Machine

/-- The formats of an operation (R232): 0 fill, 1 scale, 2 axpby, 3 convert, 4 sumrow, 5 depthclear. -/
def bankFmtOk (op fmt : Nat) : Bool :=
  if op ≤ 3 then decide (fmt ≤ 4) else if op == 4 then fmt == 1 || fmt == 2 else fmt == 5 || fmt == 6

/-- The ENGINE_FAULT cause of a BANKOP, lowest first (R232, R393): 9 or 10, 0 for none. -/
def bankCause (op : Nat) (e : Ste) (pair : Option Ste) (tiles : Nat) : Nat :=
  let fmtBad := !bankFmtOk op e.fmt || (bankPaired op && (match pair with
    | some p => !bankFmtOk op p.fmt
    | none => false))
  let pairBad := bankPaired op && (match pair with
    | none => true
    | some p => p.wm1 != e.wm1 || p.hm1 != e.hm1 || p.nl != e.nl || (op == 2 && p.fmt != e.fmt))
  if fmtBad then 9 else if pairBad || (op == 4 && decide (1 < tiles)) then 10 else 0

/-- The existing tiles of a rectangle in ascending ty, then tx (R393). -/
def bankTiles (e : Ste) (ctx slot level : Nat) (a b : Nat × Nat) : List TileKey :=
  ((List.range (e.tilesY level)).filter fun ty => decide (a.2 ≤ ty) && decide (ty ≤ b.2)).flatMap fun ty =>
    ((List.range (e.tilesX level)).filter fun tx => decide (a.1 ≤ tx) && decide (tx ≤ b.1)).map fun tx =>
      ⟨ctx, slot, level, tx, ty⟩

/-- A team's BANKOP record; a free one is not listed. -/
def bankRec (s : State) (team n : Nat) : BankRec := (alookup (s.team team).banks n).getD {}

/-- Issues jobs, one to a tile. -/
def addJobs (s : State) (j : Job) : List TileKey → State
  | [] => s
  | k :: r =>
    let (n, s1) := s.newId
    addJobs { s1 with surf := { s1.surf with jobs := s1.surf.jobs ++ [{ j with id := n, tile := k }] } } j r

/-- BANKOP (R393): once for the cohort. -/
def bankopWord (f : ExtForm) (op : Nat) (s : State) : Out :=
  let x := f.x
  let k := x.km1.toNat + 1
  let d := x.d.idx.toNat
  let first := opndSrc x.a false (x.pbs == 1) k
  let last := opndSrc x.b false (x.pbs == 2) k
  let ab := opndSrc x.c true (x.pbs == 3) k
  let a := { (engAcc f 1 1 2).reads [first, last, ab] with wUregs := [d], once := true }
  withPrep s a fun r =>
    match actingThread s r.ths with
    | none => .ok (plainIssue s r a)
    | some t =>
      let c := s.cohort r.id
      let ctx := ctxOfCohort s c
      let slot := fld x.imm 7 0
      let level := fld x.imm 11 8
      let team := (s.thread t).team
      match firstFree ((s.team team).banks.map Prod.fst) 0 8, surfSte s ctx slot level with
      | none, _ => .stall s (.bankRecord team 8)
      | _, none => surfTrap s (some t) ctx slot level (if op == 4 then 0 else 1)
      | some n, some e =>
        let ks := bankTiles e ctx slot level (coords (srcVal s c t first)) (coords (srcVal s c t last))
        let cause := bankCause op e (boundSte s ctx (pairedSlot slot)) ks.length
        if cause != 0 then engineFault (some t) cause
        else
          let v := (srcVal s c t ab).toNat
          let j : Job := { id := 0, team := team, record := n, plan := (s.launchOf t).plan, op := op,
                           tile := ⟨ctx, slot, level, 0, 0⟩, alpha := BitVec.ofNat 32 v,
                           beta := BitVec.ofNat 32 (v / 2 ^ 32) }
          let s1 := s.modTeam team fun m => { m with banks := ainsert m.banks n { busy := true, jobs := ks.length } }
          let (w, s2) := (addJobs s1 j ks).newId
          .ok (uregResult (plainIssue s2 r a) r.id w d (BitVec.ofNat 64 n))

def execBankopFill (f : ExtForm) (s : State) : Out := bankopWord f 0 s
def execBankopScale (f : ExtForm) (s : State) : Out := bankopWord f 1 s
def execBankopAxpby (f : ExtForm) (s : State) : Out := bankopWord f 2 s
def execBankopConvert (f : ExtForm) (s : State) : Out := bankopWord f 3 s
def execBankopSumrow (f : ExtForm) (s : State) : Out := bankopWord f 4 s
def execBankopDepthclear (f : ExtForm) (s : State) : Out := bankopWord f 5 s

/-- BANKST (R394): once for the cohort. -/
def execBankst (f : ExtForm) (s : State) : Out :=
  let x := f.x
  let wait := bitOf x.mod 0
  let acc := bitOf x.mod 1
  let d := x.d.idx.toNat
  let a := { engAcc f 0 0 0 with
    uregs := [x.a.idx.toNat], wUregs := if acc then (List.range 8).map (d + ·) else [d], once := true }
  withPrep s a fun r =>
    match actingThread s r.ths with
    | none => .ok (plainIssue s r a)
    | some t =>
      let team := (s.thread t).team
      let n := ((s.cohort r.id).readUreg x.a.idx.toNat).toNat % 8
      let b := bankRec s team n
      if wait && b.busy && b.jobs != 0 then .stall s (.bankRecord team n)
      else
        let s1 := if wait then s.modTeam team fun m => { m with banks := aerase m.banks n } else s
        let (w, s2) := s1.newId
        let s3 := plainIssue s2 r a
        let word (i : Nat) : DWord := if b.busy then b.acc.getD (2 * i + 1) 0 ++ b.acc.getD (2 * i) 0 else 0
        .ok (if acc then (List.range 8).foldl (fun s i => uregResult s r.id w (d + i) (word i)) s3
          else uregResult s3 r.id w d (if b.busy then
            BitVec.ofNat 64 ((if b.jobs == 0 then 2 ^ 63 else 0) + 2 ^ 62 + b.jobs) else 0))

section Jobs

/-- A job. -/
def jobOf (s : State) (n : Nat) : Option Job := s.surf.jobs.find? fun j => j.id == n

/-- Replaces a job. -/
def setJob (s : State) (j : Job) : State :=
  { s with surf := { s.surf with jobs := s.surf.jobs.map fun x => if x.id == j.id then j else x } }

/-- The job is the next of its bank unit: no earlier one of the bank is incomplete, suspended ones apart, and none runs (R231,
R235). -/
def jobNext (s : State) (j : Job) : Bool :=
  !j.suspended &&
  !(s.surf.jobs.any fun x => x.id != j.id && x.running && !x.suspended && bankOf s x.tile == bankOf s j.tile) &&
  ((s.surf.jobs.find? fun x => !x.suspended && bankOf s x.tile == bankOf s j.tile).map Job.id) == some j.id

/-- BANKOP_JOB_START (R231): job a is taken by its bank unit, which makes its tiles resident. -/
def execBankopJobStart (s : State) : Out :=
  match jobOf s s.sched.arg.a with
  | none => .next s
  | some j =>
    if jobNext s j && !j.running then .next (wantTiles (setJob s { j with running := true }) (jobTiles j)) else .next s

/-- An access that came before waits for a tile of the job; quad work comes behind row steps (R157, R233). -/
def jobBlocked (s : State) (j : Job) : Bool :=
  s.surf.order.any fun x => x.2.any (jobTiles j).contains && tokenLive s x.1 && !(s.draw.quads.any fun q => q.id == x.1)

/-- The job's next row step can be granted. -/
def rowReady (s : State) (j : Job) : Bool :=
  j.running && !j.suspended && (notResident s (jobTiles j)).isEmpty && !jobBlocked s j

/-- A row step of a tile's bank unit is due, before which it does no quad work (R233). -/
def rowPending (s : State) (k : TileKey) : Bool := s.surf.jobs.any fun j => bankOf s j.tile == bankOf s k && rowReady s j

/-- The channels that a row step leaves in a pixel (R232): `y` the pixel, `x` the paired one. FILL writes the bits of α to an F32
channel, and CONVERT those of an F32 channel, also when they are a NaN's: R232 and R227 read so, and R104 does not list BANKOP
among the steps that move a value (log entry 65). -/
def rowPixel (j : Job) (fy fx : Nat) (y x : List Byte) : List Byte :=
  let al := j.alpha.toNat
  let be := j.beta.toNat
  if j.op == 5 then (if fy == 6 then leBytes 8 (al * 2 ^ 32 + 0xFFFFFFFF) else leBytes 4 al)
  else
    (List.range (channels fy)).foldl (fun px c =>
      let yc := chanF32 fy (chanBits fy c y)
      let xc := if c < channels fx then chanF32 fx (chanBits fx c x) else if c == 3 then 0x3F800000 else 0
      let v := match j.op with
        | 0 => al
        | 1 => F32.mul 0 al yc
        | 2 => F32.fma 0 al xc (F32.mul 0 be yc)
        | _ => xc
      setChan fy c (chanOfF32 fy v) px) y

/-- One row step of a job whose tiles are resident (R232). -/
def rowStep (s : State) (j : Job) (e : Ste) : Job × State :=
  let n := 64 / bpp e.fmt
  let pix := (List.range n).map fun i => j.rc * n + i
  let pos (p : Nat) : Nat × Nat := (8 * j.tile.tx + p % 8, 8 * j.tile.ty + p / 8)
  let k := j.tile
  let slot2 := pairedSlot k.slot
  let e2 := (alookup s.surf.bound (256 * k.ctx + slot2)).getD (emptySte [])
  if j.op == 4 then
    let row := pix.flatMap fun p => pixelAt s e k.ctx k.slot k.level (pos p).1 (pos p).2
    let acc := (List.range 16).map fun i =>
      BitVec.ofNat 32 (F32.add 0 (j.acc.getD i 0).toNat (wordAt row (4 * i)))
    ({ j with rc := j.rc + 1, acc := acc, promoted := false }, readTiles s [k])
  else
    let s0 := if bankPaired j.op then readTiles s [{ k with slot := slot2 }] else s
    let s1 := pix.foldl (fun s p =>
      let (x, y) := pos p
      let old := pixelAt s e k.ctx k.slot k.level x y
      let src := if bankPaired j.op then pixelAt s e2 k.ctx slot2 k.level x y else []
      writePixel s e k.ctx k.slot k.level x y (rowPixel j e.fmt e2.fmt old src)) s0
    ({ j with rc := j.rc + 1, promoted := false }, s1)

/-- ROW_STEP (R232 to R235): the next row step of job a; a job whose tiles are not resident asks for them, and one that has
performed its last row completes. -/
def execRowStep (s : State) : Out :=
  match jobOf s s.sched.arg.a with
  | none => .next s
  | some j =>
    if !j.running || j.suspended then .next s
    else if !rowReady s j then .next (wantTiles s (jobTiles j))
    else
      match alookup s.surf.bound (256 * j.tile.ctx + j.tile.slot) with
      | none => .next s
      | some e =>
        let (j1, s1) := rowStep s j e
        let s2 := if j.op == 4 then s1.modTeam j.team fun m =>
            { m with banks := amodify m.banks j.record fun b => { b with acc := j1.acc } } else s1
        if j1.rc * 64 < tileLen e.fmt then .next (setJob s2 j1)
        else
          let s3 := { s2 with surf := { s2.surf with jobs := s2.surf.jobs.filter fun x => x.id != j.id } }
          .next (s3.modTeam j.team fun m =>
            { m with banks := amodify m.banks j.record fun b => { b with jobs := b.jobs - 1 } })

/-- PROMOTION (R234): job a's request has been refused six cycles running. It changes timing only. -/
def execPromotion (s : State) : Out :=
  match jobOf s s.sched.arg.a with
  | none => .next s
  | some j => .next (if j.running then setJob s { j with promoted := true } else s)

end Jobs

end Sys2Proof.Machine
end

