-- ==== Sys2Proof/Machine/Proctor.lean ====
section
/-! DEFINITION. The proctor's words: debug windows (R88, R307, R413), CRESUME (R308), CKILL (R309), TLBFL (R311), CFGRD and
CFGWR (R312), EVTRD (R315), and the events DW_SEL_WRITE, DW_RPC_WRITE and FAULT_RECORD_ENQUEUE. -/

namespace Sys2Proof.Machine

/-- The proctor that a cohort runs: the cluster, or 32 for the hub proctor. -/
def whoIs (c : Cohort) : Nat := if c.unit == hubUnit then hubWho else clusterOf c.unit

section Window

/-- The stopped cohort that a handle names; a proctor's cohort has none (R409). -/
def handleCohort (s : State) (h : DWord) : Option Nat := if h.toNat / 2 ^ 24 % 256 != 0 then none else stoppedBy s h

/-- The thread of a cohort at a home lane. -/
def laneThread (s : State) (c : Cohort) (lane : Nat) : Option Nat := c.members.find? fun t => (s.thread t).lane == lane

/-- The lane and the offset within it of a lane's part of the window (R413): state, stack, vector units. -/
def windowLane (off : Nat) : Option (Nat × Nat × Nat) :=
  if 0x2000 ≤ off ∧ off < 0x2800 then some (0, (off - 0x2000) / 64, (off - 0x2000) % 64)
  else if 0x3000 ≤ off ∧ off < 0x4000 then some (1, (off - 0x3000) / 128, (off - 0x3000) % 128 / 8)
  else if 0x4000 ≤ off ∧ off < 0x8000 then some (2, (off - 0x4000) / 512, (off - 0x4000) % 512 / 8)
  else none

/-- Reads a lane's part of the window; stack entry 0 is the one pushed first (log entry 30). -/
def readLane (s : State) (c : Cohort) (t : Nat) (part ix : Nat) : Option Nat :=
  let th := s.thread t
  match part with
  | 0 =>
    if ix == 0 then some (th.lin * 2 ^ 32 + th.seat)
    else if ix == 8 then some th.preds.toNat
    else if ix == 0x10 then
      some ((if c.active.contains t then 0 else 2 ^ 37) + th.stack.length * 2 ^ 32 + th.head.toNat)
    else none
  | 1 => some ((th.stack.reverse[ix]?.map BitVec.toNat).getD 0)
  | _ =>
    let m := (s.planC c).rowmax
    if m ≤ 2 * ix then none
    else some ((th.readName (2 * ix)).toNat + (if 2 * ix + 1 < m then (th.readName (2 * ix + 1)).toNat * 2 ^ 32 else 0))

/-- Reads an 8-byte unit of a core's window; none where it is refused (R307, R413). -/
def windowRead (s : State) (core off : Nat) : Option DWord :=
  let k := s.core core
  (if off % 8 != 0 then none
  else if off == 0 then some k.dwsel.toNat
  else
    match handleCohort s k.dwsel with
    | none => none
    | some id =>
      let c := s.cohort id
      if off == 0x08 then
        some (c.members.foldl (fun n t => n + 2 ^ (32 + (s.thread t).lane)) 0 + (if c.cloak == .no then 0 else 2) + 1)
      else if off == 0x10 then c.stop.map fun st => st.rpc.toNat
      else if off == 0x18 then c.stop.map fun st => st.code.num
      else if 0x800 ≤ off ∧ off < 0x1000 then some (c.readUreg ((off - 0x800) / 8)).toNat
      else
        match windowLane off with
        | none => none
        | some (part, lane, ix) => (laneThread s c lane).bind fun t => readLane s c t part ix).map (BitVec.ofNat 64)

/-- Writes a name of a thread through the window: in its row; an unmapped one in a free row of its bank, else in a cloak
row, and then the cohort has to be recalled before it issues (R88). -/
def writeName (s : State) (id t n : Nat) (v : Word) : State :=
  let th := s.thread t
  match alookup th.names n with
  | some x => s.modThread t fun y => { y with names := ainsert y.names n { x with val := v } }
  | none =>
    match freeRow (rowsUsed s th.unit th.part) (n % 4) with
    | some row => s.modThread t fun y => { y with names := ainsert y.names n ⟨row, v⟩ }
    | none =>
      let row := (firstFree (cloakRowsUsed s th.unit th.part) 2048 (2 ^ 20)).getD 2048
      (s.modThread t fun y => { y with names := ainsert y.names n ⟨row, v⟩ }).modCohort id fun c =>
        { c with cloak := if c.cloak == .no then .cloaked false else c.cloak }

/-- Sets the PC at which a stopped cohort resumes (R413). -/
def writeRpc (s : State) (id : Nat) (pc : Word) : State :=
  s.modCohort id fun c => { c with stop := c.stop.map fun st => { st with rpc := pc } }

/-- Selects the cohort of a core's window; a handle of another core is refused (R413). -/
def writeSel (s : State) (core : Nat) (v : DWord) : Option State :=
  if v.toNat / 2 ^ 16 % 256 == core then some (s.modCore core fun k => { k with dwsel := v }) else none

/-- Writes an 8-byte unit of a core's window; none where it is refused. -/
def windowWrite (s : State) (core off : Nat) (v : DWord) : Option State :=
  if off % 8 != 0 then none
  else if off == 0 then writeSel s core v
  else
    match handleCohort s (s.core core).dwsel with
    | none => none
    | some id =>
      let c := s.cohort id
      if off == 0x10 then some (writeRpc s id (v.setWidth 32))
      else if 0x800 ≤ off ∧ off < 0x1000 then some (s.modCohort id fun k => k.setUreg ((off - 0x800) / 8) v)
      else
        match windowLane off with
        | none => none
        | some (part, lane, ix) =>
          (laneThread s c lane).bind fun t =>
            if part == 0 && ix == 8 then
              if v.toNat / 128 != 0 then none else some (s.modThread t fun th => { th with preds := v.setWidth 7 })
            else if part == 2 then
              let m := (s.planC c).rowmax
              if m ≤ 2 * ix then none
              else
                let s1 := writeName s id t (2 * ix) (v.setWidth 32)
                some (if 2 * ix + 1 < m then writeName s1 id t (2 * ix + 1) (v.extractLsb' 32 32) else s1)
            else none

/-- DW_SEL_WRITE (R413): its data names the core and the handle. -/
def execDwSelWrite (s : State) : Out := .next ((windowWrite s s.sched.arg.a 0 s.sched.arg.value).getD s)

/-- DW_RPC_WRITE (R413). -/
def execDwRpcWrite (s : State) : Out := .next ((windowWrite s s.sched.arg.a 0x10 s.sched.arg.value).getD s)

end Window

section Words

/-- The accesses of a proctor's word: uniform registers read and written. -/
def procAcc (f : ExtForm) (reads writes : List Nat) (pd : Bool) : Acc :=
  { extAcc f.x f.lit.isSome with
    uregs := reads, wUregs := writes, wPreds := if pd && decide (f.x.pd.toNat < 7) then [f.x.pd.toNat] else [], once := true }

/-- Results of a proctor's word, done before the next word issues (R306): uniform registers and the predicate. -/
def procDone (s : State) (r : Ready) (a : Acc) (f : ExtForm) (us : List (Nat × DWord)) (pd : Option Bool) : Eff :=
  let (w, s1) := s.newId
  let ps := match pd with
    | some v => r.ths.flatMap fun t => (predPends w true (s.sched.clk + 1) f.x.pd.toNat v).map fun p => (t, p)
    | none => []
  .ok (us.foldl (fun s (d, v) => uregResult s r.id w d v) (commit s1 r a ps))

/-- A proctor's word: no effect when its guard holds for no thread. -/
def procWord (a : Acc) (s : State) (g : Ready → Cohort → Eff) : Out :=
  withPrep s a fun r => if r.ths.isEmpty then .ok (plainIssue s r a) else g r (s.cohort r.id)

/-- The address of a window or configuration word. -/
def procAddr (f : ExtForm) (c : Cohort) : Nat := (c.readUreg f.x.a.idx.toNat + f.x.imm.setWidth 64).toNat

/-- The value that a word writes: a literal or a uniform register. -/
def procValue (f : ExtForm) (c : Cohort) : DWord := f.lit.getD (c.readUreg f.x.b.idx.toNat)

/-- DWRD (R307). -/
def execDwrd (f : ExtForm) (s : State) : Out :=
  let d := f.x.d.idx.toNat
  let a := procAcc f [f.x.a.idx.toNat] [d] true
  procWord a s fun r c =>
    let p := procAddr f c
    if p % 8 != 0 then .trap .misaligned {}
    else
      let core := p / 2 ^ 16 % 256
      let v := if p / 2 ^ 24 != 0 || !reaches (whoIs c) core then none else windowRead s core (p % 2 ^ 16)
      procDone s r a f [(d, v.getD 0)] (some v.isSome)

/-- DWWR (R307). -/
def execDwwr (f : ExtForm) (s : State) : Out :=
  let a := procAcc f (f.x.a.idx.toNat :: if f.lit.isSome then [] else [f.x.b.idx.toNat]) [] true
  procWord a s fun r c =>
    let p := procAddr f c
    if p % 8 != 0 then .trap .misaligned {}
    else
      let core := p / 2 ^ 16 % 256
      let s1 := if p / 2 ^ 24 != 0 || !reaches (whoIs c) core then none else windowWrite s core (p % 2 ^ 16) (procValue f c)
      procDone (s1.getD s) r a f [] (some s1.isSome)

/-- CFGRD (R312). -/
def execCfgrd (f : ExtForm) (s : State) : Out :=
  let d := f.x.d.idx.toNat
  let a := procAcc f [f.x.a.idx.toNat] [d] true
  procWord a s fun r c =>
    let p := procAddr f c
    if p % 8 != 0 then .trap .misaligned {}
    else
      let v := cfgRead s (whoIs c) p
      procDone s r a f [(d, v.getD 0)] (some v.isSome)

/-- CFGWR (R312). -/
def execCfgwr (f : ExtForm) (s : State) : Out :=
  let a := procAcc f (f.x.a.idx.toNat :: if f.lit.isSome then [] else [f.x.b.idx.toNat]) [] true
  procWord a s fun r c =>
    let p := procAddr f c
    if p % 8 != 0 then .trap .misaligned {}
    else
      let s1 := cfgWrite s (whoIs c) p (procValue f c).toNat
      procDone (s1.getD s) r a f [] (some s1.isSome)

/-- A word on a cohort handle: 0x02 outside reach, 0x01 where it names no stopped cohort, else its action on every cohort of the
group (R308, R309, R412). -/
def handleWord (f : ExtForm) (reads : List Nat) (s : State) (inReach : Nat → List Nat → Bool)
    (act : Cohort → State → Nat → State) : Out :=
  let d := f.x.d.idx.toNat
  let a := procAcc f (f.x.a.idx.toNat :: reads) [d] false
  procWord a s fun r c =>
    let h := c.readUreg f.x.a.idx.toNat
    let ids := if h.toNat / 2 ^ 24 % 256 != 0 then [] else groupOf s h
    if !reaches (whoIs c) (h.toNat / 2 ^ 16 % 256) || !inReach (whoIs c) ids then procDone s r a f [(d, 2)] none
    else if ids.isEmpty then procDone s r a f [(d, 1)] none
    else procDone (ids.foldl (act c) s) r a f [(d, 0)] none

/-- CRESUME (R308): at the recorded resume point. -/
def execCresume (f : ExtForm) (s : State) : Out :=
  handleWord f [] s (fun _ _ => true) fun _ s id =>
    match (s.cohort id).stop with
    | some st => resume s id st.rpc
    | none => s

/-- CRESUME of MODE 1 (R308): after the trapping word. -/
def execCresumeSkip (f : ExtForm) (s : State) : Out :=
  handleWord f [] s (fun _ _ => true) fun _ s id =>
    match (s.cohort id).stop with
    | some st => resume s id (pcAdd st.tpc st.len)
    | none => s

/-- CRESUME of MODE 2 (R308): at a given PC. -/
def execCresumePc (f : ExtForm) (s : State) : Out :=
  handleWord f [f.x.b.idx.toNat] s (fun _ _ => true) fun c s id => resume s id ((c.readUreg f.x.b.idx.toNat).setWidth 32)

/-- The placed teams of a plan, pre-empted ones among them. -/
def planTeams (s : State) (plan : Nat) : List (Nat × Team) :=
  s.work.teams.filter fun (_, t) => !t.exited && (s.launch t.launch).plan == plan

/-- The plans at an address that are not done. The operand of `cpreempt.plan` and `cresume.plan` carries no context number (R308,
R310), so plans of every context at that address are named (log entry 78, DESIGN CHOICE). -/
def plansAt (s : State) (addr : Nat) : List Nat :=
  (s.work.plans.filter fun (_, p) => p.addr == addr && !p.done).map Prod.fst

/-- A team lies wholly within a proctor's reach (R306). -/
def teamReach (who : Nat) (t : Team) : Bool := t.units.all (reaches who)

/-- CRESUME of MODE 3 (R308): the held teams of a plan become placeable. -/
def execCresumePlan (f : ExtForm) (s : State) : Out :=
  let d := f.x.d.idx.toNat
  let a := procAcc f [f.x.a.idx.toNat] [d] false
  procWord a s fun r c =>
    let teams := (plansAt s ((c.readUreg f.x.a.idx.toNat).toNat % 2 ^ 52)).flatMap (planTeams s)
    let held := teams.filter fun (_, t) => t.held && t.save.isSome
    if !(teams.all fun (_, t) => teamReach (whoIs c) t) then procDone s r a f [(d, 2)] none
    else if held.isEmpty then procDone s r a f [(d, 1)] none
    else procDone (held.foldl (fun s (i, _) => s.modTeam i fun t => { t with held := false }) s) r a f [(d, 0)] none

/-- CKILL (R309): every thread of the stopped cohort. -/
def execCkill (f : ExtForm) (s : State) : Out :=
  handleWord f [] s (fun _ _ => true) fun _ s id => killThreads s (s.cohort id).members

/-- The teams and the plan of a cohort. -/
def cohortTeams (s : State) (id : Nat) : List Nat := distinct ((s.cohort id).members.map fun t => (s.thread t).team)
def cohortPlan (s : State) (id : Nat) : Nat := (s.launch (s.cohort id).launch).plan

/-- CKILL of SCOPE 1 (R309): every thread of the cohort's team. -/
def execCkillTeam (f : ExtForm) (s : State) : Out :=
  handleWord f [] s (fun who ids => ids.all fun id => (cohortTeams s id).all fun t => teamReach who (s.team t))
    fun _ s id => (cohortTeams s id).foldl killTeam s

/-- CKILL of SCOPE 2 (R309): the cohort's plan. -/
def execCkillPlan (f : ExtForm) (s : State) : Out :=
  handleWord f [] s (fun who ids => ids.all fun id => (planTeams s (cohortPlan s id)).all fun t => teamReach who t.2)
    fun _ s id => if (s.cohort? id).isSome then killPlan s (cohortPlan s id) 0 else s

/-- Invalidates TLB entries everywhere (R311). -/
def flushTlbs (s : State) (gone : TlbEntry → Bool) : State :=
  { s with
    cores := s.cores.map fun (u, k) => (u, { k with tlb := k.tlb.filter fun e => !gone e })
    mem := { s.mem with ctlb := s.mem.ctlb.map fun (n, l) => (n, l.filter fun e => !gone e) } }

/-- The entry through which a copy's request to a peer has been translated: of a CONTIG group, the widest that there can be. -/
def awaitEntry (c : Copy) (w : Await) : TlbEntry :=
  let n := if w.level == 3 && w.leaf.getLsbD 9 then 16 else leafPages w.level
  ⟨c.ctx, w.va / 4096 / n * n, n, w.leaf⟩

/-- A request to a peer is under way of which no copy waits for the answer any more. -/
def strayFlight (s : State) : Bool := s.host.flights.any fun f => !s.mem.copies.any fun c => (c.await.map Await.req) == some f.2.2

/-- Accesses that a TLBFL of a proctor on a unit must wait for (R311, steps 1 and 2): the proctor's own surface writes, and requests to
peers that have been translated through an entry that it invalidates, or whose address is no longer known. -/
def flushWaits (s : State) (unit : Nat) (gone : TlbEntry → Bool) : Bool :=
  (s.surf.reqs.any fun q => (q.kind == 1 || q.kind == 2) && (s.thread q.thread).unit == unit) ||
    (s.mem.copies.any fun c => c.await.any fun w => gone (awaitEntry c w)) || strayFlight s

/-- TLBFL of the entries that a test selects (R311): they are gone as it begins, and it completes once nothing is under way that used
one. -/
def flushWord (s : State) (r : Ready) (a : Acc) (unit : Nat) (gone : TlbEntry → Bool) : Eff :=
  let s1 := flushTlbs s gone
  if flushWaits s unit gone then .stall s1 .drain else .ok (plainIssue s1 r a)

/-- TLBFL of a page (R311). -/
def execTlbflPage (f : ExtForm) (s : State) : Out :=
  let a := procAcc f [f.x.a.idx.toNat, f.x.b.idx.toNat] [] false
  procWord a s fun r c =>
    let page := (c.readUreg f.x.a.idx.toNat).toNat % 2 ^ 52 / 4096
    let ctx := (c.readUreg f.x.b.idx.toNat).toNat % 16
    flushWord s r a c.unit fun e => e.ctx == ctx && decide (e.page ≤ page) && decide (page < e.page + e.pages)

/-- TLBFL of a context (R311). -/
def execTlbflCtx (f : ExtForm) (s : State) : Out :=
  let a := procAcc f [f.x.b.idx.toNat] [] false
  procWord a s fun r c =>
    let ctx := (c.readUreg f.x.b.idx.toNat).toNat % 16
    flushWord s r a c.unit fun e => e.ctx == ctx

/-- TLBFL of everything (R311). -/
def execTlbflAll (f : ExtForm) (s : State) : Out :=
  let a := procAcc f [] [] false
  procWord a s fun r c => flushWord s r a c.unit fun _ => true

/-- A read of the oldest record of a queue into consecutive uniform registers (R315). -/
def recordRead (f : ExtForm) (n : Nat) (s : State) (get : State → Nat → Option (List DWord × State)) : Out :=
  let d := f.x.d.idx.toNat
  let a := procAcc f [] ((List.range n).map (d + ·)) true
  procWord a s fun r c =>
    match get s (whoIs c) with
    | some (vs, s1) => procDone s1 r a f ((vs.zipIdx).map fun (v, i) => (d + i, v)) (some true)
    | none => procDone s r a f ((List.range n).map fun i => (d + i, 0)) (some false)

/-- EVTRD (R315): the proctor's event queue. -/
def execEvtrd (f : ExtForm) (s : State) : Out :=
  recordRead f 4 s fun s who =>
    match (alookup s.host.evp who).getD [] with
    | e :: r => some (e.dwords, s.modHost fun h => { h with evp := ainsert h.evp who r })
    | [] => none

/-- EVTRD.FAULT (R315): the proctor's fault queue; the hub proctor has none. -/
def execEvtrdFault (f : ExtForm) (s : State) : Out :=
  recordRead f 8 s fun s who =>
    match (if who == hubWho then [] else (alookup s.host.faultq who).getD []) with
    | e :: r => some (e.dwords, s.modHost fun h => { h with faultq := ainsert h.faultq who r })
    | [] => none

end Words

/-- FAULT_RECORD_ENQUEUE (R411): a record held at a unit enters the fault queue once a place is free. -/
def execFaultRecordEnqueue (s : State) : Out :=
  let u := s.sched.arg.a
  match (s.core u).held with
  | [] => .next s
  | r :: rest =>
    match queueRecord (s.modCore u fun k => { k with held := rest }) (clusterOf u) r with
    | some s1 => .next s1
    | none => .next s

end Sys2Proof.Machine
end

