-- ==== Sys2Proof/Machine/QueueOps.lean ====
section
/-! DEFINITION. The queue words QPUSH, QAWAIT, QREL and QSTAT (R59, R61, R372 to R375). -/

namespace Sys2Proof.Machine

/-- QUEUE_FAULT with the queue and the reason (R410). -/
def queueFault (t queue reason : Nat) : Eff :=
  .trap .queueFault { thread := some t, i0 := BitVec.ofNat 64 (queue % 8 * 256 + reason) }

/-- The fault of a queue object, slot or filled bitmap that cannot be reached (R410, space 6). -/
def queueAccess (t va : Nat) (write : Bool) (code : TrapCode) (cause level : Nat) (e : DWord) : Eff :=
  .trap code { cause := cause, thread := some t, i0 := BitVec.ofNat 64 va,
               i1 := BitVec.ofNat 64 (level * 2 ^ 24 + 0xFF * 2 ^ 16 + 6 * 2 ^ 8 + write.toNat), i2 := e }

/-- The first byte of a range and the first byte of each further page that it touches: where a fault of it can lie first. -/
def edges (va n : Nat) : List Nat :=
  va :: (List.range ((va + n - 1) / 4096 - va / 4096)).map fun i => (va / 4096 + i + 1) * 4096

/-- The first of some addresses that cannot be reached. -/
def unreachable (s : State) (t ctx : Nat) (priv write : Bool) (vas : List Nat) : Option Eff :=
  vas.findSome? fun va => match (translate s none ctx va write priv false).1 with
    | .ok .. => none
    | .fault code cause level e => some (queueAccess t va write code cause level e)

/-- The queue object of a queue word: of a stage of the acting thread's plan, with the checks of R372. -/
def queueFor (s : State) (t queue : Nat) (push consume : Bool) : Except Eff QObj :=
  let p := s.planOf t
  let stage := (s.launchOf t).stage
  if p.draw then .error (queueFault t queue 2)
  else if queue == 0 || decide (p.stages.length < queue) then .error (queueFault t queue (if consume then 4 else 3))
  else if push && decide (queue ≤ stage) then .error (queueFault t queue 4)
  else
    let a := stageQueue p queue
    match unreachable s t p.ctx false false [a] with
    | some e => .error e
    | none =>
      match queueAt s p.ctx a with
      | some q => .ok q
      | none => .error (queueFault t queue 1)

/-- SPACE_BOUND of a scratchpad range of records (R372). A range of no records is judged by its offset too, so a QPUSH of n = 0 beyond
the window traps before it does nothing (log entry 82, DESIGN CHOICE). The width that the record gives, 1 to
16 or 0xFF, is free (R410, log entry 2). -/
def queueSpace (s : State) (t off n : Nat) (write : Bool) : Option Eff :=
  if windowBytes s t < off + n then
    let w := Config.freeNat s.sched.fresh % 17
    some (.trap .spaceBound
      { thread := some t, i0 := BitVec.ofNat 64 off,
        i1 := BitVec.ofNat 64 (0xFF * 2 ^ 24 + (if w == 0 then 0xFF else w) * 2 ^ 16 + 2 ^ 8 + write.toNat) })
  else none

/-- A fused ring of the plan's stage on a unit with a free slot, and that slot (R61). Of several rings, those of launches fused
one after another, the oldest with a free slot takes the record (log entry 58). -/
def freeRing (s : State) (plan stage unit : Nat) : Option (Nat × Nat) :=
  s.work.rings.findSome? fun (i, r) =>
    if r.plan == plan && r.stage == stage && r.unit == unit then (firstFree (r.held ++ r.out) 0 r.slots).map fun k => (i, k) else none

/-- Puts a record into a slot of a fused ring. -/
def ringPush (s : State) (id slot : Nat) (bs : List Byte) : State :=
  match alookup s.work.rings id with
  | none => s
  | some r =>
    (s.modCore r.unit fun k => { k with scratch := k.scratch.putBytes (r.base + slot * r.size) bs }).modRing id
      fun r => { r with held := r.held ++ [slot] }

/-- How far a QPUSH has come: the records that it has pushed in this issue, and whether the next one waits at the directory. -/
structure Pushed where
  count : Nat
  waits : Bool
  after : State

/-- The next record's place is to be accessed: the queue object, which every queue word reads (R372), and, where no ring takes the
record, its slot and filled bit. -/
def admitPush (s : State) (id t : Nat) (ring : Bool) (q : QObj) : Bool × State :=
  admitQueue s (.req id) (s.planOf t).ctx q (if ring then [] else [q.wr])

/-- Pushes records from an offset of the acting thread's window until one finds no place (R373) or must wait at the directory. -/
def pushAll (s : State) (id t unit queue addr off : Nat) (priv : Bool) (size : Nat) : Nat → Except Eff Pushed
  | 0 => .ok ⟨0, false, s⟩
  | n + 1 =>
    let p := s.planOf t
    let bs := winBytes s (s.thread t).team unit off size
    let go (s1 : State) : Except Eff Pushed :=
      match pushAll s1 id t unit queue addr (off + size) priv size n with
      | .ok x => .ok { x with count := x.count + 1 }
      | .error e => .error e
    match queueAt s p.ctx addr with
    | none => .error (queueFault t queue 1)
    | some q =>
      let ring := freeRing s (s.launchOf t).plan queue unit
      match admitPush s id t ring.isSome q with
      | (false, s1) => .ok ⟨0, true, s1⟩
      | (true, s1) =>
        match ring with
        | some (l, slot) => go (ringPush (visitHome s1 p.ctx addr 32) l slot bs)
        | none =>
          match unreachable s1 t p.ctx false true ((addr + 16) :: (edges (q.slotAddr q.wr) size ++ [q.bitAddr q.wr])) with
          | some e => .error e
          | none =>
            match pushRecord s1 p.ctx q bs with
            | some s2 => go (release s2 unit 4 priv)
            | none => .ok ⟨0, false, s1⟩

/-- The fault of a slot of a queue in memory. A QPUSH that is to wait behind records of its own that it would commit traps before
any of them is committed (R406) if any slot that it may come to use, whoever pushes meanwhile, cannot be reached (log entry 59). -/
def unpushable (s : State) (t addr size : Nat) : Option Eff :=
  match queueAt s (s.planOf t).ctx addr with
  | none => none
  | some q => unreachable s t (s.planOf t).ctx false true ((List.range q.slots).flatMap fun i =>
      edges (q.slotAddr (q.wr + i)) size ++ [q.bitAddr (q.wr + i)])

/-- A QPUSH whose next record must wait: for its turn at the directory, or for room. -/
def pushStall (x : Pushed) (id t queue pushed : Nat) : Eff :=
  .stall (x.after.modCohort id fun u => { u with pushed := pushed }) (if x.waits then .transition else .queueRoom t queue)

/-- QPUSH (R373): a commit point. Only a change of the page tables while it waits can make it trap after some of its records are
committed: they stay so, and the word, tried again, goes on with the next one (log entry 59). -/
def execQpush (f : ExtForm) (s : State) : Out :=
  let x := f.x
  let k := x.km1.toNat + 1
  let queue := fld x.mod 2 0
  let off := opndSrc x.b false (x.pbs == 2) k
  let cnt := opndSrc x.c false (x.pbs == 3) k
  let a := { (engAcc f 0 1 1).reads [off, cnt] with once := true }
  withPrep s a fun r =>
    match actingThread s r.ths with
    | none => .ok (plainIssue s r a)
    | some t =>
      let c := s.cohort r.id
      match queueFor s t queue true false with
      | .error e => e
      | .ok q =>
        let n := (srcVal s c t cnt).toNat % 2 ^ 32
        let o := (srcVal s c t off).toNat % 2 ^ 32
        if q.slots < n then queueFault t queue 5
        else
          match queueSpace s t o (n * q.size) false with
          | some e => e
          | none =>
            -- records committed while the word waited are not pushed again
            let old := c.pushed
            if releaseWait s r.ths 4 then .stall s .drain
            else if n == 0 then
              match admitPush s r.id t true q with
              | (false, s1) => .stall s1 .transition
              | (true, s1) => .ok (plainIssue (commitPoint (visitHome s1 (s.planOf t).ctx q.addr 32) r.ths) r a)
            else match pushAll s r.id t c.unit queue q.addr (o + old * q.size) c.priv q.size (n - old) with
            | .error e => e
            | .ok x =>
              let m := old + x.count
              if m == n then .ok (plainIssue (commitPoint x.after r.ths) r a)
              else
                match if old == 0 && m != 0 then unpushable s t q.addr q.size else none with
                | some e => e
                | none => pushStall (if m == 0 then x else { x with after := commitPoint x.after r.ths }) r.id t queue m

/-- The next n records of a claim (R61, R374), those of the ring first: claimed slots of the launch's ring, then records that
the ring holds unclaimed, which replace the claim's last records of the queue in memory, then the others in claim order; and the
records of the claim that are so replaced. -/
def nextClaim (l : Launch) (held : List Nat) (n : Nat) : List QRec × List Nat :=
  let m := Nat.min n l.claim.length
  let own := l.claim.filter fun r => match r with
    | .ring i _ => l.ring == some i
    | .mem _ => false
  let rest := l.claim.filter fun r => !own.contains r
  let mem := memRecs rest
  let k := Nat.min (m - own.length) (Nat.min held.length mem.length)
  let back := mem.drop (mem.length - k)
  let fresh := (held.take k).map fun slot => QRec.ring (l.ring.getD 0) slot
  ((own ++ fresh ++ rest.filter fun r => match r with
    | .mem x => !back.contains x
    | .ring _ _ => true).take m, back)

/-- The unclaimed records of a launch's ring. -/
def ringHeld (s : State) (l : Launch) : List Nat := ((l.ring.bind (alookup s.work.rings)).map Ring.held).getD []

/-- The bytes of a claimed record. -/
def takenBytes (s : State) (ctx : Nat) (q : QObj) : QRec → List Byte
  | .ring i k => match alookup s.work.rings i with
    | some r => (s.core r.unit).scratch.bytes (r.base + k * r.size) q.size
    | none => List.replicate q.size 0
  | .mem n => (readHome s ctx (q.slotAddr n) q.size).getD (List.replicate q.size 0)

/-- Takes records: they leave the claim, and are held until they are released; what the claim gives back is unclaimed again
(R61). -/
def takeClaim (s : State) (launch : Nat) (ts : List QRec) (back : List Nat) : State :=
  let la := s.launch launch
  let s1 := s.modLaunch launch fun l => { l with
    claim := l.claim.filter fun r => !ts.contains r && !(match r with
      | .mem n => back.contains n
      | .ring _ _ => false)
    taken := l.taken ++ ts }
  { s1 with work := { s1.work with
    rings := s1.work.rings.map fun (i, r) =>
      let mine := (ringRecs i ts).filter r.held.contains
      (i, { r with held := without r.held mine, out := r.out ++ mine })
    returned := s1.work.returned ++ back.map fun n => (la.plan, la.stage, n) } }

/-- An acquire at DEVICE scope that reads a virtual range (R187). -/
def acquireVa (s : State) (unit ctx : Nat) (priv : Bool) (va : Nat) : Nat → State
  | 0 => s
  | n + 1 =>
    if priv then s
    else
      let s1 := match (translate s none ctx va false true false).1 with
        | .ok _ pa _ => widen s pa 1 unit 4
        | .fault .. => s
      acquireVa s1 unit ctx priv (va + 1) n

/-- QAWAIT (R374): a commit point once it takes records. -/
def execQawait (f : ExtForm) (s : State) : Out :=
  let x := f.x
  let k := x.km1.toNat + 1
  let off := opndSrc x.b false (x.pbs == 2) k
  let cnt := opndSrc x.c false (x.pbs == 3) k
  let d := x.d.idx.toNat
  let a := { (engAcc f 0 1 1).reads [off, cnt] with wUregs := [d], once := true }
  withPrep s a fun r =>
    match actingThread s r.ths with
    | none => .ok (plainIssue s r a)
    | some t =>
      let c := s.cohort r.id
      let l := (s.thread t).launch
      let la := s.launch l
      match queueFor s t la.stage false true with
      | .error e => e
      | .ok q =>
        let ctx := (s.planOf t).ctx
        let n := (srcVal s c t cnt).toNat % 2 ^ 32
        let o := (srcVal s c t off).toNat % 2 ^ 32
        let (ts, back) := nextClaim la (ringHeld s la) n
        match queueSpace s t o (n * q.size) true with
        | some e => e
        | none =>
          match unreachable s t ctx false false ((memRecs ts).flatMap fun m => q.bitAddr m :: edges (q.slotAddr m) q.size) with
          | some e => e
          | none =>
            match admitQueue s (.req r.id) ctx q (memRecs ts) with
            | (false, s0) => .stall s0 .transition
            | (true, s0) =>
            if !(memRecs ts).all (filled s ctx q) then .stall s0 (.queueRecords t n)
            else
              let s1 := (memRecs ts).foldl (fun s m =>
                acquireVa (acquireVa s c.unit ctx c.priv (q.bitAddr m) 1) c.unit ctx c.priv (q.slotAddr m) q.size)
                ((memRecs ts).foldl (fun s m => visitHome (visitHome s ctx (q.bitAddr m) 1) ctx (q.slotAddr m) q.size)
                  (visitHome s0 ctx q.addr 32))
              let bytes := ts.flatMap (takenBytes s1 ctx q)
              let s2 := takeClaim (winWrite s1 (s.thread t).team c.unit o bytes) l ts back
              let (w, s3) := s2.newId
              .ok (commitPoint (uregResult (plainIssue s3 r a) r.id w d (BitVec.ofNat 64 ts.length)) r.ths)

/-- QREL (R375): a commit point. -/
def execQrel (f : ExtForm) (s : State) : Out :=
  let x := f.x
  let cnt := opndSrc x.c false (x.pbs == 3) (x.km1.toNat + 1)
  let a := { (engAcc f 0 0 1).reads [cnt] with once := true }
  withPrep s a fun r =>
    match actingThread s r.ths with
    | none => .ok (plainIssue s r a)
    | some t =>
      let c := s.cohort r.id
      let l := (s.thread t).launch
      let la := s.launch l
      match queueFor s t la.stage false true with
      | .error e => e
      | .ok q =>
        let ts := la.taken.take ((srcVal s c t cnt).toNat % 2 ^ 32)
        match admitQueue s (.req r.id) (s.planOf t).ctx q (memRecs ts) with
        | (false, s1) => .stall s1 .transition
        | (true, s1) => .ok (commitPoint (plainIssue (releaseRecords (visitHome s1 (s.planOf t).ctx q.addr 32) l ts) r a) r.ths)

/-- QSTAT (R375): the counts read at home. -/
def execQstat (f : ExtForm) (s : State) : Out :=
  let x := f.x
  let d := x.d.idx.toNat
  let queue := fld x.mod 2 0
  let a := { engAcc f 0 0 0 with wUregs := [d], once := true }
  withPrep s a fun r =>
    match actingThread s r.ths with
    | none => .ok (plainIssue s r a)
    | some t =>
      match queueFor s t queue false false with
      | .error e => e
      | .ok q =>
        match admitQueue s (.req r.id) (s.planOf t).ctx q [] with
        | (false, s0) => .stall s0 .transition
        | (true, s0) =>
          let (w, s1) := (visitHome s0 (s.planOf t).ctx q.addr 32).newId
          .ok (uregResult (plainIssue s1 r a) r.id w d (BitVec.ofNat 64 (q.unclaimed * 2 ^ 32 + q.held)))

end Sys2Proof.Machine
end

