-- ==== Sys2Proof/Machine/Homerooms.lean ====
section
/-! DEFINITION. Homeroom bins and the cloakroom: waits whose end is near, filing of long waits (R41), formation of cohorts
(R44, R45, R435), cloaking and recall (R76 to R80), the issue cap (R38). -/

namespace Sys2Proof.Machine

section Waits

/-- The tags that a tag wait names are as it wants them (R366). -/
def tagsReady (s : State) (unit : Nat) (any : Bool) (m : DWord) : Bool :=
  if any then m == 0 || (lowestDone s unit m).isSome else (tagsIn m).all fun n => (tagAt s unit n).done

/-- A thread waits for no meshlet to be taken (R399). -/
def meshFree (s : State) (t : Nat) : Bool := !(s.thread t).meshArr && !(((s.teamOf t).mesh.map Meshlet.closed).getD false)

/-- The barrier generations for which a thread is filed have completed (R41, R360). -/
def barrierPassed (s : State) (f : Filed) : Bool := f.gens.all fun g => decide (g.2 < (s.team g.1).barGen)

/-- The release condition of a bin holds for a thread (R41, R44). -/
def condHolds (s : State) (unit : Nat) (cond : BinCond) (f : Filed) : Bool :=
  match cond with
  | .openBin => true
  | .passback n k w => !unpublished s n k w f.thread
  | .barrier => barrierPassed s f
  | .tag any m _ _ => tagsReady s unit any m
  | .meshlet => meshFree s f.thread

/-- A queue of a thread's plan has room for a record (R373, R61). -/
def roomFor (s : State) (t queue : Nat) : Bool :=
  let p := s.planOf t
  (freeRing s (s.launchOf t).plan queue (s.thread t).unit).isSome ||
  match queueAt s p.ctx (stageQueue p queue) with
  | some q => decide (q.held < q.slots)
  | none => true

/-- The next n records of the claim of a thread's launch are filled (R374). -/
def recordsFilled (s : State) (t n : Nat) : Bool :=
  let p := s.planOf t
  let la := s.launchOf t
  match queueAt s p.ctx (stageQueue p la.stage) with
  | some q => (memRecs (nextClaim la (ringHeld s la) n).1).all (filled s p.ctx q)
  | none => true

/-- A hall pass would be granted to a unit (R190, R362). -/
def passReady (s : State) (unit n : Nat) : Bool :=
  match alookup s.mem.passes n with
  | some p => p.holder == some unit || (p.holder.isNone && p.queue.isEmpty)
  | none => true

/-- What a stalled word waits for has come about. -/
def stallOver (s : State) (c : Cohort) : Stall → Bool
  | .grow bs => rowsFit (rowsUsed s c.unit c.part) bs
  | .passback n k w ths => ths.all fun t => !unpublished s n k w t
  | .tag any m _ _ _ => tagsReady s c.unit any m
  | .queueRoom t q => roomFor s t q
  | .queueRecords t n => recordsFilled s t n
  | .hallPass n => passReady s c.unit n
  | .staged k =>
    match (alookup (s.core c.unit).mx.slots k).getD .empty with
    | .occupied _ => false
    | _ => true
  | .matrixQueue => decide ((mxWaiting (s.core c.unit).mx).length < 16)
  | .bankRecord m k =>
    if k < 8 then (bankRec s m k).jobs == 0 else (firstFree ((s.team m).banks.map Prod.fst) 0 8).isSome
  | .meshlet ths => ths.all (meshFree s)
  | .scoreboard | .second | .transition | .drain | .settle | .instruction => true

/-- The condition on which a cohort waits holds, as far as recall asks for it (R77 to R79). -/
def waitHolds (s : State) (c : Cohort) : Bool :=
  c.stop.isNone &&
  match c.wait with
  | .none | .clock _ _ => true
  | .stall r _ => stallOver s c r
  | .barrier _ _ _ | .bell _ _ | .overlay _ _ _ | .mstat _ _ | .preempt _ _ _ => false

/-- A cohort is blocked (R77). -/
def blocked (s : State) (c : Cohort) : Bool :=
  c.stop.isSome ||
  match c.wait with
  | .none | .clock _ _ | .preempt _ _ _ => false
  | .stall r _ => r.blocks && !stallOver s c r
  | .barrier _ _ _ | .bell _ _ | .overlay _ _ _ | .mstat _ _ => true

/-- The banks in which a cohort is grow-stalled, those with too few free rows for the word at its PC (R73); none when it is
not. -/
def growBanks (s : State) (c : Cohort) : List Nat :=
  match c.wait with
  | .stall (.grow bs) _ =>
    if c.stop.isNone then bs.filter fun b => !rowsFit (rowsUsed s c.unit c.part) (bs.filter (· == b)) else []
  | _ => []

/-- PASSBACK_PUBLISHED (R52, R53): the values that cohort a waits for are published, and it goes on. -/
def execPassbackPublished (s : State) : Out :=
  .next (s.modCohort s.sched.arg.a fun c =>
    match c.wait with
    | .stall (.passback n k w ths) _ => if stallOver s c (.passback n k w ths) then { c with wait := .none } else c
    | _ => c)

/-- ISSUE_CAP (R38): cohort a, its partition's current one, has issued on 256 cycles since it became current. -/
def execIssueCap (s : State) : Out :=
  let id := s.sched.arg.a
  .next (s.modCohort id fun c =>
    if 256 ≤ c.issued && alookup (s.core c.unit).current c.part == some id then { c with capMark := true } else c)

end Waits

section Filing

/-- Some bin of a core holds threads, or a launch cohort waits there (R41, R435). -/
def binsInUse (s : State) (unit : Nat) : Bool :=
  !(s.core unit).bins.isEmpty || s.work.lcohs.any fun (_, l) => l.unit == unit && l.waiting.isSome

/-- The generation, with its team, that has to complete before a thread of a cohort that waits at BAR goes on: the one that it
has recorded; of a thread that is still to be counted, the next one, or for `bar.arrive` the current one, with whose
completion it is counted (R360). -/
def barrierGen (s : State) (late : List Nat) (wait : Bool) (ths : List Nat) (t : Nat) : Option (Nat × Nat) :=
  let m := (s.thread t).team
  if late.contains t then some (m, (s.team m).barGen + (if wait then 1 else 0))
  else if wait && ths.contains t then (s.thread t).barRec.map fun g => (m, g)
  else none

/-- The threads of a cohort as they file from a wait at BAR (R41): every one is held until the barrier completes, one that does
not itself wait until those have that do, of its own team if there are any (log entry 60). -/
def barrierFiled (s : State) (c : Cohort) (late : List Nat) (wait : Bool) (ths : List Nat) : List Filed :=
  let gen := barrierGen s late wait ths
  let all := (c.active.filterMap gen).eraseDups
  c.active.map fun t =>
    let team := all.filter fun g => g.1 == (s.thread t).team
    { thread := t, time := s.sched.clk, waits := wait && ths.contains t, late := late.contains t
      gens := match gen t with
        | some g => [g]
        | none => if team.isEmpty then all else team }

/-- Where, under what condition and how the threads of a waiting cohort file: the key PC, the condition, and each thread. A word
that waits for a meshlet has had no effect yet, and is the one at which its threads go on. -/
def filingOf (s : State) (c : Cohort) : Option (Word × BinCond × List Filed) :=
  let waiting (ths : List Nat) : List Filed := (filedNow s c.active).map fun f => { f with waits := ths.contains f.thread }
  match c.wait with
  | .barrier late wait ths => some (c.pc, .barrier, barrierFiled s c late wait ths)
  | .stall (.tag any m pd d ths) _ => some (pcAdd c.pc 3, .tag any m pd d, waiting ths)
  | .stall (.meshlet _) _ => some (c.pc, .meshlet, waiting [])
  | _ => none

/-- WAIT_AGE_FILING (R41, R360, R399): cohort a has waited more than AGE cycles while a bin of its core is in use; every
thread of it files, and when no bin takes them it goes on waiting. -/
def execWaitAgeFiling (s : State) : Out :=
  let id := s.sched.arg.a
  .next <|
    match s.cohort? id with
    | none => s
    | some c =>
      match filingOf s c with
      | none => s
      | some (pc, cond, fs) =>
        if c.stop.isSome || c.cloak != .no || s.sched.clk ≤ c.waitSince + (s.planC c).age || !binsInUse s c.unit then s
        else
          match fileIn (leaveActive s id c.active) id pc cond fs with
          | some s1 => nextGroup s1 id
          | none => s

end Filing

section Formation

/-- A free cohort context of a partition (R14). -/
def freeCtx (s : State) (unit part : Nat) : Option Nat :=
  firstFree (s.work.cohorts.filterMap fun (_, c) =>
    match c.cloak with
    | .cloaked _ => none
    | _ => if c.unit == unit && c.part == part then some c.ctx else none) 0 24

/-- A cohort is formed in a context: it takes the partition's next formation stamp, and is ready at a cycle. -/
def newCohort (s : State) (unit part ctx launch : Nat) (pc : Word) (ths : List Nat) (uregs : AMap DWord) (priv : Bool)
    (ready : Nat) : State :=
  let (id, s1) := s.newId
  let stamp := (alookup (s.core unit).stamps part).getD 0
  let s2 := s1.modCore unit fun k => { k with stamps := ainsert k.stamps part (stamp + 1) }
  let s3 := ths.foldl (fun s t => s.modThread t fun th => { th with place := .cohort id }) s2
  s3.setCohort id { unit := unit, part := part, ctx := ctx, launch := launch, stamp := stamp, pc := pc,
                    active := byLane s ths, uregs := uregs, nextIssue := ready, priv := priv }

/-- A thread's team is not leaving (R415). -/
def staying (s : State) (t : Nat) : Bool := (s.teamOf t).leaving.isNone

/-- A thread's names all lie in physical rows. -/
def allPhysical (s : State) (t : Nat) : Bool := (s.thread t).names.all fun x => decide (x.2.row < 2048)

/-- The threads of a bin that formation may draw for a partition (R44, R80). -/
def drawable (s : State) (unit part : Nat) (b : Bin) : List Filed :=
  b.threads.filter fun f =>
    (s.thread f.thread).part == part && staying s f.thread && allPhysical s f.thread && condHolds s unit b.cond f

/-- The earliest filing time. -/
def oldest (l : List Filed) : Nat := ((minBy Filed.time l).map Filed.time).getD 0

/-- AGE of a bin's launch (R19). -/
def ageOf (s : State) (b : Bin) : Nat := (s.plan (s.launch b.launch).plan).age

/-- Marks a bin whose oldest thread has waited AGE cycles (R44). -/
def ageBin (s : State) (b : Bin) : Bin := { b with aged := decide (oldest b.threads + ageOf s b ≤ s.sched.clk) }

/-- BIN_AGING (R44): bin b of unit a. -/
def execBinAging (s : State) : Out :=
  .next (s.modCore s.sched.arg.a fun k => { k with bins := amodify k.bins s.sched.arg.b (ageBin s) })

/-- The home lanes of threads. -/
def lanesOf (s : State) (l : List Filed) : List Nat := distinct (l.map fun f => (s.thread f.thread).lane)

/-- The bin from which a partition forms a cohort (R44). -/
def formationBin (s : State) (unit part : Nat) : Option (Nat × Bin) :=
  let bs := ((s.core unit).bins.map fun (n, b) => (n, ageBin s b)).filter fun x => !(drawable s unit part x.2).isEmpty
  let age (x : Nat × Bin) : Nat := oldest (drawable s unit part x.2)
  let first := bs.filter fun x => x.2.aged && decide (age x + ageOf s x.2 ≤ s.sched.clk)
  let full := bs.filter fun x => (lanesOf s (drawable s unit part x.2)).length == 32
  if !first.isEmpty then minBy age first
  else if !full.isEmpty then minBy age full
  else minBy age bs

/-- Skips threads whose home lane is already taken (R45). -/
def distinctLanes (s : State) (taken : List Nat) : List Filed → List Filed
  | [] => []
  | f :: r =>
    let lane := (s.thread f.thread).lane
    if taken.contains lane then distinctLanes s taken r else f :: distinctLanes s (lane :: taken) r

/-- What the end of a bin's wait does to a thread that waited: its record of the barrier is cleared (R360), a tag word's
predicate is written (R366). -/
def endWait (s : State) (unit : Nat) (b : Bin) (f : Filed) : State :=
  if !f.waits then s
  else
    match b.cond with
    | .barrier => s.modThread f.thread fun th => { th with barRec := none }
    | .tag any m pd _ =>
      let err := if any then ((lowestDone s unit m).map fun n => (tagAt s unit n).err).getD false
        else (tagsIn m).any fun n => (tagAt s unit n).err
      s.modThread f.thread fun th => th.setPred pd err
    | _ => s

/-- The uniform registers of a cohort drawn from a bin: TWANY's result is written (R366). -/
def drawnUregs (s : State) (unit : Nat) (b : Bin) (fs : List Filed) : AMap DWord :=
  match b.cond with
  | .tag true m _ d =>
    if fs.any Filed.waits then
      ({ Cohort.nil with uregs := b.uregs }.setUreg d (BitVec.ofNat 64 ((lowestDone s unit m).getD 64))).uregs
    else b.uregs
  | _ => b.uregs

/-- Forms a cohort of a partition from a bin, ready for its first word four cycles later (R45). -/
def formFrom (s : State) (unit part ctx n : Nat) (b : Bin) : State :=
  let fs := (distinctLanes s [] (sortBy (fun f => (s.thread f.thread).lin) (drawable s unit part b))).take 32
  let ths := fs.map Filed.thread
  let rest := b.threads.filter fun f => !ths.contains f.thread
  let s1 := s.modCore unit fun k => { k with
    bins := if rest.isEmpty then aerase k.bins n else ainsert k.bins n (ageBin s { b with threads := rest }) }
  newCohort (fs.foldl (fun s f => endWait s unit b f) s1) unit part ctx b.launch b.pc ths (drawnUregs s unit b fs) b.priv
    (s.sched.clk + 4)

/-- The launch cohort of a partition that has waited longest for a context (R435): those of one team wait in seat order. -/
def waitingLcoh (s : State) (unit part : Nat) : Option (Nat × LaunchCohort × Word) :=
  s.work.lcohs.findSome? fun (i, l) =>
    match l.waiting with
    | some pc => if l.unit == unit && l.part == part && (s.team l.team).leaving.isNone then some (i, l, pc) else none
    | none => none

/-- A free cohort context for anything but a launch cohort that already waits for one, which comes first (R435). -/
def contextFor (s : State) (unit part : Nat) : Option Nat :=
  if (waitingLcoh s unit part).isSome then none else freeCtx s unit part

end Formation

section Rows

/-- The pairs of a list, each once. -/
def distinctPairs : List (Nat × Nat) → List (Nat × Nat)
  | [] => []
  | x :: r => if r.contains x then distinctPairs r else x :: distinctPairs r

/-- The cloak rows of threads, with the name of each. -/
def cloakRowsOf (s : State) (ths : List Nat) : List (Nat × Nat) :=
  distinctPairs (ths.flatMap fun t => (s.thread t).names.filterMap fun (n, v) => if 2048 ≤ v.row then some (v.row, n) else none)

/-- The physical rows of threads, with the name of each. -/
def physRowsOf (s : State) (ths : List Nat) : List (Nat × Nat) :=
  distinctPairs (ths.flatMap fun t => (s.thread t).names.filterMap fun (n, v) => if v.row < 2048 then some (v.row, n) else none)

/-- A free physical row in the bank of its name for each cloak row (R79). -/
def assignRows (used : List Nat) : List (Nat × Nat) → Option (List (Nat × Nat))
  | [] => some []
  | (r, n) :: rest =>
    match freeRow used (n % 4) with
    | none => none
    | some p => (assignRows (p :: used) rest).map fun l => (r, p) :: l

/-- A free cloak row for each row, or each name (R76). -/
def assignCloak (used : List Nat) : List Nat → List (Nat × Nat)
  | [] => []
  | r :: rest =>
    match firstFree used 2048 (2 ^ 20) with
    | none => []
    | some p => (r, p) :: assignCloak (p :: used) rest

/-- Moves threads' mappings from rows to rows. -/
def moveRows (s : State) (ths : List Nat) (m : List (Nat × Nat)) : State :=
  ths.foldl (fun s t => s.modThread t fun th => { th with
    names := th.names.map fun (n, v) => (n, { v with row := ((m.find? fun x => x.1 == v.row).map Prod.snd).getD v.row }) }) s

/-- Filed threads of a partition go into cloak rows, one for each row, since their lanes may be the same (R77). -/
def cloakThreads (s : State) (unit part : Nat) (ths : List Nat) : State :=
  moveRows s ths (assignCloak (cloakRowsUsed s unit part) (distinct ((physRowsOf s ths).map Prod.fst)))

/-- The threads of a cohort go into cloak rows, one for each name (R76). -/
def cloakCohort (s : State) (unit part : Nat) (ths : List Nat) : State :=
  let m := assignCloak (cloakRowsUsed s unit part) (distinct ((physRowsOf s ths).map Prod.snd))
  ths.foldl (fun s t => s.modThread t fun th => { th with
    names := th.names.map fun (n, v) => (n, { v with row := ((m.find? fun x => x.1 == n).map Prod.snd).getD v.row }) }) s

/-- Threads of a partition return to physical rows, if each bank has as many as they need (R79, R80). -/
def uncloakThreads (s : State) (unit part : Nat) (ths : List Nat) : Option State :=
  (assignRows (rowsUsed s unit part) (cloakRowsOf s ths)).map (moveRows s ths)

end Rows

section Cloakroom

/-- The cohorts of a partition. -/
def cohortsIn (s : State) (unit part : Nat) : List (Nat × Cohort) :=
  s.work.cohorts.filter fun (_, c) => c.unit == unit && c.part == part && !c.priv

/-- A cohort is cloaked, and recall needs its wait condition. -/
def Cloak.out : Cloak → Option Bool
  | .cloaked w => some w
  | _ => none

/-- A cloaked cohort may be recalled as soon as a context is free (R79). -/
def recallable (s : State) (c : Cohort) : Bool :=
  match c.cloak.out with
  | some w => c.members.all (staying s) && (!w || waitHolds s c) && (uncloakThreads s c.unit c.part c.members).isSome
  | none => false

/-- A cloaking of the partition is in progress (R77). -/
def cloakingNow (s : State) (unit part : Nat) : Bool :=
  (cohortsIn s unit part).any fun x => match x.2.cloak with
    | .cloaking _ _ => true
    | _ => false

/-- Begins to cloak a cohort (R76). -/
def startCloak (s : State) (id : Nat) (needsWait : Bool) : State :=
  let n := (distinct ((physRowsOf s (s.cohort id).members).map Prod.snd)).length
  s.modCohort id fun c => { c with cloak := .cloaking (s.sched.clk + 16 + (n + 1) / 2) needsWait }

/-- The youngest of some cohorts. -/
def youngest (l : List (Nat × Cohort)) : Option (Nat × Cohort) :=
  l.foldl (fun m x => match m with
    | none => some x
    | some y => if y.2.stamp < x.2.stamp then some x else some y) none

/-- The cohort that a partition cloaks, and whether recall then needs its wait condition (R77). -/
def cloakChoice (s : State) (unit part : Nat) : Option (Nat × Bool) :=
  let cs := (cohortsIn s unit part).filter fun x => x.2.cloak.out.isNone
  let grow := cs.filter fun x => !(growBanks s x.2).isEmpty
  if grow.isEmpty || !cs.all (fun x => x.2.cloak == .no && blocked s x.2) then none
  else
    let banks := grow.flatMap fun x => growBanks s x.2
    let holds (x : Nat × Cohort) : Bool := (physRowsOf s x.2.members).any fun r => banks.contains (r.1 / 512)
    match youngest (cs.filter fun x => (growBanks s x.2).isEmpty && holds x) with
    | some (i, _) => some (i, true)
    | none => (youngest grow).map fun x => (x.1, false)

/-- The threads of a held bin of a partition that hold physical rows. -/
def heldRows (s : State) (part : Nat) (b : Bin) : List Nat :=
  (b.threads.map Filed.thread).filter fun t => (s.thread t).part == part && !(physRowsOf s [t]).isEmpty

/-- The youngest held bin with rows in a partition, when cloaking has emptied every context and no cloaked cohort can be
recalled for want of rows (R77). -/
def binChoice (s : State) (unit part : Nat) : Option Bin :=
  let cs := cohortsIn s unit part
  let waits := cs.filter fun x => match x.2.cloak.out with
    | some w => !w || waitHolds s x.2
    | none => false
  if !cs.all (fun x => x.2.cloak.out.isSome) || waits.isEmpty ||
      waits.any (fun x => (uncloakThreads s unit part x.2.members).isSome) then none
  else
    let bs := (s.core unit).bins.map Prod.snd |>.filter fun b => b.cond != .openBin && !(heldRows s part b).isEmpty
    let age (b : Bin) : Nat := oldest (b.threads.filter fun f => (s.thread f.thread).part == part)
    bs.foldl (fun m b => match m with
      | none => some b
      | some y => if age y < age b then some b else some y) none

/-- CLOAK (R77): partition b of unit a. -/
def execCloak (s : State) : Out :=
  let u := s.sched.arg.a
  let p := s.sched.arg.b
  .next <|
    if cloakingNow s u p then s
    else
      match cloakChoice s u p with
      | some (i, w) => startCloak s i w
      | none =>
        match binChoice s u p with
        | some b => cloakThreads s u p (heldRows s p b)
        | none => s

/-- A cohort waits on an overlay load, a passback value, a tag or a meshlet (R78, R399). -/
def longWait (s : State) (c : Cohort) : Bool :=
  match c.wait with
  | .overlay _ _ _ => true
  | .stall r _ =>
    (match r with
     | .passback _ _ _ _ | .tag _ _ _ _ _ | .meshlet _ => true
     | _ => false) && !stallOver s c r
  | _ => false

/-- LONG_WAIT_CLOAK (R78): cohort a has waited more than 2 × AGE cycles while others need its place. -/
def execLongWaitCloak (s : State) : Out :=
  let id := s.sched.arg.a
  .next <|
    match s.cohort? id with
    | none => s
    | some c =>
      let cs := cohortsIn s c.unit c.part
      let wanted := (cs.any fun x => !(growBanks s x.2).isEmpty) || (cs.any fun x => recallable s x.2) ||
        (formationBin s c.unit c.part).isSome
      if c.stop.isNone && c.cloak == .no && !c.priv && longWait s c && decide (c.waitSince + 2 * (s.planC c).age < s.sched.clk) &&
          !cloakingNow s c.unit c.part && wanted then startCloak s id true
      else s

/-- CLOAK_DONE (R76): cohort a is cloaked, its rows and its context are free. -/
def execCloakDone (s : State) : Out :=
  let id := s.sched.arg.a
  .next <|
    match s.cohort? id with
    | none => s
    | some c =>
      match c.cloak with
      | .cloaking due w =>
        if s.sched.clk < due then s
        else
          let s1 := (cloakCohort s c.unit c.part c.members).modCohort id fun c => { c with cloak := .cloaked w }
          if alookup (s.core c.unit).current c.part == some id then
            s1.modCore c.unit fun k => { k with current := aerase k.current c.part }
          else s1
      | _ => s

/-- RECALL (R79): the oldest cloaked cohort of partition b of unit a that can be recalled takes its rows and a context; a
launch cohort that waits for one goes before it (R435). -/
def execRecall (s : State) : Out :=
  let u := s.sched.arg.a
  let p := s.sched.arg.b
  .next <|
    match contextFor s u p, minBy (fun x : Nat × Cohort => x.2.stamp) ((cohortsIn s u p).filter fun x => recallable s x.2) with
    | some ctx, some (id, c) =>
      let n := (cloakRowsOf s c.members).length
      ((uncloakThreads s u p c.members).getD s).modCohort id fun c =>
        { c with ctx := ctx, cloak := .recalling (s.sched.clk + 16 + (n + 3) / 4) }
    | _, _ => s

/-- RECALL_DONE (R79): cohort a may issue again, unless the debug window has meanwhile put a name of it into a cloak row: it has
then to be recalled once more (R88). -/
def execRecallDone (s : State) : Out :=
  .next (s.modCohort s.sched.arg.a fun c =>
    match c.cloak with
    | .recalling due =>
      if due ≤ s.sched.clk then { c with cloak := if c.members.all (allPhysical s) then .no else .cloaked false } else c
    | _ => c)

/-- BIN_UNCLOAK (R80): threads of bin b of unit a whose release condition holds return to physical rows, partition by
partition. -/
def execBinUncloak (s : State) : Out :=
  let u := s.sched.arg.a
  .next <|
    match alookup (s.core u).bins s.sched.arg.b with
    | none => s
    | some b =>
      [0, 1, 2, 3].foldl (fun s p =>
        let fs := b.threads.filter fun f =>
          (s.thread f.thread).part == p && !allPhysical s f.thread && condHolds s u b.cond f
        (uncloakThreads s u p (fs.map Filed.thread)).getD s) s

/-- COHORT_FORMATION (R44, R45, R435): partition b of unit a. A launch cohort that waits for a context comes first, then
every recall (R79), then a bin. -/
def execCohortFormation (s : State) : Out :=
  let u := s.sched.arg.a
  let p := s.sched.arg.b
  .next <|
    match freeCtx s u p with
    | none => s
    | some ctx =>
      match waitingLcoh s u p with
      | some (i, l, pc) =>
        newCohort (s.modLcoh i fun l => { l with waiting := none }) u p ctx (s.team l.team).launch pc l.threads [] false s.sched.clk
      | none =>
        if (cohortsIn s u p).any fun x => recallable s x.2 then s
        else
          match formationBin s u p with
          | none => s
          | some (n, b) => formFrom s u p ctx n b

end Cloakroom

end Sys2Proof.Machine
end

