-- ==== Sys2Proof/Machine/Pixel.lean ====
section
/-! DEFINITION. The pixel stage: EXPORT, QUADRD, ATTR, DISCARD (R400 to R403), and the depth test and blend of completed
quads (R223, R225 to R227). -/

namespace Sys2Proof.Machine

section Words

/-- A word of the pixel stage (R396). -/
def pixelWord (a : Acc) (s : State) (g : Ready → Eff) : Out :=
  withPrep s a fun r => if r.ths.isEmpty then .ok (plainIssue s r a) else stageRule s r 2 (g r)

/-- The quad of a pixel-stage thread. -/
def quadOf (s : State) (t : Nat) : Option Quad := s.draw.quads.find? fun q => (s.thread t).quad == some q.id

/-- A thread's pixel. -/
def pixelPos (q : Quad) (pix : Nat) : Nat × Nat := (q.x + pix % 2, q.y + pix / 2)

/-- Depth of R138 at a pixel of a quad, covered or not. -/
def quadDepth (s : State) (q : Quad) (pix : Nat) : Nat :=
  let (x, y) := pixelPos q pix
  (((drawAt s q.plan q.d).bind fun d => triOf d q.verts).map fun t => t.depth x y).getD 0

/-- What QUADRD reads (R400). -/
def quadValue (s : State) (t sel : Nat) : Nat :=
  match quadOf s t with
  | none => 0
  | some q =>
    let th := s.thread t
    let (x, y) := pixelPos q th.pix
    if sel == 0 then x
    else if sel == 1 then y
    else if sel == 2 then
      q.cov.toNat + (if q.cov.getLsbD th.pix && !th.disc then 16 else 0) + (if q.back then 32 else 0)
    else if sel == 3 then q.prim
    else if sel == 4 then q.d
    else if sel == 5 then q.m
    else quadDepth s q th.pix

/-- A pixel word that writes one name for each thread. -/
def pixelResult (f : ExtForm) (v : State → Nat → Nat) (s : State) : Out :=
  let d := f.x.d.idx.toNat
  let a := { engAcc f 0 0 0 with wNames := [d] }
  pixelWord a s fun r =>
    let (w, s1) := s.newId
    .ok (commit s1 r a (loadPends s r w d 1 (r.ths.map fun t => (t, v s t))))

/-- QUADRD (R400). -/
def execQuadrd (f : ExtForm) (s : State) : Out := pixelResult f (fun s t => quadValue s t (fld f.x.mod 2 0)) s

/-- What ATTR reads (R401). -/
def attrValue (idx : Nat) (persp : Bool) (s : State) (t : Nat) : Nat :=
  match quadOf s t with
  | none => 0
  | some q =>
    match drawAt s q.plan q.d with
    | none => 0
    | some d =>
      if d.nattr ≤ idx then 0
      else
        let (x, y) := pixelPos q (s.thread t).pix
        ((triOf d q.verts).map fun t3 => t3.attr q.verts idx persp x y).getD 0

/-- ATTR (R401). -/
def execAttr (f : ExtForm) (s : State) : Out := pixelResult f (attrValue (fld f.x.mod 3 0) (bitOf f.x.mod 9)) s

/-- EXPORT (R402): a commit point. -/
def execExportPix (f : ExtForm) (s : State) : Out :=
  let x := f.x
  let z := bitOf x.mod 9
  let target := fld x.mod 1 0
  let n := if z then 1 else 4
  let vs := groupSrcs x.a n false 0
  let a := (engAcc f n 0 0).reads vs
  pixelWord a s fun r =>
    let c := s.cohort r.id
    let one (s1 : State) (t : Nat) : State :=
      let l : List Word := vs.map fun v => (srcVal s c t v).setWidth 32
      let nct := (((quadOf s t).bind fun q => drawAt s q.plan q.d).map Draw.nct).getD 0
      s1.modThread t fun th =>
        if z then { th with zexp := l.head? }
        else if target < nct then { th with exports := ainsert th.exports target l } else th
    .ok (commitPoint (plainIssue (r.ths.foldl one s) r a) r.ths)

/-- DISCARD (R403). -/
def execDiscard (f : ExtForm) (s : State) : Out :=
  let a := engAcc f 0 0 0
  pixelWord a s fun r =>
    .ok (plainIssue (r.ths.foldl (fun s t => s.modThread t fun th => { th with disc := true }) s) r a)

end Words

section Blend

/-- 1 − x in F32. -/
def oneMinus (x : Nat) : Nat := F32.sub 0 0x3F800000 x

/-- A blend factor (R227): code, channel, source, destination and constant. -/
def blendFactor (code c : Nat) (sc dc kc : List Nat) : Nat :=
  let g (l : List Nat) (i : Nat) : Nat := (l[i]?).getD 0
  let v := match code / 2 with
    | 1 => g sc c
    | 2 => g dc c
    | 3 => g sc 3
    | 4 => g dc 3
    | 5 => g kc c
    | _ => g kc 3
  if code == 0 then 0
  else if code == 1 then 0x3F800000
  else if code == 14 then (if c == 3 then 0x3F800000 else F32.min (g sc 3) (oneMinus (g dc 3)))
  else if code % 2 == 1 then oneMinus v else v

/-- A blend operation (R227). -/
def blendOp (op s d fs fd : Nat) : Nat :=
  let fuse (a b t : Nat) (neg : Bool) : Nat :=
    let v := F32.val t
    F32.round 0 (fsum 0 [(F32.val a).mul (F32.val b), if neg then v.neg else v])
  if op == 0 then fuse s fs (F32.mul 0 d fd) false
  else if op == 1 then fuse s fs (F32.mul 0 d fd) true
  else if op == 2 then fuse d fd (F32.mul 0 s fs) true
  else if op == 3 then F32.min s d
  else F32.max s d

/-- The pixel of a colour target after the blend (R227). -/
def blendPixel (fmt : Nat) (b : Blend) (k src : List Nat) (old : List Byte) : List Byte :=
  let dst := pixelF32 fmt old
  let sc := if normMax fmt != 0 then src.map fun v => F32.min (F32.max v 0) 0x3F800000 else src
  (List.range (channels fmt)).foldl (fun px c =>
    if !b.wmask.getLsbD c then px
    else
      let s := (sc[c]?).getD 0
      let fs := blendFactor (if c == 3 then b.srca else b.srcc) c sc dst k
      let fd := blendFactor (if c == 3 then b.dsta else b.dstc) c sc dst k
      let r := if b.ben then blendOp (if c == 3 then b.opa else b.opc) s ((dst[c]?).getD 0) fs fd else s
      setChan fmt c (chanOfF32 fmt r) px) old

/-- The depth test (R226). -/
def depthPass (func z s : Nat) : Bool :=
  match func with
  | 0 => false
  | 1 => fcmp 2 z s
  | 2 => fcmp 0 z s
  | 3 => fcmp 3 z s
  | 4 => fcmp 4 z s
  | 5 => fcmp 1 z s
  | 6 => fcmp 5 z s
  | _ => true

/-- Blends one pixel of a quad (R225). -/
def blendOne (q : Quad) (d : Draw) (s : State) (px : Nat × Option Word × AMap (List Word)) : State :=
  let (pix, zx, exps) := px
  let ctx := q.tile.ctx
  let (x, y) := pixelPos q pix
  let z := match zx with
    | some w => w.toNat
    | none => quadDepth s q pix
  let dste := if d.den then boundSte s ctx d.dslot else none
  let pass := match dste with
    | some e => depthPass d.dfunc z (leNat (pixelAt s e ctx d.dslot 0 x y))
    | none => true
  -- the depth test reads the depth tile, which is then the most recently used one (R157)
  let s0 := match dste with
    | some e => readTiles s (pixelTiles e ctx d.dslot 0 x y)
    | none => s
  if !pass then s0
  else
    let s1 := match dste with
      | some e => if d.dwrite then writePixel s0 e ctx d.dslot 0 x y (leBytes 4 z) else s0
      | none => s0
    (List.range d.nct).foldl (fun s t =>
      match alookup exps t, (d.ct[t]?).bind fun slot => (boundSte s ctx slot).map fun e => (slot, e), d.blend[t]? with
      | some l, some (slot, e), some b =>
        writePixel s e ctx slot 0 x y
          (blendPixel e.fmt b (d.k.map BitVec.toNat) (l.map BitVec.toNat) (pixelAt s e ctx slot 0 x y))
      | _, _, _ => s) s1

/-- The tiles that a quad's operations reach. -/
def quadTiles (d : Draw) (k : TileKey) : List TileKey := d.uses.map fun (slot, _) => { k with slot := slot }

/-- The completed quads whose turn it is at their tiles (R224). -/
def blendable (s : State) : List Quad :=
  s.draw.quads.filter fun q => q.phase == 3 && cursorAt s q.plan q.tile == (q.d, q.m, q.ordinal)

/-- The order in which a bank unit takes quads (R224). -/
def Quad.order (s : State) (q : Quad) : Nat :=
  let i := ((boundSte s q.tile.ctx q.tile.slot).map fun e => e.tileIndex q.tile).getD 0
  ((q.seq * 2 ^ 32 + q.prim) * 2 ^ 32 + q.ordinal) * 2 ^ 40 + i

/-- QUAD_BLEND (R225): the next quad of a tile, when no quad of another tile of the same bank comes before it; its tiles are
made resident first. -/
def execQuadBlend (s : State) : Out :=
  let k := s.sched.arg.tile
  let ready := (blendable s).filter fun q => q.tile.ctx == k.ctx && bankOf s q.tile == bankOf s k
  match minBy (Quad.order s) ready with
  | none => .next s
  | some q =>
    if q.tile != k then .next s
    else
      match drawAt s q.plan q.d with
      | none => .next s
      | some d =>
        let keys := quadTiles d k
        if rowPending s k then .next s
        else if !servable s q.id keys then .next (enqueueTiles s q.id keys)
        else
          let s1 := q.pixels.foldl (blendOne q d) (dequeueTiles s q.id)
          .next <| serveReqs { s1 with draw := { s1.draw with
            quads := s1.draw.quads.filter fun x => x.id != q.id
            cursors := ⟨q.plan, k, q.d, q.m, q.ordinal + 1⟩ ::
              s1.draw.cursors.filter fun c => !(c.plan == q.plan && c.tile == k) } }

end Blend

end Sys2Proof.Machine
end

