-- ==== Sys2Proof/Machine/Preempt.lean ====
section
/-! DEFINITION. Pre-emption: CPREEMPT (R310) and the steps by which a team leaves (R415, R87, R212, R230, R235). -/

namespace Sys2Proof.Machine

section Select

/-- Some of the threads belong to the teams. -/
def ofTeams (s : State) (teams ths : List Nat) : Bool := ths.any fun t => teams.contains (s.thread t).team

/-- The threads of a bin. -/
def Bin.ids (b : Bin) : List Nat := b.threads.map Filed.thread

/-- The bins of every core. -/
def allBins (s : State) : List Bin := s.cores.flatMap fun (_, k) => k.bins.map Prod.snd

/-- Some teams and those with which they share a cohort or a bin (R415). -/
def sharers (s : State) (teams : List Nat) : List Nat :=
  let add (ths : List Nat) : List Nat := if ofTeams s teams ths then teamsOf s ths else []
  sortBy id (distinct (teams ++ (s.work.cohorts.flatMap fun (_, c) => add c.members) ++
    (allBins s).flatMap fun b => add b.ids))

/-- The teams, among those that a test admits, that are pre-empted together with some teams (R415). -/
def closure (s : State) (ok : Nat → Bool) : Nat → List Nat → List Nat
  | 0, ts => ts
  | n + 1, ts =>
    let us := (sharers s ts).filter ok
    if us.length == ts.length then us else closure s ok n us

/-- The teams that are pre-empted together with one. -/
def together (s : State) (team : Nat) : List Nat := closure s (fun _ => true) s.work.teams.length [team]

/-- The leaving teams among some and those with which they share a cohort or a bin. Teams that stay do not hold them up, whatever
cohort or bin they share with them (R415). -/
def leavingWith (s : State) (teams : List Nat) : List Nat :=
  let leaves (t : Nat) : Bool := (s.team t).leaving.isSome
  closure s leaves s.work.teams.length (teams.filter leaves)

/-- The selected teams, those pre-empted together in one list (R415). -/
def components (s : State) : List Nat → List (List Nat)
  | [] => []
  | t :: r =>
    let c := together s t
    c :: (components s r).filter fun d => d != c

/-- The save size of a team (R415). -/
def saveSize (s : State) (team : Nat) : Nat :=
  let tm := s.team team
  let p := s.plan (s.launch tm.launch).plan
  let n := tm.units.length
  p.spwin * 1024 * n + 384 * tm.threads.length +
    (2048 + 128 * p.rowmax) * (s.work.lcohs.filter fun (_, l) => l.team == team).length +
    (if p.acct == 0 then 0 else n * (32768 * p.acct + 24576)) + 512 * 8

/-- The context of a team. -/
def ctxOfTeam (s : State) (team : Nat) : Nat := (s.plan (s.launch (s.team team).launch).plan).ctx

/-- What of a context's save region no extent takes (R414, R415). -/
def saveRoom (s : State) (ctx : Nat) : Nat :=
  (((alookup s.cfg.ctxs ctx).map Ctx.savesz).getD 0).toNat -
    s.work.teams.foldl (fun n (i, t) => if ctxOfTeam s i == ctx then n + t.extent else n) 0

/-- A cohort of the teams is stopped by a trap (R316). -/
def trapped (s : State) (teams : List Nat) : Bool := s.work.cohorts.any fun (_, c) => c.stop.isSome && ofTeams s teams c.members

/-- Takes an extent for each of some teams, or names the first for which there is no room. -/
def takeExtents (s : State) : List Nat → Except Nat State
  | [] => .ok s
  | t :: r =>
    if (s.team t).extent != 0 then takeExtents s r
    else if saveSize s t ≤ saveRoom s (ctxOfTeam s t) then
      takeExtents (s.modTeam t fun x => { x with extent := saveSize s t }) r
    else .error t

/-- Step 1 for teams that are pre-empted together (R415): those that go, none when one is skipped. -/
def stepOne (s : State) (teams : List Nat) : List Nat × State :=
  if trapped s teams then ([], s)
  else
    match takeExtents s teams with
    | .ok s1 => (teams, s1)
    | .error t =>
      let p := s.plan (s.launch (s.team t).launch).plan
      ([], logEvent s 0x0200 0x0040 p.ctx (BitVec.ofNat 64 p.addr) (BitVec.ofNat 64 (s.team t).num))

/-- Step 1 for every selected team. -/
def selectTeams (s : State) (teams : List Nat) : List Nat × State :=
  (components s teams).foldl (fun (go, s) c =>
    let (g, s1) := stepOne s c
    (go ++ g, s1)) ([], s)

end Select

section Stop

/-- Every thread of a cohort is restartable (R87). -/
def atSafePoint (s : State) (ths : List Nat) : Bool := ths.all fun t => (s.thread t).restartable

/-- A cohort stops between words (R415): it withdraws from a pass queue (R377), a CALLO or a WAIT at which it waits begins again
(R316). -/
def stopCohort (s : State) (id : Nat) (whole : Bool) : State :=
  (withdrawPass s id).modCohort id fun c =>
    let c1 := { c with leave := .stopped whole }
    match c.wait with
    | .overlay _ _ _ => { c1 with wait := .none }
    | .clock t early => { c1 with wait := .none, pc := if early && decide (s.sched.clk < t) then pcAdd c.pc (-3) else c.pc }
    | _ => c1

/-- A cohort of leaving teams stops when it is at a safe point, or whole when it may not go on (R415, R414). -/
def leaveCohort (s : State) (id : Nat) : State :=
  let c := s.cohort id
  if c.leave.isStopped || c.stop.isSome then s
  else if atSafePoint s c.members then stopCohort s id false
  else if (s.core c.unit).safelim == 0 || c.cloak.out.isSome then stopCohort s id true
  else s.modCohort id fun c => { c with leave := match c.leave with | .no => .since s.sched.clk | l => l }

/-- The teams are marked leaving, and their cohorts begin to stop (R415, steps 2 and 3). -/
def markTeams (s : State) (teams : List Nat) (hold : Bool) : State :=
  let s1 := teams.foldl (fun s t => s.modTeam t fun x => { x with
    leaving := some (x.leaving.getD s.sched.clk), held := x.held || hold }) s
  ((s1.work.cohorts.filter fun (_, c) => ofTeams s1 teams c.members).map Prod.fst).foldl leaveCohort s1

/-- Every cohort of a team has stopped. -/
def allStopped (s : State) (team : Nat) : Bool :=
  s.work.cohorts.all fun (_, c) => c.leave.isStopped || !ofTeams s [team] c.members

end Stop

section SaveTeam

/-- A copy as it is replayed whole: its transfers begin anew. -/
def Copy.afresh (c : Copy) : Copy :=
  { c with squashed := true, done := 0, await := none, part := [], bad := [], failed := false, err := false, landed := false }

/-- Copies and stages of a team that are still in flight on a core are squashed (R415, step 4): they leave their tags' counts and
the requests that wait, and are replayed from their start. -/
def squash (s : State) (team unit : Nat) : State :=
  let cs := s.mem.copies.filter fun c => c.team == team && c.unit == unit && !c.squashed
  let qs := s.mem.stages.filter fun c => c.team == team && c.unit == unit && !c.squashed
  let s1 := cs.foldl (fun s c => dequeueTiles (dequeueAt (tagRemove s c.unit c.tag) c.id) c.id) s
  let s2 := qs.foldl (fun s c => dequeueAt (tagRemove s c.unit c.tag) c.id) s1
  s2.modMem fun m => { m with
    copies := m.copies.map fun c => if c.team == team && c.unit == unit && !c.squashed then c.afresh else c
    stages := m.stages.map fun c => if c.team == team && c.unit == unit then { c with squashed := true } else c }

/-- Overlay loads leave a team's tags (R415, step 8, R365). -/
def dropLoadTags (team : Nat) (s : State) (unit : Nat) : State :=
  let mine := (s.core unit).loads.flatMap fun l => (l.tags.filter fun x => x.2 == team).map fun x => (unit, x.1, l.ref)
  let s1 := mine.foldl (fun s x => tagRemove s unit x.2.1) s
  (s1.modCore unit fun k => { k with loads := k.loads.map fun l => { l with tags := l.tags.filter fun x => x.2 != team } }).modTeam
    team fun t => { t with save := t.save.map fun v => { v with loads := v.loads ++ mine } }

/-- A started MMA stops at a pass boundary; which one it reaches is open (R212, log entry 2). -/
def stopMma (unit : Nat) (s : State) (c : MCmd) : State :=
  let half := (alookup (s.core unit).mx.halves c.half).getD ⟨0, [], [], []⟩
  let (n, s1) := s.free (mxDepth half.fmt / 16 + 1 - c.pass)
  let m := mmaPasses s1 unit c half (c.pass + n)
  setMx s1 unit { m with queue := m.queue.map fun x => if x.id == c.id then { x with pass := c.pass + n } else x }

/-- A core's matrix array is saved (R212): started commands but MMAs complete, an MMA goes on after resumption at its next
pass. -/
def saveMatrix (team : Nat) (s : State) (unit : Nat) : State :=
  let s0 := ((s.core unit).mx.queue.filter fun c => c.due.isSome && c.op != 1).foldl (fun s c => mxFinish s unit c) s
  let s1 := ((s0.core unit).mx.queue.filter fun c => c.due.isSome).foldl (stopMma unit) s0
  let m := (s1.core unit).mx
  let s2 := m.queue.foldl (fun s c => match c.tag with
    | some n => tagRemove s unit n
    | none => s) s1
  (s2.modCore unit fun k => { k with mx := {} }).modTeam team fun t => { t with
    save := t.save.map fun v => { v with mx := ainsert v.mx unit { m with queue := m.queue.map fun c => { c with due := none } } } }

/-- A core's window of a team is saved, and its scratchpad is free (R415, step 7). -/
def saveWindow (team size : Nat) (s : State) (u : Nat × Nat) : State :=
  let mine : Memory := ((s.core u.1).scratch.filter fun x => decide (u.2 ≤ x.1) && decide (x.1 < u.2 + size)).map
    fun x => (x.1 - u.2, x.2)
  (s.modCore u.1 fun k => { k with scratch := Memory.clear k.scratch u.2 size }).modTeam team fun t => { t with
    save := t.save.map fun v => { v with wins := ainsert v.wins u.1 mine } }

/-- A thread's state is in the save region, every outstanding write performed (R346). -/
def saveThread (s : State) (t : Nat) : State := (settleThread s t).modThread t fun th => { th with place := .saved }

/-- A restartable thread keeps its live-ins and predicates of the checkpoint alone (R87), and loses its outstanding writes
(R346). -/
def restartThread (s : State) (t : Nat) : State :=
  s.modThread t fun th => { th with
    place := .saved
    names := th.ckpt.live.foldl (fun m (n, v) => match v with
      | some x => ainsert m n ⟨2048 + n, x⟩
      | none => m) []
    preds := th.ckpt.preds
    writes := [] }

/-- Adds what a team's extent holds. -/
def addSave (s : State) (team : Nat) (cs : List (Nat × Cohort)) (bs : List (Nat × Bin)) : State :=
  s.modTeam team fun t => { t with save := t.save.map fun v => { v with cohorts := v.cohorts ++ cs, bins := v.bins ++ bs } }

/-- Restartable threads are saved, to be filed under their region heads (R87). -/
def saveRestart (s : State) (team unit launch : Nat) (uregs : AMap DWord) (ths : List Nat) : State :=
  let heads := distinct (ths.map fun t => (s.thread t).head.toNat)
  addSave (ths.foldl restartThread s) team [] (heads.map fun h =>
    (unit, { launch := launch, pc := BitVec.ofNat 32 h, cond := .openBin, uregs := uregs,
             threads := (ths.filter fun t => (s.thread t).head.toNat == h) |> filedNow s }))

/-- The part of a cohort that some threads are: its own active group goes on, or else the pending group with the lowest seat. -/
def pieceOf (s : State) (c : Cohort) (ths : List Nat) : Cohort :=
  let act := c.active.filter ths.contains
  let gs := (c.groups.map fun g => { g with threads := g.threads.filter ths.contains }).filter fun g => !g.threads.isEmpty
  let base := { c with leave := .no, cloak := .no }
  if act.isEmpty then
    match minBy (fun g : Group => lowestSeat s g.threads) gs with
    | some g => { base with active := byLane s g.threads, pc := g.pc, groups := gs.erase g, wait := .none, pushed := 0 }
    | none => { base with active := [], groups := [] }
  else
    let keep (l : List Nat) : List Nat := l.filter ths.contains
    { base with
      active := act
      groups := gs
      wait := match c.wait with
        | .barrier late w l => .barrier (keep late) w (keep l)
        | .bell n l => .bell n (keep l)
        | .stall r t => .stall (r.only ths.contains) t
        | w => w }

/-- A team's threads leave a stopped cohort, whole in one piece for each launch cohort, its outstanding writes performed, or as
restartable threads (R346). -/
def saveCohort (team : Nat) (s0 : State) (id : Nat) : State :=
  let s := if (s0.cohort id).leave == .stopped true then settleCohort s0 id else s0
  let c := s.cohort id
  let mine := c.members.filter fun t => (s.thread t).team == team
  if mine.isEmpty then s0
  else
    let s1 :=
      if c.leave == .stopped true then
        let ls := sortBy (fun x => x) (distinct (mine.map fun t => (s.thread t).lcoh))
        addSave (mine.foldl saveThread (cloakCohort s c.unit c.part mine)) team
          (ls.map fun l => (l, pieceOf s c (mine.filter fun t => (s.thread t).lcoh == l))) []
      else saveRestart s team c.unit c.launch c.uregs mine
    let s2 := s1.modCohort id fun c => pieceOf s { c with cloak := .no } (without c.members mine) |>
      fun k => { k with leave := c.leave, cloak := c.cloak }
    if (without c.members mine).isEmpty then freeContext s2 id else s2

/-- A team's threads leave a unit's bins; a bin counts as one cohort, judged before any team of it is saved (R415, step 3). -/
def saveBins (judge : State) (team : Nat) (s : State) (unit : Nat) : State :=
  (s.core unit).bins.foldl (fun s (n, b) =>
    let mine := b.threads.filter fun f => (s.thread f.thread).team == team
    let ids := mine.map Filed.thread
    if mine.isEmpty then s
    else
      let all := ((alookup (judge.core unit).bins n).map Bin.ids).getD []
      let s1 :=
        if atSafePoint judge (all.filter fun t => !staying judge t) then saveRestart s team unit b.launch b.uregs ids
        else addSave (ids.foldl saveThread ([0, 1, 2, 3].foldl (fun s p =>
          cloakThreads s unit p (ids.filter fun t => (s.thread t).part == p)) s)) team [] [(unit, { b with threads := mine })]
      let rest := b.threads.filter fun f => !ids.contains f.thread
      s1.modCore unit fun k => { k with
        bins := if rest.isEmpty then aerase k.bins n else ainsert k.bins n { b with threads := rest } }) s

/-- A team's launch cohorts that wait for a context have issued nothing, and are saved as restartable threads (R435). -/
def saveWaiting (team : Nat) (s : State) : State :=
  s.work.lcohs.foldl (fun s (i, l) =>
    match l.waiting with
    | some _ =>
      if l.team == team then
        saveRestart (s.modLcoh i fun x => { x with waiting := none }) team l.unit (s.team team).launch []
          (l.threads.filter fun t => match (s.thread t).place with
            | .waiting _ => true
            | _ => false)
      else s
    | none => s) s

/-- Steps 4 to 9 for a team whose cohorts have stopped (R415). -/
def saveTeam (judge : State) (s : State) (team : Nat) : State :=
  let tm := s.team team
  let p := s.plan (s.launch tm.launch).plan
  let s1 := tm.units.foldl (fun s u => squash s team u) (s.modTeam team fun t => { t with save := some {} })
  let s2 := tm.units.foldl (dropLoadTags team) s1
  let s3 := if p.acct == 0 then s2 else tm.units.foldl (saveMatrix team) s2
  let s4 : State := { s3 with surf := { s3.surf with jobs := s3.surf.jobs.map fun j =>
    if j.team == team then { j with suspended := true, running := false } else j } }
  let s5 := (s4.work.cohorts.map Prod.fst).foldl (saveCohort team) s4
  let s6 := saveWaiting team (tm.units.foldl (saveBins judge team) s5)
  let s7 := tm.windows.foldl (saveWindow team (p.spwin * 1024)) s6
  let s8 := tm.units.foldl (fun s u => releaseCore s u 5) s7
  preemptNote (s8.modTeam team fun t => { t with windows := [], leaving := none, still := none }) team true

end SaveTeam

section Finish

/-- The teams that are leaving. -/
def leavingTeams (s : State) : List Nat := (s.work.teams.filter fun (_, t) => t.leaving.isSome).map Prod.fst

/-- A copy or stage of a team is in flight on a core. -/
def opsOn (s : State) (team u : Nat) : Bool :=
  (s.mem.copies.any fun c => c.team == team && c.unit == u && !c.squashed) ||
    s.mem.stages.any fun c => c.team == team && c.unit == u && !c.squashed

/-- CC.DRAIN cycles of a core have passed since a team's cohorts stopped (R414, R415). -/
def drainOver (s : State) (tm : Team) (u : Nat) : Bool :=
  match tm.still with
  | none => false
  | some t => decide (t + (s.core u).drain.toNat ≤ s.sched.clk)

/-- A team's cohorts have stopped, none of its copies or stages is in flight on any of its cores, and the surface accesses that
its threads have issued are performed (R199, R346, R415, step 4). -/
def drainedTeam (s : State) (team : Nat) : Bool :=
  let tm := s.team team
  tm.still.isSome && tm.units.all (fun u => !opsOn s team u) && !(s.surf.reqs.any fun q => (s.thread q.thread).team == team)

/-- A DRAW plan that leaves has no closed meshlet that is not rasterised, and no completed quad that could be blended (R230, log
entry 70). -/
def drawSettled (s : State) (plan : Nat) : Bool :=
  !(s.plan plan).draw || !planAway s plan ||
    ((s.cores.all fun (_, k) => k.closed.all fun m => m.plan != plan) && !((blendable s).any fun q => q.plan == plan))

/-- Saves a leaving team, and those that leave with it, once all of them have stopped and drained. -/
def tryFinish (s : State) (team : Nat) : State :=
  let c := leavingWith s [team]
  if (s.team team).leaving.isSome && c.all (drainedTeam s) && drawSettled s (s.launch (s.team team).launch).plan then
    c.foldl (saveTeam s) s
  else s

/-- Notes whether a leaving team has stopped, and squashes what is in flight on cores whose time is over (R415). -/
def settleStill (s : State) (team : Nat) : State :=
  let s1 := s.modTeam team fun x => { x with still := if allStopped s team then some (x.still.getD s.sched.clk) else none }
  ((s1.team team).units.filter (drainOver s1 (s1.team team))).foldl (fun s u => squash s team u) s1

/-- Notes that leaving teams have stopped, and saves those that can be. -/
def settleLeaving (s : State) : State :=
  let s1 := (leavingTeams s).foldl settleStill s
  (leavingTeams s1).foldl tryFinish s1

/-- A trap has stopped a cohort of leaving teams, which is not pre-empted (R316): the teams stay as they are, uncounted. -/
def abandon (s : State) (teams : List Nat) : State :=
  let s1 := teams.foldl (fun s t =>
    s.modTeam t fun x => { x with leaving := none, still := none, held := false, extent := 0 }) s
  let s2 : State := { s1 with work := { s1.work with cohorts := s1.work.cohorts.map fun (i, c) =>
    (i, if ofTeams s teams c.members then { c with leave := .no } else c) } }
  teams.foldl (fun s t => preemptNote s t false) s2

/-- SAFE_POINT_STOP (R415): cohort a of a leaving team has reached a safe point. -/
def execSafePointStop (s : State) : Out :=
  let id := s.sched.arg.a
  .next <|
    match (s.cohort id).leave with
    | .since _ =>
      if (s.cohort id).stop.isNone && atSafePoint s (s.cohort id).members then settleLeaving (stopCohort s id false) else s
    | _ => s

/-- SAFELIM_EXPIRY (R415): cohort a has reached no safe point within CC.SAFELIM cycles, and is stopped and saved whole. -/
def execSafelimExpiry (s : State) : Out :=
  let id := s.sched.arg.a
  let c := s.cohort id
  .next <|
    match c.leave with
    | .since t =>
      if s.sched.clk < t + (s.core c.unit).safelim.toNat then s
      else if c.stop.isSome then abandon s (leavingWith s (cohortTeams s id))
      else settleLeaving (stopCohort s id (!atSafePoint s c.members))
    | _ => s

/-- DRAIN_EXPIRY (R415): the copies and stages of team a have completed, or CC.DRAIN of their core has passed and they are
squashed. -/
def execDrainExpiry (s : State) : Out :=
  let t := s.sched.arg.a
  .next (if (s.team t).leaving.isSome then settleLeaving s else s)

end Finish

section Words

/-- CPREEMPT (R310): teams in reach are pre-empted, and the word ends when every one of them is saved. -/
def preemptWord (f : ExtForm) (s : State) (pick : DWord → List (Nat × Team)) (inReach : Nat → DWord → Bool) : Out :=
  let d := f.x.d.idx.toNat
  let a := procAcc f [f.x.a.idx.toNat] [d] false
  procWord a s fun r c =>
    let v := c.readUreg f.x.a.idx.toNat
    let teams := (pick v).filter fun x => x.2.save.isNone
    if !inReach (whoIs c) v || !teams.all (fun x => teamReach (whoIs c) x.2) then procDone s r a f [(d, BitVec.ofNat 64 (2 ^ 63))] none
    else
      let (go, s1) := selectTeams s (teams.map Prod.fst)
      if go.isEmpty then procDone s1 r a f [(d, 0)] none
      else
        .ok (settleLeaving (markTeams ((plainIssue s1 r a).modCohort r.id fun c => { c with
          wait := .preempt go 0 d, waitSince := s.sched.clk }) go (bitOf f.x.mod 2)))

/-- `cpreempt.plan` (R310): every placed team of the plan. -/
def execCpreemptPlan (f : ExtForm) (s : State) : Out :=
  preemptWord f s (fun v => (plansAt s (v.toNat % 2 ^ 52)).flatMap (planTeams s)) fun _ _ => true

/-- `cpreempt.core` (R310): every team with a thread on the core. -/
def execCpreemptCore (f : ExtForm) (s : State) : Out :=
  preemptWord f s (fun v => s.work.teams.filter fun (_, t) => !t.exited && t.units.contains (v.toNat % 256))
    fun who v => reaches who (v.toNat % 256)

/-- `cpreempt.queue` (R310): every placed team of every plan that entered the queue. -/
def execCpreemptQueue (f : ExtForm) (s : State) : Out :=
  preemptWord f s (fun v => ((s.work.plans.filter fun (_, p) => p.queue == v.toNat % 8 && !p.done).map Prod.fst).flatMap (planTeams s))
    fun _ _ => true

end Words

end Sys2Proof.Machine
end

