-- ==== Sys2Proof/Machine/Dispatcher.lean ====
section
/-! DEFINITION. The dispatcher: which team is placed next (R32, R33), on which cores (R34, R36, R74, R144, R145, R204, R216,
R427), the preload of entry overlays (R35, R416), carve-out conversion (R145). -/

namespace Sys2Proof.Machine

section Claimed

/-- Records of an inbound queue that wait for the next plan that names it (R423). -/
def lateRecords (s : State) (plan j : Nat) : Nat := ((s.plan plan).late.filter fun x => x.1 == j).length

/-- Unclaimed records of a stage's queue in memory (R165) that this plan takes account of (R423). -/
def unclaimedMem (s : State) (plan j : Nat) : Nat :=
  let p := s.plan plan
  if p.draw then 0 else ((queueAt s p.ctx (stageQueue p j)).map QObj.unclaimed).getD 0 - lateRecords s plan j

/-- Records of a stage's queue in memory that launches have given back (R61). -/
def returnedTo (s : State) (plan j : Nat) : List Nat :=
  s.work.returned.filterMap fun x => if x.1 == plan && x.2.1 == j then some x.2.2 else none

/-- The slots of fused rings among the records that a launch claims. -/
def ringClaims (l : Launch) : List QRec := l.claim.filter fun r => match r with
  | .ring _ _ => true
  | .mem _ => false

/-- The queue in memory holds an unclaimed record for each record of a ring that a launch claims. -/
def swappable (s : State) (launch : Nat) : Bool :=
  let l := s.launch launch
  decide ((ringClaims l).length ≤ (returnedTo s l.plan l.stage).length + unclaimedMem s l.plan l.stage)

/-- A launch that is not fused with the ring of which it claims records uses the queue in memory alone (R61): those records are
unclaimed again, and it claims as many of the queue in memory in their place, all of its claim in the order of the queue. -/
def swapClaim (s : State) (launch : Nat) : State :=
  let l := s.launch launch
  let p := s.plan l.plan
  let addr := stageQueue p l.stage
  let k := (ringClaims l).length
  match queueAt s p.ctx addr with
  | none => s
  | some q =>
    if k == 0 || !swappable s launch then s
    else
      let back := (returnedTo s l.plan l.stage).take k
      let m := k - back.length
      let mem := sortBy (fun n => (n + 2 ^ 32 - q.rd) % 2 ^ 32)
        (memRecs l.claim ++ back ++ (List.range m).map fun i => (q.cl + i) % 2 ^ 32)
      let s1 := s.modLaunch launch fun l => { l with claim := mem.map QRec.mem }
      let s2 : State := { s1 with work := { s1.work with
        rings := s1.work.rings.map fun (i, r) =>
          (i, { r with held := ringRecs i l.claim ++ r.held, out := without r.out (ringRecs i l.claim) })
        returned := s1.work.returned.filter fun x => !(x.1 == l.plan && x.2.1 == l.stage && back.contains x.2.2) } }
      if m == 0 then s2
      else writeHome (visitHome s2 p.ctx addr 32) p.ctx (addr + 8) (leBytes 4 ((q.cl + m) % 2 ^ 32))

end Claimed

section Cores

/-- The teams that a core holds. -/
def coreTeams (s : State) (u : Nat) : List Team :=
  (s.work.teams.map Prod.snd).filter fun t => !t.exited && t.save.isNone && t.units.contains u

/-- The fused rings on a core (R61). -/
def coreRings (s : State) (u : Nat) : List Ring :=
  (s.work.rings.filter fun (_, r) => r.unit == u).map Prod.snd

/-- The plan and the stage of a team. -/
def planOfTeam (s : State) (t : Team) : Plan := s.plan (s.launch t.launch).plan
def stageOfTeam (s : State) (t : Team) : Nat := (s.launch t.launch).stage

/-- A core holds a team, or a ring of one (R61, R145). -/
def coreHolds (s : State) (u : Nat) : Bool := !(coreTeams s u).isEmpty || !(coreRings s u).isEmpty

/-- Ranges of a core's scratchpad that are taken: windows and rings. -/
def scratchTaken (s : State) (u : Nat) : List (Nat × Nat) :=
  ((coreTeams s u).map fun t => ((alookup t.windows u).getD 0, (planOfTeam s t).spwin * 1024)) ++
    (coreRings s u).map fun r => (r.base, r.slots * r.size)

/-- Bytes beyond SPWIN that a team of a stage takes: a mesh team's meshlet buffer (R216). -/
def meshBytes (p : Plan) (stage : Nat) : Nat := if p.draw && stage == 0 then 12288 else 0

/-- Bytes of a core's scratchpad that are taken. -/
def scratchUsed (s : State) (u : Nat) : Nat :=
  (scratchTaken s u).foldl (fun n x => n + x.2) 0 + (coreTeams s u).foldl (fun n t => n + meshBytes (planOfTeam s t) (stageOfTeam s t)) 0

/-- A base for a new range: the least one that overlaps none of those taken. -/
def freeBase (taken : List (Nat × Nat)) (size : Nat) : Nat :=
  let bases := 0 :: taken.map fun x => x.1 + x.2
  (minBy (fun b => b) (bases.filter fun b =>
    taken.all fun x => x.2 == 0 || size == 0 || decide (b + size ≤ x.1) || decide (x.1 + x.2 ≤ b))).getD 0

/-- The resident launch cohorts of a partition (R74). -/
def residents (s : State) (u part : Nat) : List LaunchCohort :=
  (s.work.lcohs.map Prod.snd).filter fun l =>
    l.unit == u && l.part == part && (s.team l.team).save.isNone && l.threads.any fun t => (s.thread t).alive

/-- The free contexts and the free rows by count of a core's partitions (R74). -/
def partsFree (s : State) (u : Nat) : List (Nat × Nat) :=
  (List.range 4).map fun p =>
    let ls := residents s u p
    (24 - ls.length, 2048 - ls.foldl (fun n l => n + (planOfTeam s (s.team l.team)).rowmin) 0)

/-- Free cohort contexts of a core. -/
def freeContexts (s : State) (u : Nat) : Nat := (partsFree s u).foldl (fun n x => n + x.1) 0

/-- Launch cohorts that a core admits (R74). -/
def capacity (s : State) (u rowmin : Nat) : Nat := (partsFree s u).foldl (fun n x => n + Nat.min x.1 (x.2 / Nat.max rowmin 1)) 0

/-- The partition that a launch cohort is assigned to: the one that admits it with the most free rows (R36). -/
def pickPart (s : State) (u rowmin : Nat) : Option Nat :=
  (minBy (fun x : (Nat × Nat) × Nat => 2048 - x.1.2)
    ((partsFree s u).zipIdx.filter fun x => x.1.1 != 0 && decide (rowmin ≤ x.1.2))).map Prod.snd

end Cores

section Items

/-- A team to be placed: of a launch, a saved team or the number of a new one, and whether that was lost (R420). -/
structure Item where
  plan : Nat
  launch : Nat
  team : Option Nat
  num : Nat
  again : Bool
  deriving DecidableEq, Repr

/-- The next team of a launch (R33): a pre-empted one that is not held, one to be placed again, the first unplaced one, but none of
the pixel stage of a plan that is pre-empted (R230). -/
def nextItem (s : State) (head : Bool) (id : Nat) (l : Launch) : Option Item :=
  let saved := s.work.teams.filter fun (_, t) => t.launch == id && !t.exited && t.save.isSome && !t.held
  match minBy (fun x : Nat × Team => x.2.num) saved with
  | some (t, tm) => some ⟨l.plan, id, some t, tm.num, false⟩
  | none =>
    match minBy (fun n => n) l.again with
    | some n => some ⟨l.plan, id, none, n, true⟩
    | none =>
      if l.nextTeam * l.teamSize < l.total && (l.stage != 0 || head) &&
          !((s.plan l.plan).draw && l.stage == 2 && planAway s l.plan) then some ⟨l.plan, id, none, l.nextTeam, false⟩ else none

/-- The teams of a plan that could be placed next, one for each launch: those that were placed before first (R310, R420), then
stage 0, then the other launches in order. -/
def planItems (s : State) (id : Nat) : List Item :=
  let items := (s.work.launches.filter fun (_, l) => l.plan == id).filterMap fun (n, l) => nextItem s (eligibleHead s id) n l
  (items.filter fun i => i.team.isSome || i.again) ++ items.filter fun i => !(i.team.isSome || i.again)

/-- Placements since a queue's head was last served (R32). -/
def sinceServed (s : State) (q : Nat) : Nat := (alookup s.work.since q).getD 0

/-- The plans that compete, in the order in which a decision serves them (R32). Heads that have waited equally long, and
candidates of one PRIO and one queue, are served by the lower plan number, that of the plan delivered first (log entry 61). -/
def planOrder (s : State) : List Nat :=
  let ps := (s.work.plans.filter fun (_, p) => p.parsed && !p.done && !p.killed).map Prod.fst
  let late := ps.filter fun i => eligibleHead s i && decide (64 ≤ sinceServed s (s.plan i).queue)
  let key (i : Nat) : Nat := (7 - (s.plan i).prio) * 8 + (s.plan i).queue
  sortBy (fun i => 2 ^ 32 - sinceServed s (s.plan i).queue) late ++ sortBy key (ps.filter fun i => !late.contains i)

/-- The teams to place, in order. While a deferred write is pending, none of a plan that has no team placed (R314). -/
def itemOrder (s : State) : List Item :=
  ((planOrder s).filter fun id => !s.cfg.deferred || (s.plan id).begun).flatMap (planItems s)

end Items

section Shape

/-- The largest instance of a COHORT-domain level, in threads (R36). -/
def cohortUnit (l : Launch) : Nat :=
  match l.levels.zipIdx.find? fun x => x.1.domain == 0 with
  | some (_, n) => countAt l.levels n
  | none => 1

/-- The largest instance of a CORE-domain level inside a team, in threads (R26). -/
def coreUnit1 (l : Launch) : Nat :=
  match (l.levels.zipIdx.drop (l.teamlv + 1)).find? fun x => x.1.domain == 1 with
  | some (_, n) => countAt l.levels n
  | none => 1

/-- Cuts a number of threads into launch cohorts of a size. -/
def cut (size : Nat) : Nat → Nat → List Nat
  | 0, _ => []
  | _, 0 => []
  | fuel + 1, n => Nat.min size n :: cut size fuel (n - size)

/-- The sizes of a team's launch cohorts in seat order (R36). -/
def cohortSizes (l : Launch) : List Nat :=
  let g := Nat.max (cohortUnit l) 1
  cut (Nat.max (32 / g * g) 1) l.teamSize l.teamSize

/-- The launch cohorts of a team, in seat order. -/
def teamLcohs (s : State) (team : Nat) : List (Nat × LaunchCohort) := s.work.lcohs.filter fun (_, l) => l.team == team

/-- The launch cohorts that each core of a saved team held, in seat order (R416). -/
def savedShape (s : State) (team : Nat) : List (List Nat) :=
  (s.team team).units.map fun u => ((teamLcohs s team).filter fun x => x.2.unit == u).map Prod.fst

/-- A launch cohort has a thread that has not exited (R74). -/
def lcohAlive (s : State) (lc : Nat) : Bool := (s.lcoh lc).threads.any fun t => (s.thread t).alive

/-- The launch cohorts that each core of a saved team is to take in, those whose threads have all ended left out (R74, R416). -/
def savedLive (s : State) (team : Nat) : List (List Nat) := (savedShape s team).map fun l => l.filter (lcohAlive s)

/-- The die of a team whose launch binds instances to a die of which a team has been placed (R26). -/
def dieOf (s : State) (launch : Nat) (num : Nat) : Option Nat :=
  let l := s.launch launch
  match l.levels.zipIdx.find? fun x => x.1.domain == 3 && decide (x.2 < l.teamlv) with
  | none => none
  | some (_, n) =>
    let inst (m : Nat) : Nat := m * l.teamSize / Nat.max (countAt l.levels n) 1
    ((s.work.teams.map Prod.snd).find? fun t =>
      t.launch == launch && t.num != num && inst t.num == inst num && !t.units.isEmpty).map fun t => t.units.headD 0 / 128

end Shape

section Fit

/-- Whether a core qualifies (R34): not, for so many launch cohorts but for its carve-out setting, or for so many. -/
inductive Fit where
  | no
  | carve (n : Nat)
  | ok (n : Nat)
  deriving DecidableEq, Repr

/-- The plans and stages to which a core is assigned (R62). -/
def assignedTo (s : State) (u : Nat) : List (Nat × Nat) :=
  s.work.plans.flatMap fun (i, p) => p.assign.filterMap fun a => if a.1 == u then some (i, a.2) else none

/-- A core's array has no command of an earlier team to perform: none queued or running, and none that a COPYM under way is to
enter. A team with accumulator tiles waits for that (log entry 76). -/
def arrayIdle (k : Core) : Bool :=
  k.mx.queue.isEmpty && k.mx.slots.all fun x => match x.2 with
    | .occupied _ => false
    | _ => true

/-- Whether a core's scratchpad has room for bytes beside what is taken, at some carve-out setting: at the one asked for, or, on a
core that is to be drained for it, at its own (R34, R145, log entry 67). -/
def scratchFits (s : State) (u menu bytes : Nat) : Bool :=
  let k := s.core u
  let size := if k.carve == menu || !coreHolds s u then scratchBytes menu else Nat.max (scratchBytes menu) (scratchBytes k.carve)
  decide (scratchUsed s u + bytes ≤ size)

/-- Judges a core for a team of a plan's stage that needs bytes of its scratchpad (R34, R35, R62, R74, R144, R145, R204,
R427); `free` says that the stages' shares of cores do not bind it (R222). A core assigned to stages of several plans takes
teams of each of them (log entry 64). -/
def fit (s : State) (plan stage bytes u : Nat) (free : Bool) : Fit :=
  let k := s.core u
  let p := s.plan plan
  let stages := assignedTo s u
  if k.fenced || k.ovfl == 0 || k.conv != .none || p.noSlot.contains (u, stage) ||
      (!free && !stages.isEmpty && !stages.contains (plan, stage)) ||
      (p.acct != 0 && (!arrayIdle k || (coreTeams s u).any fun t => (planOfTeam s t).acct != 0)) ||
      !scratchFits s u p.menu bytes then .no
  else
    let n := capacity s u p.rowmin
    if n == 0 then .no else if k.carve == p.menu || !coreHolds s u then .ok n else .carve n

/-- The ways to take k elements of a list, in its order, those with the first elements first. -/
def picks {α : Type} : Nat → List α → List (List α)
  | 0, _ => [[]]
  | _ + 1, [] => []
  | k + 1, x :: r => (picks k r).map (x :: ·) ++ picks (k + 1) r

/-- Deals launch cohorts of sizes to all of some cores in order (R34): as many to each as it admits, a CORE-domain instance
staying on one core. -/
def deal (gran : Nat) : List (Nat × Nat) → List Nat → Option (List (Nat × Nat))
  | [], [] => some []
  | [], _ :: _ => none
  | (u, k) :: r, sizes =>
    let n := ((List.range (Nat.min k sizes.length + 1)).filter fun i =>
      i == sizes.length || ((sizes.take i).foldl (· + ·) 0) % gran == 0).getLastD 0
    if n == 0 then none else (deal gran r (sizes.drop n)).map fun l => (u, n) :: l

/-- Gives each core of a list the number of launch cohorts that the shape of a saved team names (R416). -/
def dealShape : List (Nat × Nat) → List Nat → Option (List (Nat × Nat))
  | [], [] => some []
  | (u, k) :: r, n :: ns => if n ≤ k then (dealShape r ns).map fun l => (u, n) :: l else none
  | _, _ => none

/-- The fewest cores of a list, in order of preference, that hold a team (R34), or, of a saved team, the first as many as it had
(R416). -/
def fewest (gran : Nat) (sizes : List Nat) (shape : Option (List Nat)) (cores : List (Nat × Nat)) : Option (List (Nat × Nat)) :=
  match shape with
  | some l => (picks l.length cores).findSome? fun c => dealShape c l
  | none =>
    if cores.foldl (fun n x => n + x.2) 0 < sizes.length then none
    else ((List.range cores.length).map (· + 1)).findSome? fun k => (picks k cores).findSome? fun c => deal gran c sizes

/-- The cores of a cluster that hold a team. -/
def clusterShare (order : List (Nat × Nat)) (gran : Nat) (sizes : List Nat) (shape : Option (List Nat)) (c : Nat) :
    Option (List (Nat × Nat)) := fewest gran sizes shape (order.filter fun x => x.1 / 8 == c)

/-- The cores of a team and the launch cohorts of each, if it can be placed (R34), from cores in order of preference. -/
def share (clusterTeam : Bool) (order : List (Nat × Nat)) (gran : Nat) (sizes : List Nat) (shape : Option (List Nat)) :
    Option (List (Nat × Nat)) :=
  if !clusterTeam then (order.find? fun x => decide (sizes.length ≤ x.2)).map fun x => [(x.1, sizes.length)]
  else
    let found := (List.range 32).filterMap fun c => (clusterShare order gran sizes shape c).map fun l => (c, l)
    let few := ((minBy (fun x : Nat × List (Nat × Nat) => x.2.length) found).map fun x => x.2.length).getD 0
    let best := found.filter fun x => x.2.length == few
    order.findSome? fun x => (best.find? fun y => y.1 == x.1 / 8).map Prod.snd

end Fit

section Attempt

/-- What a decision finds for a team. -/
inductive Attempt where
  /-- it cannot be placed -/
  | fail
  /-- tables that have to be read cannot be accessed yet (R171, R178) -/
  | wait
  /-- a table cannot be read (R159, R213) -/
  | unread
  /-- its entry index is out of range (R35) -/
  | badEntry
  /-- a core has to be drained for its carve-out setting (R145) -/
  | drain (u : Nat)
  /-- empty cores have to be converted (R145) -/
  | convert (us : List Nat)
  /-- overlays have to be loaded on cores (R35, R416) -/
  | load (us : List Nat)
  /-- its cores with their numbers of launch cohorts, and the slots and slot size of a new fused ring (R61) -/
  | place (on : List (Nat × Nat)) (ring : Option (Nat × Nat))
  deriving DecidableEq, Repr

/-- Entry overlay and entry index of a stage. -/
def entryOf (p : Plan) (stage : Nat) : Nat × Nat :=
  if stage == 0 then (p.entryov, p.entryix)
  else match p.stages[stage - 1]? with
    | some g => (g.entryov, g.entryix)
    | none => (0, 0)

/-- The overlays that a saved team's state names on a core that it left (R415, step 8). -/
def recordedOverlays (s : State) (team unit : Nat) : List Nat :=
  let tm := s.team team
  let sv := tm.save.getD {}
  let ix (pc : Word) : Nat := pc.toNat / 65536
  distinct ((tm.threads.flatMap fun t => if (s.thread t).unit == unit then (s.thread t).stack.map ix else []) ++
    (sv.cohorts.flatMap fun (_, c) => if c.unit == unit then ix c.pc :: c.groups.map fun g => ix g.pc else []) ++
    (sv.bins.filterMap fun (u, b) => if u == unit then some (ix b.pc) else none) ++
    tm.pins.filterMap fun (u, i, _) => if u == unit then some i else none)

/-- The overlays that must be resident on every core of a team before it is placed (R35, R416). -/
def neededRefs (s : State) (it : Item) : List OvRef :=
  let p := s.plan it.plan
  let entry := (entryOf p (s.launch it.launch).stage).1
  let more := match it.team with
    | some t => (distinct ((s.team t).units.flatMap (recordedOverlays s t))).filter (· != entry)
    | none => []
  (entry :: more).map (refOf p)

/-- The overlays that are not yet resident on a core. -/
def missingRefs (s : State) (it : Item) (u : Nat) : List OvRef := (neededRefs s it).filter fun r => (inView s u r).isNone

/-- What is accessed as a plan's first team is placed: its tables, and the spill slots of the tiles that it unbinds (R159, R213). -/
def tableSpans (s : State) (plan : Nat) : List (Nat × Nat) :=
  let p := s.plan plan
  rangeSpans s p.ctx (tableRanges s p) ++
    (staleSlots s p.ctx ((surfaceTable s p.ctx).getD [])).flatMap (unbindSpans s p.ctx)

/-- A plan's tables are to be read, and cannot be accessed yet (R171, R178). -/
def tablesBusy (s : State) (plan : Nat) : Bool := !(s.plan plan).begun && !(takeTurn s (.plan plan 0) (tableSpans s plan)).1

/-- The context's table and the draw table before a plan's first team is placed (R159, R213): nothing stands in the way, a slot
is still in use by an earlier plan, a table has to be waited for, or cannot be read. -/
def tablesReady (s : State) (plan : Nat) : Option Attempt :=
  let p := s.plan plan
  if p.begun then none
  else if tablesBusy s plan then some .wait
  else
    if tablesUnread s p then some .unread
    else if (staleSlots s p.ctx ((surfaceTable s p.ctx).getD [])).any (slotInUse s p.ctx) then some .fail
    else none

/-- A new fused ring for the first team of a consumer launch (R61): the slots and slot size of its queue. -/
def ringFor (s : State) (it : Item) : Option (Nat × Nat) :=
  let l := s.launch it.launch
  let p := s.plan it.plan
  if l.stage == 0 || p.draw || it.team.isSome || it.num != 0 then none
  else (queueAt s p.ctx (stageQueue p l.stage)).map fun q => (q.slots, q.size)

/-- The core of the ring with which a launch is fused, where its first team goes if it can (R61). -/
def ringUnit (s : State) (it : Item) : Option Nat :=
  if it.num == 0 && it.team.isNone then ((s.launch it.launch).ring.bind (alookup s.work.rings)).map Ring.unit else none

/-- A core holds a team of a lower stage of the plan (R61). -/
def holdsProducer (s : State) (plan stage u : Nat) : Bool :=
  (coreTeams s u).any fun t => (s.launch t.launch).plan == plan && decide (stageOfTeam s t < stage)

/-- Cores draining or converting on a die (R145). -/
def converting (s : State) (die : Nat) : Nat :=
  (s.cores.filter fun (u, k) => decide (u < 256) && u / 128 == die && k.conv != .none).length

/-- A core drains or converts for a launch (R145). -/
def convertsFor (s : State) (launch u : Nat) : Bool :=
  match (s.core u).conv with
  | .draining _ l => l == launch
  | .converting _ l _ => l == launch
  | .none => false

/-- A core that holds no team converts for a launch, now or at once. -/
def convertsNow (s : State) (launch u : Nat) : Bool := convertsFor s launch u && !coreHolds s u

/-- What is asked of the cores for a team: the cores that may be looked at, the launch cohorts in seat order, whether the
team may lie on several cores, how many launch cohorts a core has to take together, the shape of a saved team. -/
structure Ask where
  units : List Nat
  sizes : List Nat
  cluster : Bool
  gran : Nat
  shape : Option (List Nat)
  deriving DecidableEq, Repr

/-- What a team to be placed asks for (R26, R34, R36, R222, R416). -/
def askOf (s : State) (it : Item) : Ask :=
  let l := s.launch it.launch
  let pixel := (s.plan it.plan).draw && l.stage == 2
  let fixed := match it.team with
    | some t => if pixel then (s.team t).units.head? else none
    | none => if pixel then l.fixed else none
  let die := dieOf s it.launch it.num
  { units := match fixed with
      | some u => [u]
      | none => (List.range 256).filter fun u => die.all fun d => u / 128 == d
    sizes := match it.team with
      | some t => ((savedLive s t).flatMap fun x => x).map fun i => (s.lcoh i).threads.length
      | none => cohortSizes l
    cluster := (l.levels[l.teamlv]?.map Level.domain) == some 2
    gran := coreUnit1 l
    shape := it.team.map fun t => (savedLive s t).map List.length }

/-- Judges cores for a team, which needs some bytes of scratchpad beside its own. -/
def judgeCores (s : State) (it : Item) (extra : Nat) (us : List Nat) : List (Nat × Fit) :=
  let p := s.plan it.plan
  let stage := (s.launch it.launch).stage
  us.map fun u => (u, fit s it.plan stage (p.spwin * 1024 + meshBytes p stage + extra) u (p.draw && stage == 2))

/-- The cores that qualify in order of preference (R34): with `any`, those too that only their carve-out setting keeps out. -/
def inOrder (s : State) (any : Bool) (l : List (Nat × Fit)) : List (Nat × Nat) :=
  sortBy (fun x => (96 - freeContexts s x.1) * 256 + x.1) (l.filterMap fun x => match x.2 with
    | .ok n => some (x.1, n)
    | .carve n => if any then some (x.1, n) else none
    | .no => none)

/-- A launch is tied to a ring whose records it claims, and cannot claim records of the queue in memory in their place (log entry
58). -/
def bound (s : State) (it : Item) : Bool := (ringUnit s it).isSome && !swappable s it.launch

/-- The cores that a team takes, with a new fused ring or without (R34, R61): those of the ring with which its launch is fused
already, else those of a new ring, else any. -/
def coresFor (s : State) (it : Item) (a : Ask) : Option (List (Nat × Nat) × Option (Nat × Nat)) :=
  let stage := (s.launch it.launch).stage
  let home := (ringUnit s it).bind fun u => share false (inOrder s false (judgeCores s it 0 [u])) 1 a.sizes none
  let fused := match if bound s it then none else ringFor s it with
    | some (n, z) =>
      (share false (inOrder s false (judgeCores s it (n * z) (a.units.filter (holdsProducer s it.plan stage)))) 1 a.sizes none).map
        fun on => (on, some (n, z))
    | none => none
  match home, fused with
  | some on, _ => some (on, none)
  | none, some x => some x
  | none, none => (share a.cluster (inOrder s false (judgeCores s it 0 a.units)) a.gran a.sizes a.shape).map fun on => (on, none)

/-- A team's launch is fused with its ring on the cores chosen, and needs no other records (R61). -/
def atRing (s : State) (it : Item) (on : List (Nat × Nat)) : Bool := (ringUnit s it).any fun u => on.map Prod.fst == [u]

/-- The queue object whose claim count changes as a launch gives up the records of its ring has to be waited for (R178). -/
def swapBusy (s : State) (it : Item) (on : List (Nat × Nat)) : Bool :=
  let l := s.launch it.launch
  let p := s.plan it.plan
  it.num == 0 && it.team.isNone && l.ring.isSome && !atRing s it on &&
    !(admitRanges s (.plan it.plan l.stage) p.ctx [(stageQueue p l.stage, 32)]).1

/-- The core that is to drain for a team which only carve-out settings keep from being placed (R145): of those that would take a
part of it, the one with the fewest resident launch cohorts. -/
def drainFor (s : State) (it : Item) (a : Ask) : Option Nat :=
  let fits := judgeCores s it 0 a.units
  let order := inOrder s true fits
  let takes (u n : Nat) : Bool :=
    if a.cluster then (clusterShare order a.gran a.sizes a.shape (u / 8)).isSome else decide (a.sizes.length ≤ n)
  minBy (fun u => (96 - freeContexts s u) * 256 + u) (fits.filterMap fun x => match x.2 with
    | .carve n => if takes x.1 n then some x.1 else none
    | _ => none)

/-- What else is asked of the cores chosen: the overlays resident, the entry index in range, and, as the plan's first team is
placed, the context's table and the draw table read (R35, R159, R213). -/
def placeReady (s : State) (it : Item) (on : List (Nat × Nat)) (ring : Option (Nat × Nat)) : Attempt :=
  let p := s.plan it.plan
  let load := (on.filter fun x => !(missingRefs s it x.1).isEmpty).map Prod.fst
  if !load.isEmpty then .load load
  else
    let (ov, ix) := entryOf p (s.launch it.launch).stage
    let bad (u : Nat) : Bool := match inView s u (refOf p ov) with
      | some i => decide ((i.words.getD 1 0).toNat / 65536 ≤ ix)
      | none => true
    if on.any fun x => bad x.1 then (if tablesBusy s it.plan then .wait else .badEntry)
    else if swapBusy s it on then .wait
    else (tablesReady s it.plan).getD (.place on ring)

/-- Tries to place a team (R34, R35, R61, R145, R416). A team for whose launch an empty core converts waits for it; no second core
drains for a launch; and one whose die is at its limit of conversions waits too (log entry 67). -/
def attempt (s : State) (it : Item) : Attempt :=
  let a := askOf s it
  match coresFor s it a with
  | none =>
    match drainFor s it a with
    | some u => if a.units.any (convertsFor s it.launch) || decide (32 ≤ converting s (u / 128)) then .fail else .drain u
    | none => .fail
  | some (on, ring) =>
    let conv := (on.map Prod.fst).filter fun u => (s.core u).carve != (s.plan it.plan).menu
    if conv.isEmpty then placeReady s it on ring
    else if !a.units.any (convertsNow s it.launch) && conv.all fun u => decide (converting s (u / 128) + (conv.filter fun v => v / 128 == u / 128).length ≤ 32) then
      .convert conv
    else .fail

end Attempt

section Place

/-- The entry PC of a stage on a core. -/
def entryPc (s : State) (p : Plan) (stage u : Nat) : Word :=
  let (ov, ix) := entryOf p stage
  match inView s u (refOf p ov) with
  | some i => BitVec.ofNat 32 (ov * 65536 + (i.words.getD (8 + ix) 0).toNat % 65536)
  | none => 0

/-- The surface tables are bound, and the draw table is read, before a plan's first team is placed (R159, R213). -/
def beginPlan (s : State) (plan : Nat) : State :=
  let p := s.plan plan
  if p.begun then s
  else
    let tab := (surfaceTable s p.ctx).getD []
    let s0 := visitAll s p.ctx (tableRanges s p)
    let s1 := (staleSlots s p.ctx tab).foldl (fun s i => bindSlot s p.ctx i (steBytes tab i)) s0
    let (n, s2) := s1.newId
    let s3 := s2.modPlan plan fun p => { p with begun := true, begunAt := n }
    match p.draw, alookup p.wins 7 with
    | true, some (b, k) => readDraws s3 plan ((readHome s3 p.ctx b k).getD [])
    | _, _ => s3

/-- Gives a team its window on a core, every byte of it 0 (R142, R15). -/
def giveWindow (s : State) (team u size : Nat) : State :=
  let b := freeBase (scratchTaken s u) size
  (s.modCore u fun k => { k with scratch := Memory.clear k.scratch b size }).modTeam team fun t => { t with
    windows := ainsert t.windows u b }

/-- Threads of a launch cohort go to work at a PC: in a free context, else in an open bin, else as a waiting launch cohort
(R435). -/
def startLcoh (s : State) (lc : Nat) (pc : Word) : State :=
  let l := s.lcoh lc
  let la := (s.team l.team).launch
  match contextFor s l.unit l.part with
  | some ctx => newCohort s l.unit l.part ctx la pc l.threads [] false s.sched.clk
  | none =>
    match fileAt s l.unit la pc .openBin (filedNow s l.threads) [] false with
    | some s1 => s1
    | none =>
      l.threads.foldl (fun s t => s.modThread t fun th => { th with place := .waiting lc })
        (s.modLcoh lc fun l => { l with waiting := some pc })

/-- Places a launch cohort of a new team on a core: its partition (R36), its threads (R13, R29, R85, R222). -/
def placeLcoh (it : Item) (team u : Nat) (s : State) (first n : Nat) : State :=
  let p := s.plan it.plan
  let l := s.launch it.launch
  let part := (pickPart s u p.rowmin).getD 0
  let (lc, s1) := s.newId
  let pc := entryPc s p l.stage u
  let ids := (List.range n).map fun i => s1.sched.next + i
  let s2 := s1.modSched fun x => { x with next := x.next + n }
  let th (i : Nat) : Thread :=
    { Thread.nil with
      launch := it.launch, team := team, lin := it.num * l.teamSize + first + i, seat := first + i, unit := u, part := part
      lane := i, lcoh := lc, place := .waiting lc, head := pc, ckpt := { head := pc }
      quad := l.quads[(first + i) / 4]?, pix := (first + i) % 4 }
  let s3 : State := { s2 with work := { s2.work with
    threads := (ids.zipIdx).foldl (fun m (t, i) => ainsert m t (th i)) s2.work.threads
    lcohs := ainsert s2.work.lcohs lc { team := team, unit := u, part := part, threads := ids } } }
  startLcoh (s3.modTeam team fun t => { t with threads := t.threads ++ ids }) lc pc

/-- Places launch cohorts one after another on a core, from a seat upward. -/
def placeLcohs (it : Item) (team u : Nat) (s : State) (first : Nat) : List Nat → State
  | [] => s
  | n :: r => placeLcohs it team u (placeLcoh it team u s first n) (first + n) r

/-- Places launch cohorts of sizes on cores, each taking its number of them. -/
def placeOn (it : Item) (team : Nat) (s : State) (first : Nat) (sizes : List Nat) : List (Nat × Nat) → State
  | [] => s
  | (u, n) :: r =>
    let mine := sizes.take n
    placeOn it team (placeLcohs it team u s first mine) (first + mine.foldl (· + ·) 0) (sizes.drop n) r

/-- A new ring of a launch's queue on a core (R61). -/
def newRing (s : State) (it : Item) (u n z : Nat) : State :=
  let (id, s1) := s.newId
  let r : Ring := { plan := it.plan, stage := (s.launch it.launch).stage, unit := u, slots := n, size := z,
                    base := freeBase (scratchTaken s u) (n * z) }
  { s1 with work := { s1.work with rings := ainsert s1.work.rings id r } }.modLaunch it.launch fun l => { l with ring := some id }

/-- The pin of a placed team is a use of the overlays that it needs (R95, R96). -/
def usePinned (s : State) (it : Item) (units : List Nat) : State :=
  let refs := neededRefs s it
  units.foldl (fun s u => s.modCore u fun k => { k with
    images := k.images.map fun i => if refs.any i.views.contains then { i with used := s.sched.clk } else i }) s

/-- A new team is placed (R34); the first team of a launch that finds no place on the core of its ring gives up the records of the
ring, and is fused with a new ring or with none (R61). -/
def placeNew (s : State) (it : Item) (on : List (Nat × Nat)) (ring : Option (Nat × Nat)) : State :=
  let l := s.launch it.launch
  let p := s.plan it.plan
  let (team, s1) := s.newId
  let units := on.map Prod.fst
  let s2 : State := { s1 with work := { s1.work with
    teams := ainsert s1.work.teams team { launch := it.launch, num := it.num, units := units, windows := [], threads := [] } } }
  let s3 := units.foldl (fun s u => giveWindow s team u (p.spwin * 1024)) s2
  -- the array's elements read +0 (R203)
  let s4 := if p.acct == 0 then s3 else units.foldl (fun s u => s.modCore u fun k => { k with mx := {} }) s3
  let first := it.num == 0 && l.ring.isSome && !atRing s it on
  let s4 := if first then (swapClaim s4 it.launch).modLaunch it.launch fun l => { l with ring := none } else s4
  let s5 := match ring with
    | some (n, z) => newRing s4 it (units.headD 0) n z
    | none => s4
  let s6 := s5.modLaunch it.launch fun l => { l with
    again := l.again.filter (· != it.num), nextTeam := if it.again then l.nextTeam else l.nextTeam + 1
    entry := entryPc s p l.stage (units.headD 0) }
  placeOn it team (usePinned s6 it units) 0 (cohortSizes l) on

end Place

section Resume

/-- The new core of a team for one that it left; the first one for any other core. -/
def newUnit (old units : List Nat) (u : Nat) : Nat := units.getD (old.findIdx (· == u)) (units.headD 0)

/-- Gives the mappings of threads of one launch cohort fresh cloak rows of their new partition. -/
def renumberRows (s : State) (unit part : Nat) (ths : List Nat) : State :=
  moveRows s ths (assignCloak (cloakRowsUsed s unit part) (distinct ((cloakRowsOf s ths).map Prod.fst)))

/-- The mappings of threads of one launch cohort go to rows of their new partition: physical ones where every bank has as many
as they need, else cloak rows. -/
def returnRows (s : State) (lc : Nat) (ths : List Nat) : Bool × State :=
  let l := s.lcoh lc
  let s1 := renumberRows s l.unit l.part ths
  match uncloakThreads s1 l.unit l.part ths with
  | some s2 => (true, s2)
  | none => (false, s1)

/-- A whole-saved cohort is restored in its launch cohort's partition (R416, step 5); without a free context or without the rows
it is restored cloaked. -/
def restoreCohort (s : State) (lc : Nat) (c : Cohort) : State :=
  let l := s.lcoh lc
  if c.members.isEmpty then s
  else
    let (rows, s1) := returnRows s lc c.members
    let (id, s2) := s1.newId
    let s3 := c.members.foldl (fun s t => s.modThread t fun th => { th with place := .cohort id }) s2
    let ctx := contextFor s3 l.unit l.part
    let s4 := s3.setCohort id { c with
      unit := l.unit, part := l.part, ctx := ctx.getD 0, nextIssue := s.sched.clk, issued := 0, capMark := false
      cloak := if rows && ctx.isSome then .no else .cloaked false }
    match c.wait with
    | .bell line _ => bellCohort s4 line (bellAt s4 line).seen id
    | _ => s4

/-- The cohort as which filed threads are restored when no bin takes them: a word at which they waited is tried again, but for
a barrier, whose wait goes on. -/
def asCohort (b : Bin) (ths : List Nat) (fs : List Filed) : Cohort :=
  let c : Cohort := { Cohort.nil with launch := b.launch, pc := b.pc, active := ths, uregs := b.uregs, priv := b.priv }
  let waits := fs.filter Filed.waits
  let late := fs.filter Filed.late
  match b.cond with
  | .barrier => { c with wait := .barrier (late.map Filed.thread) (!waits.isEmpty) ((if waits.isEmpty then late else waits).map Filed.thread) }
  | .tag _ _ _ _ => { c with pc := pcAdd b.pc (-3) }
  | _ => c

/-- Filed threads are restored: restartable ones at their region heads, others in a bin as they were (R87, R416, step 5). -/
def restoreBin (s : State) (b : Bin) : State :=
  let ids := b.ids
  let lcs := distinct (ids.map fun t => (s.thread t).lcoh)
  let s1 := lcs.foldl (fun s lc => (returnRows s lc (ids.filter fun t => (s.thread t).lcoh == lc)).2) s
  let units := distinct (ids.map fun t => (s.thread t).unit)
  units.foldl (fun s u =>
    let mine := b.threads.filter fun f => (s.thread f.thread).unit == u
    match fileAt s u b.launch b.pc b.cond (mine.map fun f => { f with time := s.sched.clk }) b.uregs b.priv with
    | some s2 => s2
    | none => lcs.foldl (fun s lc =>
        let those := mine.filter fun f => (s.thread f.thread).lcoh == lc
        restoreCohort s lc (asCohort b (byLane s (those.map Filed.thread)) those)) s) s1

/-- A team's overlay load counts on its tag again (R365, R416): one that has ended meanwhile has completed with its status. -/
def restoreLoad (team u : Nat) (s : State) (tag : Nat) (r : OvRef) : State :=
  let s1 := bindTwin (tagReturn s u tag) u r false
  if (inView s1 u r).isSome then tagDone s1 u tag false
  else
    match loadOf s1 u r with
    | some l => s1.modCore u fun k => { k with
        loads := k.loads.map fun x => if x.id == l.id then { x with tags := x.tags ++ [(tag, team)] } else x }
    | none => startLoad s1 u r false [(tag, team)] []

/-- A placed team other than one holds a pass on a core. -/
def heldByOther (s : State) (team n u : Nat) : Bool :=
  s.work.teams.any fun (i, t) => i != team && !t.exited && t.save.isNone && t.holds.any fun h => h.1 == n && h.2.1 == u && h.2.2 != 0

/-- A pass moves from a core to another, with the holds of every team on it (R192). -/
def movePass (n u v : Nat) (s : State) : State :=
  match alookup s.mem.passes n with
  | none => s
  | some p =>
    if p.holder != some u then s
    else
      let s1 := dropL1 s u fun b => decide (p.base ≤ b / 16) && decide (b / 16 < p.base + p.nseg)
      let s2 := s1.modMem fun m => { m with passes := ainsert m.passes n { p with holder := some v } }
      { s2 with work := { s2.work with teams := s2.work.teams.map fun (i, t) =>
          (i, { t with holds := t.holds.map fun (a, b, k) => (a, if a == n && b == u then v else b, k) }) } }

/-- Hall-pass holds move with a team (R192). A pass that another placed team holds stays with its core, and the team's hold
with it (log entry 69). -/
def movePasses (team : Nat) (f : Nat → Nat) (s : State) : State :=
  (s.team team).holds.foldl (fun s (n, u, k) =>
    if k == 0 || heldByOther s team n u then s else movePass n u (f u) s) s

/-- The launch cohorts of core i of a saved team are placed on core i of the new placement, partition by partition (R36, R416). -/
def moveLcohs (rowmin : Nat) (s : State) : List (List Nat × Nat) → State
  | [] => s
  | (ls, u) :: r =>
    moveLcohs rowmin (ls.foldl (fun s lc =>
      let part := (pickPart s u rowmin).getD 0
      (s.lcoh lc).threads.foldl (fun s t => s.modThread t fun th => { th with unit := u, part := part })
        (s.modLcoh lc fun l => { l with unit := u, part := part })) s) r

/-- No core of the device. -/
def noCore : Nat := 1024

/-- A pre-empted team is placed again and its state restored (R416). -/
def resumeTeam (s : State) (it : Item) (team : Nat) (on : List (Nat × Nat)) : State :=
  let tm := s.team team
  let p := s.plan it.plan
  let sv := tm.save.getD {}
  let units := on.map Prod.fst
  let f := newUnit tm.units units
  let shape := savedShape s team
  -- until it is placed a launch cohort of the team is on no core, where no partition counts it
  let s0 := (teamLcohs s team).foldl (fun s x => s.modLcoh x.1 fun l => { l with unit := noCore }) s
  let s1 := moveLcohs p.rowmin (s0.modTeam team fun t => { t with save := none }) (shape.zip units)
  let s2 := s1.modTeam team fun t => { t with
    units := units, windows := [], held := false, extent := 0, leaving := none, still := none
    pins := t.pins.map fun (u, i, k) => (f u, i, k)
    -- a closed meshlet stays with the rasteriser of the core on which it closed (R217)
    mesh := t.mesh.map fun m => if m.closed then m else { m with unit := f m.unit }
    -- every saved matrix command completes before a word of the team issues (R212)
    resuming := sv.mx.flatMap fun (u, m) => m.queue.map fun c => (f u, c.id) }
  let s3 := units.foldl (fun s u => giveWindow s team u (p.spwin * 1024)) (usePinned s2 it units)
  let s4 := sv.wins.foldl (fun s (u, m) =>
    let b := (alookup (s.team team).windows (f u)).getD 0
    s.modCore (f u) fun k => { k with scratch := m.foldl (fun k x => Memory.put k (b + x.1) x.2) k.scratch }) s3
  let s5 := movePasses team f s4
  let s6 := sv.mx.foldl (fun s (u, m) =>
    (m.queue.foldl (fun s c => match c.tag with
      | some n => tagReturn s (f u) n
      | none => s) s).modCore (f u) fun k => { k with mx := m }) s5
  let s7 : State := { s6 with surf := { s6.surf with jobs := s6.surf.jobs.map fun j =>
    if j.team == team then { j with suspended := false } else j } }
  let s8 := sv.cohorts.foldl (fun s (lc, c) => restoreCohort s lc c) s7
  let s9 := sv.bins.foldl (fun s (_, b) => restoreBin s b) s8
  let s10 := sv.loads.foldl (fun s (u, tag, r) => restoreLoad team (f u) s tag r) s9
  let cs := s10.mem.copies.filter fun c => c.team == team && c.squashed
  let qs := s10.mem.stages.filter fun c => c.team == team && c.squashed
  let s11 := qs.foldl (fun s c => tagReturn s (f c.unit) c.tag) (cs.foldl (fun s c => tagReturn s (f c.unit) c.tag) s10)
  s11.modMem fun m => { m with
    copies := m.copies.map fun c => if c.team == team then { c with squashed := false, unit := f c.unit } else c
    stages := m.stages.map fun c => if c.team == team then { c with squashed := false, unit := f c.unit } else c }

end Resume

section Decision

/-- Gives cores that a plan is still due for its stages (R62): those that hold no team and are assigned to no stage, in
ascending order (log entry 64). -/
def grantPlan (s : State) (id : Nat) : State :=
  (s.plan id).owed.foldl (fun s (j, n) =>
    let free := ((List.range 256).filter fun u =>
      !coreHolds s u && (assignedTo s u).isEmpty && !(s.core u).fenced && (s.core u).ovfl != 0).take n
    s.modPlan id fun p => { p with
      assign := p.assign ++ free.map fun u => (u, j)
      owed := (p.owed.map fun x => if x.1 == j then (j, x.2 - free.length) else x).filter fun x => x.2 != 0 }) s

/-- Cores that have become free go to the stages that are still due some (R62). -/
def grantOwed (s : State) : State :=
  (s.work.plans.filter fun x => !x.2.owed.isEmpty).foldl (fun s x => grantPlan s x.1) s

/-- No core is passed over any more (R35). -/
def clearNoSlot (s : State) (plans : Nat → Bool) : State :=
  { s with work := { s.work with plans := s.work.plans.map fun (i, p) => (i, if plans i then { p with noSlot := [] } else p) } }

/-- A placement has been made: it counts for every head (R32), and a plan whose stage 0 is placed leaves its queue (R31). -/
def placed (s : State) (it : Item) : State :=
  let p := s.plan it.plan
  let l := s.launch it.launch
  let head := ((alookup s.work.queues p.queue).getD []).head? == some it.plan
  let s1 : State := { s with work := { s.work with
    since := (List.range 8).foldl (fun m q => ainsert m q (if head && q == p.queue then 0 else sinceServed s q + 1)) s.work.since } }
  if l.stage == 0 && decide (l.total ≤ l.nextTeam * l.teamSize) && head then
    let s2 := (leaveQueue s1 it.plan).modPlan it.plan fun p => { p with left := true }
    { s2 with work := { s2.work with since := ainsert s2.work.since p.queue 0 } }
  else s1

/-- Performs a placement. -/
def performPlace (s : State) (it : Item) (on : List (Nat × Nat)) (ring : Option (Nat × Nat)) : State :=
  let s1 := beginPlan s it.plan
  let s2 := match it.team with
    | some t => resumeTeam s1 it t on
    | none => placeNew s1 it on ring
  clearNoSlot (placed s2 it) fun _ => true

/-- The first team of the order that can be placed now; a launch whose team cannot be placed holds back its later ones, and one
without a core is passed over (R32, R33). -/
def firstPlaceable (s : State) : List Item → Option (Item × List (Nat × Nat) × Option (Nat × Nat))
  | [] => none
  | it :: r =>
    match attempt s it with
    | .place on ring => some (it, on, ring)
    | _ => firstPlaceable s r

/-- The dispatcher waits for a plan's tables, or for a queue's claim count (R178). -/
def waitTables (s : State) (it : Item) : State :=
  let p := s.plan it.plan
  let j := (s.launch it.launch).stage
  if tablesBusy s it.plan then (takeTurn s (.plan it.plan 0) (tableSpans s it.plan)).2
  else (admitRanges s (.plan it.plan j) p.ctx [(stageQueue p j, 32)]).2

/-- A plan's team is passed over for another reason than its tables, for which it does not wait then. -/
def passedBy (s : State) (it : Item) : State := if (s.plan it.plan).begun then s else dequeueFor s (.plan it.plan 0)

/-- Goes through the teams in order until one is placed, or a plan is rejected or ended. -/
def decideItems (s : State) : List Item → State
  | [] => s
  | it :: r =>
    let p := s.plan it.plan
    match attempt s it with
    | .place on ring => performPlace s it on ring
    | .unread => rejectPlan s it.plan 0x05
    | .badEntry => if p.begun then killPlan s it.plan 0xFF else rejectLowest s it.plan p 0xFF07
    | .drain u => decideItems ((passedBy s it).modCore u fun k => { k with conv := .draining p.menu it.launch }) r
    | .convert us => decideItems (us.foldl (fun s u => s.modCore u fun k => { k with conv := .draining p.menu it.launch }) (passedBy s it)) r
    | .load _ => decideItems (passedBy s it) r
    | .wait => decideItems (waitTables s it) r
    | .fail => decideItems (clearNoSlot (passedBy s it) fun i => i == it.plan) r

/-- The dispatcher waits for the tables of a plan that is not one of some. -/
def tablesOnly (ids : List Nat) : Waiter → Bool
  | .plan p 0 => !ids.contains p
  | _ => false

/-- The dispatcher waits for the tables of those plans alone that a decision looks at: of heads to be read, and of plans that
compete. -/
def leaveTables (s : State) : State :=
  let ids := (s.work.queues.flatMap fun (_, l) => l.head?.toList) ++ (itemOrder s).map Item.plan
  if s.mem.waiting.any fun x => tablesOnly ids x.1 then s.modMem fun m => { m with
    waiting := m.waiting.filter fun x => !tablesOnly ids x.1 }
  else s

/-- PLACEMENT_DECISION (R32 to R34): the heads are read, and one team is placed. -/
def execPlacementDecision (s : State) : Out :=
  if s.host.mode != .running then .next s
  else
    let s1 := leaveTables (grantOwed (examineHeads s))
    .next (decideItems s1 (itemOrder s1))

/-- The loads that a team waits for on a core, begun if they are not under way (R35, R416). -/
def preload (s : State) (it : Item) (u : Nat) : State :=
  let l := s.launch it.launch
  let tag := (it.plan, if it.team.isSome then 256 + l.stage else l.stage)
  (missingRefs s it u).foldl (fun s r =>
    let s1 := bindTwin s u r false
    if (inView s1 u r).isSome then s1
    else
      match loadOf s1 u r with
      | some x =>
        if x.disp.contains tag then s1
        else s1.modCore u fun k => { k with
          loads := k.loads.map fun y => if y.id == x.id then { y with disp := y.disp ++ [tag] } else y }
      | none => startLoad s1 u r false [] [tag]) s

/-- A request of the dispatcher is the last of a core's requests that arrive in a cycle (R281): it waits while a partition of
the core may still issue in the cycle, and none issues after it. -/
def dispatcherLast (s : State) (u : Nat) : Bool := (openSlots s).all fun q => q / 4 != u
def afterDispatcher (s : State) (u : Nat) : State :=
  s.modSched fun x => { x with served := if x.served.contains (4 * u + 3) then x.served else x.served ++ [4 * u + 3] }

/-- DISPATCHER_PRELOAD (R35, R281, R416): the overlays that a team of plan b, stage c, waits for on core a. -/
def execDispatcherPreload (s : State) : Out :=
  let u := s.sched.arg.a
  let wants := (itemOrder s).filter fun it => it.plan == s.sched.arg.b && (s.launch it.launch).stage == s.sched.arg.c
  .next <|
    if !dispatcherLast s u then s
    else
      wants.foldl (fun s it =>
        match attempt s it with
        | .load us =>
          if us.contains u then preload s it u else s
        | _ => s) (afterDispatcher s u)

/-- TEAM_RESUME (R310, R416): team a is the one that a decision places now. Nothing is placed in the safe state (R429). -/
def execTeamResume (s : State) : Out :=
  if s.host.mode != .running then .next s
  else
    match firstPlaceable s (itemOrder s) with
    | some (it, on, ring) => .next (if it.team == some s.sched.arg.a then performPlace s it on ring else s)
    | none => .next s

end Decision

section Conversion

/-- CARVEOUT_CONVERSION (R145): a draining core that holds no team converts: its L1 is written back and invalidated, its
scratchpad is discarded, its tags and what is known of its loads are cleared (R302, R365). -/
def execCarveoutConversion (s : State) : Out :=
  let u := s.sched.arg.a
  match (s.core u).conv with
  | .draining m l =>
    if coreHolds s u then .next s
    else
      .next ((leaveDirectory (dropL1 s u fun _ => true) u).modCore u fun k => { k with
        conv := .converting m l (s.sched.clk + 4096), l1 := [], scratch := [], tags := [], lastLoads := []
        mx := { k.mx with queue := k.mx.queue.map fun c => { c with tag := none } } })
  | _ => .next s

/-- CONVERSION_COMPLETE (R145): core a has its new setting, 4,096 cycles after its write-back at the latest (see `tick`). -/
def execConversionComplete (s : State) : Out := .next (s.modCore s.sched.arg.a Core.converted)

end Conversion

end Sys2Proof.Machine
end

