-- ==== Sys2Proof/Machine/MlDsa.lean ====
section
/-! DEFINITION. ML-DSA-87 (FIPS 204): key generation from a seed, signing and verification, which boot (R428) and attestation
(R430) use, in the pure form with an empty context string (log entry 72). A polynomial is the list of its 256 coefficients
modulo q. -/

namespace Sys2Proof.Machine

section Field

/-- The modulus q. -/
def dsaQ : Nat := 8380417

/-- Powers of the 512th root of unity 1753. -/
def dsaRoots : List Nat := (List.range 512).map fun i => 1753 ^ i % dsaQ

/-- An 8-bit number with its bits in reverse order. -/
def revByte (m : Nat) : Nat := (List.range 8).foldl (fun v i => 2 * v + (m >>> i) % 2) 0

/-- The factor of a node of the transform and its inverse. -/
def dsaZeta (m : Nat) : Nat := dsaRoots.getD (revByte m) 0
def dsaZetaInv (m : Nat) : Nat := dsaRoots.getD ((512 - revByte m) % 512) 0

/-- A polynomial. -/
abbrev Poly := List Nat

def polyAdd (a b : Poly) : Poly := List.zipWith (fun x y => (x + y) % dsaQ) a b
def polySub (a b : Poly) : Poly := List.zipWith (fun x y => (x + dsaQ - y) % dsaQ) a b
def polyMul (a b : Poly) : Poly := List.zipWith (fun x y => x * y % dsaQ) a b
def polyScale (k : Nat) (a : Poly) : Poly := a.map fun x => k * x % dsaQ

/-- The number-theoretic transform of the 2^n coefficients below a node. -/
def ntt : Nat → Nat → Poly → Poly
  | 0, _, w => w
  | n + 1, m, w =>
    let a := w.take (2 ^ n)
    let t := polyScale (dsaZeta m) (w.drop (2 ^ n))
    ntt n (2 * m) (polyAdd a t) ++ ntt n (2 * m + 1) (polySub a t)

/-- The inverse of the transform, up to the factor 2^n. -/
def nttInv : Nat → Nat → Poly → Poly
  | 0, _, w => w
  | n + 1, m, w =>
    let u := nttInv n (2 * m) (w.take (2 ^ n))
    let v := nttInv n (2 * m + 1) (w.drop (2 ^ n))
    polyAdd u v ++ polyScale (dsaZetaInv m) (polySub u v)

/-- The transform of a polynomial, and its inverse: 8,347,681 is 1/256. -/
def toNtt (w : Poly) : Poly := ntt 8 1 w
def ofNtt (w : Poly) : Poly := polyScale 8347681 (nttInv 8 1 w)

/-- The product of a matrix and a vector, both transformed. -/
def matVec (a : List (List Poly)) (v : List Poly) : List Poly :=
  a.map fun row => (List.zipWith polyMul row v).foldl polyAdd (List.replicate 256 0)

/-- A coefficient as the integer next to 0, and its size. -/
def centred (x : Nat) : Int := if x ≤ dsaQ / 2 then x else (x : Int) - dsaQ
def sizeOf1 (x : Nat) : Nat := (centred x).natAbs

/-- A coefficient for an integer. -/
def coeffOf (x : Int) : Nat := (x % dsaQ).toNat

/-- Every coefficient of every polynomial is smaller than a bound. -/
def allBelow (b : Nat) (v : List Poly) : Bool := v.all fun p => p.all fun x => decide (sizeOf1 x < b)

end Field

section Rounding

/-- Power2Round: t = t1 · 2^13 + t0. -/
def power2Round (r : Nat) : Nat × Int :=
  let r0 : Int := if r % 8192 ≤ 4096 then (r % 8192 : Nat) else ((r % 8192 : Nat) : Int) - 8192
  ((((r : Int) - r0) / 8192).toNat, r0)

/-- 2 · γ2. -/
def dsaAlpha : Nat := 523776

/-- Decompose: the high and the low part of a coefficient. -/
def decompose (r : Nat) : Nat × Int :=
  let r0 : Int := if r % dsaAlpha ≤ dsaAlpha / 2 then (r % dsaAlpha : Nat) else ((r % dsaAlpha : Nat) : Int) - dsaAlpha
  if (r : Int) - r0 == dsaQ - 1 then (0, r0 - 1) else ((((r : Int) - r0) / dsaAlpha).toNat, r0)

/-- UseHint. -/
def useHint (h : Bool) (r : Nat) : Nat :=
  let (r1, r0) := decompose r
  if h then (if 0 < r0 then (r1 + 1) % 16 else (r1 + 15) % 16) else r1

end Rounding

section Packing

/-- The bits of numbers of a width, lowest first, as bytes. -/
def packBits (w : Nat) (l : List Nat) : List Byte :=
  let v := l.reverse.foldl (fun v x => v * 2 ^ w + x) 0
  (List.range (l.length * w / 8)).map fun i => BitVec.ofNat 8 (v >>> (8 * i))

/-- 256 numbers of a width from bytes. -/
def unpackBits (w : Nat) (bs : List Byte) : List Nat :=
  let v := bs.reverse.foldl (fun v b => v * 256 + b.toNat) 0
  (List.range 256).map fun i => (v >>> (w * i)) % 2 ^ w

/-- Pieces of n bytes. -/
def pieces1 (n : Nat) : Nat → List Byte → List (List Byte)
  | 0, _ => []
  | k + 1, bs => bs.take n :: pieces1 n k (bs.drop n)

/-- A vector of 20-bit coefficients as sent: γ1 less each. -/
def packZ (v : List Poly) : List Byte := v.flatMap fun p => packBits 20 (p.map fun x => (524288 - centred x).toNat)
def unpackZ (bs : List Byte) : Poly := (unpackBits 20 bs).map fun x => (524288 + dsaQ - x) % dsaQ

/-- A hint: the places of the ones of each polynomial, then the counts. -/
def packHint (h : List (List Bool)) : List Byte :=
  let ix := h.map fun p => (p.zipIdx.filter fun x => x.1).map fun x => x.2
  let ends := (List.range 8).map fun i => ((ix.take (i + 1)).map List.length).foldl (· + ·) 0
  let l := ix.flatMap fun x => x
  (l ++ List.replicate (75 - l.length) 0 ++ ends).map (BitVec.ofNat 8)

/-- Numbers strictly rise. -/
def rising : List Nat → Bool
  | a :: b :: r => decide (a < b) && rising (b :: r)
  | _ => true

/-- The hint of 83 bytes, if it is well-formed. -/
def unpackHint (bs : List Byte) : Option (List (List Bool)) :=
  let y := bs.map BitVec.toNat
  let ends := y.drop 75
  let cuts := 0 :: ends
  let runs := (List.range 8).map fun i => ((y.take (cuts.getD (i + 1) 0)).drop (cuts.getD i 0))
  let ok := (List.range 8).all (fun i => decide (cuts.getD i 0 ≤ cuts.getD (i + 1) 0) && decide (cuts.getD (i + 1) 0 ≤ 75)) &&
    runs.all rising && ((y.take 75).drop (ends.getD 7 0)).all (· == 0)
  if ok then some (runs.map fun l => (List.range 256).map fun j => l.contains j) else none

end Packing

section Sampling

/-- The output of a sponge, block by block. -/
def squeeze (rate : Nat) (st : List Nat) : Nat → List Byte
  | 0 => []
  | n + 1 => (st.flatMap laneBytes).take rate ++ squeeze rate (keccakF st) n

/-- SHAKE of a rate (FIPS 202): 136 for SHAKE256, 168 for SHAKE128. -/
def shake (rate : Nat) (m : List Byte) (out : Nat) : List Byte :=
  let p := padTo rate 0x1F m
  (squeeze rate (absorb rate (List.replicate 25 0) p (p.length / rate)) (out / rate + 1)).take out

/-- A number as two bytes. -/
def twoBytes (n : Nat) : List Byte := [BitVec.ofNat 8 n, BitVec.ofNat 8 (n / 256)]

/-- Coefficients below q of a stream, three bytes to a candidate. -/
def rejCoeffs : List Byte → List Nat
  | a :: b :: c :: r =>
    let z := a.toNat + 256 * b.toNat + 65536 * (c.toNat % 128)
    if z < dsaQ then z :: rejCoeffs r else rejCoeffs r
  | _ => []

/-- ExpandA: the 8 × 7 matrix, transformed; 298 candidates to a polynomial are enough (FIPS 204, appendix C). -/
def expandA (rho : List Byte) : List (List Poly) :=
  (List.range 8).map fun r => (List.range 7).map fun s =>
    (rejCoeffs (shake 168 (rho ++ [BitVec.ofNat 8 s, BitVec.ofNat 8 r]) 894)).take 256

/-- The small polynomial of a stream: half bytes below 15 give 2 less their rest by 5. -/
def rejSmall (bs : List Byte) : Poly :=
  ((bs.flatMap fun b => [b.toNat % 16, b.toNat / 16]).filter fun x => decide (x < 15)).take 256 |>.map
    fun x => coeffOf (2 - ((x % 5 : Nat) : Int))

/-- ExpandS: the secret vectors. -/
def expandS (rho : List Byte) : List Poly × List Poly :=
  let one (n : Nat) : Poly := rejSmall (shake 136 (rho ++ twoBytes n) 481)
  ((List.range 7).map one, (List.range 8).map fun i => one (7 + i))

/-- ExpandMask. -/
def expandMask (rho : List Byte) (k : Nat) : List Poly :=
  (List.range 7).map fun r => unpackZ (shake 136 (rho ++ twoBytes (k + r)) 640)

/-- Takes the first byte of a stream that is at most i. -/
def takeAtMost (i : Nat) : List Byte → Nat × List Byte
  | [] => (0, [])
  | b :: r => if b.toNat ≤ i then (b.toNat, r) else takeAtMost i r

/-- SampleInBall: a polynomial with 60 coefficients 1 or −1. -/
def sampleInBall (seed : List Byte) : Poly :=
  let bs := shake 136 seed 129
  let signs := laneOf (bs.take 8)
  ((List.range 60).foldl (fun (c, st) k =>
    let i := 196 + k
    let (j, st1) := takeAtMost i st
    ((c.set i (c.getD j 0)).set j (if signs.testBit k then dsaQ - 1 else 1), st1)) (List.replicate 256 0, bs.drop 8)).1

end Sampling

/-- A key pair: the public seed, the secret seed, the digest of the public key, the secret vectors, the low part of t, and the
public key's 2,592 bytes. -/
structure DsaKey where
  rho : List Byte
  secret : List Byte
  tr : List Byte
  s1 : List Poly
  s2 : List Poly
  t0 : List Poly
  pk : List Byte

/-- ML-DSA.KeyGen from a 32-byte seed. -/
def dsaKeyGen (seed : List Byte) : DsaKey :=
  let h := shake 136 (seed ++ [8, 7]) 128
  let rho := h.take 32
  let (s1, s2) := expandS ((h.drop 32).take 64)
  let t := List.zipWith polyAdd ((matVec (expandA rho) (s1.map toNtt)).map ofNtt) s2
  let pk := rho ++ t.flatMap fun p => packBits 10 (p.map fun x => (power2Round x).1)
  { rho := rho, secret := h.drop 96, tr := shake 136 pk 64, s1 := s1, s2 := s2
    t0 := t.map fun p => p.map fun x => coeffOf (power2Round x).2, pk := pk }

/-- The message as it is signed: the pure form with an empty context string. -/
def dsaMessage (m : List Byte) : List Byte := [0, 0] ++ m

/-- The commitment's digest. -/
def dsaCommit (mu : List Byte) (w1 : List (List Nat)) : List Byte := shake 136 (mu ++ w1.flatMap (packBits 4)) 64

/-- The signing loop: the first attempt that no bound refuses. -/
def dsaTry (k : DsaKey) (a : List (List Poly)) (s1 s2 t0 : List Poly) (mu rho : List Byte) : Nat → Nat → List Byte
  | 0, _ => []
  | n + 1, kappa =>
    let y := expandMask rho kappa
    let w := (matVec a (y.map toNtt)).map ofNtt
    let c0 := dsaCommit mu (w.map fun p => p.map fun x => (decompose x).1)
    let c := toNtt (sampleInBall c0)
    let by1 (v : List Poly) : List Poly := v.map fun p => ofNtt (polyMul c p)
    let z := List.zipWith polyAdd y (by1 s1)
    let r := List.zipWith polySub w (by1 s2)
    let ct0 := by1 t0
    let hint := List.zipWith (fun r t => List.zipWith (fun x y => (decompose ((x + y) % dsaQ)).1 != (decompose x).1) r t) r ct0
    let ones : Nat := hint.foldl (fun (n : Nat) l => n + (l.filter id).length) 0
    if allBelow (524288 - 120) z && (r.all fun p => p.all fun x => decide ((decompose x).2.natAbs < 261888 - 120)) &&
        allBelow 261888 ct0 && decide (ones ≤ 75) then c0 ++ packZ z ++ packHint hint
    else dsaTry k a s1 s2 t0 mu rho n (kappa + 7)

/-- ML-DSA.Sign with a 32-byte random value: 4,627 bytes; 814 attempts are enough (FIPS 204, appendix C). -/
def dsaSign (k : DsaKey) (rnd m : List Byte) : List Byte :=
  let mu := shake 136 (k.tr ++ dsaMessage m) 64
  dsaTry k (expandA k.rho) (k.s1.map toNtt) (k.s2.map toNtt) (k.t0.map toNtt) mu (shake 136 (k.secret ++ rnd ++ mu) 64) 814 0

/-- ML-DSA.Verify. -/
def dsaVerify (pk m sig : List Byte) : Bool :=
  if pk.length != 2592 || sig.length != 4627 then false
  else
    match unpackHint (sig.drop 4544) with
    | none => false
    | some h =>
      let c0 := sig.take 64
      let z := (pieces1 640 7 (sig.drop 64)).map unpackZ
      let t1 := (pieces1 320 8 (pk.drop 32)).map fun b => toNtt (polyScale 8192 (unpackBits 10 b))
      let c := toNtt (sampleInBall c0)
      let w := (List.zipWith polySub (matVec (expandA (pk.take 32)) (z.map toNtt)) (t1.map (polyMul c))).map ofNtt
      let w1 := List.zipWith (fun h p => List.zipWith useHint h p) h w
      allBelow (524288 - 120) z && dsaCommit (shake 136 (shake 136 pk 64 ++ dsaMessage m) 64) w1 == c0

end Sys2Proof.Machine
end

