-- ==== Sys2Proof/Machine/Stages.lean ====
section
/-! DEFINITION. Consumer stages: launches that claim records (R60, R61), the sharing of cores (R62), and the completion of plans
(R37). -/

namespace Sys2Proof.Machine

section Claims

/-- A stage of a plan, from 1. -/
def stageAt (p : Plan) (j : Nat) : Option Stage := if j == 0 then none else p.stages[j - 1]?

/-- The launches of a plan's stage. -/
def stageLaunches (s : State) (plan j : Nat) : List (Nat × Launch) := s.work.launches.filter fun (_, l) => l.plan == plan && l.stage == j

/-- The fused rings of a stage. -/
def stageRings (s : State) (plan j : Nat) : List (Nat × Ring) := s.work.rings.filter fun (_, r) => r.plan == plan && r.stage == j

/-- The unclaimed records of a stage's fused rings, the oldest ring's first. -/
def ringRecords (s : State) (plan j : Nat) : List QRec :=
  (stageRings s plan j).flatMap fun (i, r) => r.held.map fun k => .ring i k

/-- The unclaimed records of a stage (R60): those in fused rings, those given back, those in memory. -/
def claimable (s : State) (plan j : Nat) : Nat :=
  (ringRecords s plan j).length + (returnedTo s plan j).length + unclaimedMem s plan j

/-- Nothing unclaimed is left of a stage's records. -/
def stageDry (s : State) (plan j : Nat) : Bool := claimable s plan j == 0

/-- Stages 0 to j of a plan are complete (R60): no later launch of one can occur, and all of its launches have exited. -/
def completeUpTo (s : State) (plan : Nat) : Nat → Bool
  | 0 => (s.plan plan).parsed && (stageLaunches s plan 0).all fun (i, _) => launchOver s i
  | j + 1 => completeUpTo s plan j && stageDry s plan (j + 1) && (stageLaunches s plan (j + 1)).all fun (i, _) => launchOver s i

/-- The oldest ring of a stage with unclaimed records, with which its next launch is fused (R61, log entry 58). -/
def nextRing (s : State) (plan j : Nat) : Option Nat := ((stageRings s plan j).find? fun x => !x.2.held.isEmpty).map Prod.fst

/-- The next n unclaimed records of a stage (R60, R374): those of its next ring first, then those given back, then those in
memory from CL on, then those of other rings. -/
def nextRecords (s : State) (plan j n : Nat) (cl : Nat) : List QRec :=
  let rings := ringRecords s plan j
  let mine (r : QRec) : Bool := match r with
    | .ring i _ => nextRing s plan j == some i
    | .mem _ => false
  (rings.filter mine ++ (returnedTo s plan j).map QRec.mem ++
    (List.range (unclaimedMem s plan j)).map (fun i => QRec.mem ((cl + i) % 2 ^ 32)) ++ rings.filter fun r => !mine r).take n

/-- Unclaimed records leave their rings' and the returned ones; what is claimed anew in memory moves CL. -/
def takeRecords (s : State) (plan j : Nat) (recs : List QRec) : State :=
  { s with work := { s.work with
    rings := s.work.rings.map fun (i, r) =>
      (i, { r with held := without r.held (ringRecs i recs), out := r.out ++ ringRecs i recs })
    returned := s.work.returned.filter fun x => !(x.1 == plan && x.2.1 == j && (memRecs recs).contains x.2.2) } }

/-- A consumer launch that claims n records (R60, R61, R374), fused with the ring whose records it claims. -/
def claimLaunch (s : State) (plan j n : Nat) (g : Stage) : State :=
  let p := s.plan plan
  let (id, s1) := (visitHome s p.ctx (stageQueue p j) 32).newId
  let q := queueAt s p.ctx (stageQueue p j)
  let recs := nextRecords s plan j n ((q.map QObj.cl).getD 0)
  let s2 := takeRecords s1 plan j recs
  let s3 : State := { s2 with work := { s2.work with
    launches := ainsert s2.work.launches id
      { launchOf plan j g.levels g.teamlv g.entryix with claim := recs, ring := nextRing s plan j } } }
  let m := ((memRecs recs).filter fun x => !(returnedTo s plan j).contains x).length
  match q with
  | none => s3
  | some q => if m == 0 then s3 else writeHome s3 p.ctx (stageQueue p j + 8) (leBytes 4 ((q.cl + m) % 2 ^ 32))

/-- A plan takes consumer launches at a stage. -/
def consumes (s : State) (plan j : Nat) : Option Stage :=
  let p := s.plan plan
  if p.begun && !p.done && !p.killed && !p.draw then stageAt p j else none

/-- A stage's queue holds BATCH unclaimed records (R60). -/
def fullBatch (s : State) (plan j : Nat) (g : Stage) : Bool := decide (g.batch ≤ claimable s plan j)

/-- Every stage below is complete and fewer than BATCH records remain (R60). -/
def tailBatch (s : State) (plan j : Nat) (g : Stage) : Bool :=
  let n := claimable s plan j
  n != 0 && decide (n < g.batch) && completeUpTo s plan (j - 1)

/-- A launch claims n records when the dispatcher's turn at the queue object has come (R60, R178). -/
def claimTurn (s : State) (plan j n : Nat) (g : Stage) (tail : Bool) : State :=
  let p := s.plan plan
  match admitRanges s (.plan plan j) p.ctx [(stageQueue p j, 32)] with
  | (false, s1) => s1
  | (true, s1) =>
    let s2 := claimLaunch s1 plan j n g
    if tail then s2.modPlan plan fun p => { p with tails := p.tails ++ [j] } else s2

/-- The dispatcher does not wait for a queue object of which no launch claims records. -/
def noClaim (s : State) (plan j : Nat) : State :=
  match consumes s plan j with
  | some g => if fullBatch s plan j g || tailBatch s plan j g then s else dequeueFor s (.plan plan j)
  | none => dequeueFor s (.plan plan j)

/-- CONSUMER_LAUNCH (R60): BATCH records of plan a, stage b are claimed by one launch, which the dispatcher then places. -/
def execConsumerLaunch (s : State) : Out :=
  let pl := s.sched.arg.a
  let j := s.sched.arg.b
  .next <|
    match consumes s pl j with
    | some g => if fullBatch s pl j g then claimTurn s pl j g.batch g false else noClaim s pl j
    | none => noClaim s pl j

/-- TAIL_LAUNCH (R60): every stage below b of plan a is complete, and the records that remain, fewer than BATCH, in memory and in
fused rings, are claimed by one launch. -/
def execTailLaunch (s : State) : Out :=
  let pl := s.sched.arg.a
  let j := s.sched.arg.b
  .next <|
    match consumes s pl j with
    | some g => if tailBatch s pl j g then claimTurn s pl j (claimable s pl j) g true else noClaim s pl j
    | none => noClaim s pl j

end Claims

section Shares

/-- The cores that hold a team of a plan. -/
def planCores (s : State) (plan : Nat) : List Nat :=
  sortBy (fun u => u) (distinct ((s.work.teams.map Prod.snd).flatMap fun t =>
    if !t.exited && t.save.isNone && (s.launch t.launch).plan == plan then t.units else []))

/-- A stage has unplaced teams; it holds resident teams (R62). -/
def hasUnplaced (s : State) (plan j : Nat) : Bool :=
  (stageLaunches s plan j).any fun (_, l) => decide (l.nextTeam * l.teamSize < l.total) || !l.again.isEmpty
def hasResident (s : State) (plan j : Nat) : Bool :=
  s.work.teams.any fun (_, t) => !t.exited && (s.launch t.launch).plan == plan && (s.launch t.launch).stage == j

/-- Records held in a stage's queue and its slot count. -/
def fillOf (s : State) (plan j : Nat) : Nat × Nat :=
  let p := s.plan plan
  if j == 0 then (if hasUnplaced s plan 0 then 1 else 0, 1)
  else ((queueAt s p.ctx (stageQueue p j)).map fun q => (q.held, q.slots)).getD (0, 1)

/-- The active programmable stages of a plan, each with its fill as a fraction (R62). -/
def activeStages (s : State) (plan : Nat) : List (Nat × Nat × Nat) :=
  let p := s.plan plan
  ((List.range (p.stages.length + 1)).filter fun j =>
    !((stageAt p j).map Stage.fixed).getD false &&
      (hasUnplaced s plan j || hasResident s plan j || (fillOf s plan j).1 != 0)).map fun j => (j, fillOf s plan j)

/-- Shares of c cores in proportion to weights, rounded by largest remainder, ties to the first, and raised to one (R62). With
every weight 0 there is no proportion, and each share is one core (log entry 64). -/
def sharesOf (c : Nat) (w : List (Nat × Nat)) : List (Nat × Nat) :=
  let sum := Nat.max 1 (w.foldl (fun n x => n + x.2) 0)
  let base := w.foldl (fun n x => n + c * x.2 / sum) 0
  let extra := if w.all fun x => x.2 == 0 then 0 else c - base
  let order := (sortBy (fun x : Nat × Nat => sum - c * x.2 % sum) w).take extra
  w.map fun x => (x.1, Nat.max 1 (c * x.2 / sum + if order.contains x then 1 else 0))

/-- Gives cores in order to stages in order: what each stage takes, and how many cores it is then short of. -/
def dealCores : List Nat → List (Nat × Nat) → List (Nat × Nat) × List (Nat × Nat)
  | _, [] => ([], [])
  | cs, (j, n) :: r =>
    let (assign, owed) := dealCores (cs.drop n) r
    ((cs.take n).map (fun c => (c, j)) ++ assign, if cs.length < n then (j, n - cs.length) :: owed else owed)

/-- A staged plan's cores are shared anew (R62): one to each stage while there are enough, then the rest of the shares; what the
plan's cores do not cover comes from cores as they free. -/
def reassign (s : State) (plan : Nat) : State :=
  let cs := planCores s plan
  let fills := activeStages s plan
  -- fills over a common denominator
  let w := fills.map fun x => (x.1, x.2.1 * (fills.filter fun y => y.1 != x.1).foldl (fun n y => n * y.2.2) 1)
  let shares := sharesOf cs.length w
  let (first, none1) := dealCores cs (shares.map fun x => (x.1, 1))
  let (rest, none2) := dealCores (cs.drop shares.length) (shares.map fun x => (x.1, x.2 - 1))
  grantPlan (s.modPlan plan fun p => { p with assign := first ++ rest, owed := none1 ++ none2 }) plan

/-- STAGE_REASSIGNMENT (R62): every 4,096 cycles. -/
def execStageReassignment (s : State) : Out :=
  if s.sched.clk < s.work.reassigned + 4096 then .next s
  else
    let ps := (s.work.plans.filter fun (_, p) => p.begun && !p.done && !p.stages.isEmpty).map Prod.fst
    let s1 := ps.foldl reassign s
    .next { s1 with work := { s1.work with reassigned := s.sched.clk } }

end Shares

section Completion

/-- The threads' own operations that are still outstanding (R37): copies, stages, matrix commands, BANKOPs. -/
def opsPending (s : State) (plan : Nat) : Bool :=
  let mine (team : Nat) : Bool := (s.launch (s.team team).launch).plan == plan
  (s.mem.copies.any fun c => c.plan == plan) || (s.mem.stages.any fun c => c.plan == plan) ||
    (s.cores.any fun (_, k) => k.mx.queue.any fun c => mine c.team) || s.surf.jobs.any fun j => j.plan == plan

/-- Every queue of a plan is empty (R37). -/
def queuesEmpty (s : State) (plan : Nat) : Bool :=
  let p := s.plan plan
  p.draw || (List.range p.stages.length).all fun i =>
    ((queueAt s p.ctx (stageQueue p (i + 1))).map fun q => decide (q.held ≤ lateRecords s plan (i + 1))).getD true &&
    (stageRings s plan (i + 1)).all fun (_, r) => r.held.isEmpty && r.out.isEmpty

/-- Nothing of a DRAW plan is left in the draw pipeline (R223, R225). -/
def drawIdle (s : State) (plan : Nat) : Bool :=
  !(s.plan plan).draw ||
    (s.draw.ended.contains plan && !(s.draw.quads.any fun q => q.plan == plan) &&
      s.cores.all fun (_, k) => k.closed.all fun m => m.plan != plan)

/-- A plan is complete (R37). -/
def planComplete (s : State) (plan : Nat) : Bool :=
  let p := s.plan plan
  p.left && !p.done &&
    ((s.work.launches.filter fun (_, l) => l.plan == plan).all fun (i, _) => launchOver s i) && !opsPending s plan &&
    (p.killed || (queuesEmpty s plan && drawIdle s plan))

/-- An advance of a completion counter (R427). -/
def advanceCounter (s : State) (c n : Nat) : State :=
  setCounter s c (BitVec.ofNat 64 (Nat.min (2 ^ 64 - 1) ((counterAt s c).toNat + n)))

/-- PLAN_COMPLETE (R37, R427): plan a is complete, and its counter is advanced when SIGEN asks for it; a plan that was ended
never advances it (R309). -/
def execPlanComplete (s : State) : Out :=
  let pl := s.sched.arg.a
  let p := s.plan pl
  if !planComplete s pl then .next s
  else
    let s1 := s.modPlan pl fun p => { p with done := true, noSlot := [], assign := [], owed := [] }
    let s2 : State := { s1 with
      work := { s1.work with notes := s1.work.notes.filter fun n => (s1.launch n.launch).plan != pl }
      draw := { s1.draw with
        bcasts := s1.draw.bcasts.filter fun b => b.plan != pl
        cursors := s1.draw.cursors.filter fun c => c.plan != pl
        closed := s1.draw.closed.filter fun c => c.1 != pl
        ended := s1.draw.ended.filter (· != pl) } }
    .next (if p.sigen && !p.killed then
        logEvent (advanceCounter s2 p.signal 1) 0x0200 0x0002 p.ctx (BitVec.ofNat 64 p.addr) (BitVec.ofNat 64 p.signal)
      else s2)

end Completion

end Sys2Proof.Machine
end

