-- ==== Sys2Proof/Machine/Port.lean ====
section
/-! DEFINITION. The Ethernet port and its transport: inbound RDMA and SENDs (R202, R422, R423), the answers of peers to copies
(R201, R426), lossless operation (R424), Neighbour Discovery (R421), and the end of a directory transition (R178). -/

namespace Sys2Proof.Machine

/-- Something leaves the port. -/
def send (s : State) (x : Sent) : State := s.modHost fun h => { h with outbox := h.outbox ++ [x] }

/-- A frame or request is dropped and counted (R421, R425, R427). -/
def dropFrame (s : State) : State := s.modCore 0 fun k => { k with hubport := countUp k.hubport 1 }

/-- Outcomes of an inbound request: done, NAK remote access error, NAK invalid request, RNR NAK (R422). -/
def answerDone : Nat := 0
def nakAccess : Nat := 1
def nakInvalid : Nat := 2
def nakNotReady : Nat := 3

section Inbound

/-- The inbound region that an R_key selects (R425). -/
def regionOf (s : State) (key : BitVec 32) : Option Region :=
  (s.host.regions.map Prod.snd).find? fun r => r.key == key

/-- A queue pair that is READY. -/
def readyQp (s : State) (qpn : Nat) : Option Qp :=
  match alookup s.host.qps qpn with
  | some q => if q.st == 1 then some q else none
  | none => none

/-- The region that an inbound RDMA access of n bytes lies in, if it is permitted there (R422), or the NAK. -/
def rdmaRegion (s : State) (r : RdmaReq) (n : Nat) (write : Bool) : Except Nat Region :=
  match readyQp s r.qpn, regionOf s r.rkey with
  | none, _ => .error nakInvalid
  | some _, none => .error nakAccess
  | some _, some g =>
    let va := r.va.toNat
    if va < g.base || decide (g.base + g.len < va + n) || !(if write then g.wr else g.rd) then .error nakAccess else .ok g

/-- Judges an inbound RDMA access (R422): its context and pieces, or the NAK; with the state after the walks. -/
def judgeRdma (s : State) (r : RdmaReq) (n : Nat) (write : Bool) : Except Nat (Nat × List (Nat × Nat × Nat)) × State :=
  match rdmaRegion s r n write with
  | .error nak => (.error nak, s)
  | .ok g =>
    match pieces s g.ctx r.va.toNat n write (pageCount n) with
    | (some l, s1) => (.ok (g.ctx, l), s1)
    | (none, s1) => (.error nakAccess, s1)

/-- Reads one piece at home (R202). -/
def inboundRead (ctx : Nat) (s : State) (p : Nat × Nat × Nat) : State := homeAccess s p.1 p.2.1 ctx p.2.2 false

/-- Writes the pieces at home (R202). -/
def inboundWrite (ctx : Nat) (s : State) : List (Nat × Nat × Nat) → List Byte → State
  | [], _ => s
  | (pa, n, cp) :: r, bs => inboundWrite ctx (homePut s pa ctx cp (bs.take n)) r (bs.drop n)

/-- An inbound request is performed, which the safe state does not do (R429). -/
def inboundOk (s : State) : Bool := s.host.mode == .running

/-- An RDMA READ is performed and answered (R422, R202). -/
def rdmaRead (s : State) (r : RdmaReq) : State :=
  match judgeRdma s r r.len false with
  | (.error nak, s0) => send s0 (.rdma r.qpn nak [])
  | (.ok (ctx, l), s0) =>
    let s1 := l.foldl (inboundRead ctx) s0
    send s1 (.rdma r.qpn answerDone (l.flatMap fun p => readPa s1 p.1 p.2.1))

/-- An RDMA WRITE is performed and answered (R422, R202). -/
def rdmaWrite (s : State) (r : RdmaReq) : State :=
  match judgeRdma s r r.data.length true with
  | (.error nak, s0) => send s0 (.rdma r.qpn nak [])
  | (.ok (ctx, l), s0) => send (inboundWrite ctx s0 l r.data) (.rdma r.qpn answerDone [])

/-- The plans of a context with a stage whose queue is an inbound queue, in which a record placed now comes after the stages
below it were complete (R423). -/
def noteLate (s : State) (ctx addr rec : Nat) : State :=
  { s with work := { s.work with plans := s.work.plans.map fun (i, p) =>
      (i,
        if p.ctx == ctx && p.parsed && !p.done && !p.draw then
          { p with late := p.late ++ ((List.range p.stages.length).filter fun j =>
              stageQueue p (j + 1) == addr && completeUpTo s i j).map fun j => (j + 1, rec) }
        else p) } }

/-- A record comes to the queue that a queue pair names (R422, R423): the state after it, or the NAK. -/
def placeSend (s : State) (qpn : Nat) (bs : List Byte) : Except Nat State :=
  match readyQp s qpn with
  | none => .error nakInvalid
  | some q =>
    if q.rq == 0 || q.rq % 32 != 0 then .error nakInvalid
    else
      match queueAt s q.ctx q.rq with
      | none => .error nakInvalid
      | some o =>
        let ok (va n : Nat) : Bool := (pieces s q.ctx va n true (pageCount n)).1.isSome
        if o.size < bs.length then .error nakInvalid
        else if !(ok o.addr 32 && ok (o.slotAddr o.wr) bs.length && ok (o.bitAddr o.wr) 1) then .error nakInvalid
        else
          match pushRecord s q.ctx o bs with
          | none => .error nakNotReady
          | some s1 => .ok (noteLate s1 q.ctx q.rq o.wr)

/-- A SEND of bytes is placed and answered (R422). -/
def placeRecord (s : State) (qpn : Nat) (bs : List Byte) : State :=
  match placeSend s qpn bs with
  | .ok s1 => send s1 (.rdma qpn answerDone [])
  | .error nak => send s (.rdma qpn nak [])

/-- The bytes of an immediate value, as the first 4 bytes of a record (R422, R7). -/
def immediate (v : DWord) : List Byte := leBytes 4 v.toNat

/-- An RDMA WRITE with an immediate value (R422): the write, and the value as a record of the inbound queue. A request whose
record cannot be placed performs no byte of its write. -/
def rdmaWriteImm (s : State) (r : RdmaReq) (v : DWord) : State :=
  match judgeRdma s r r.data.length true with
  | (.error nak, s0) => send s0 (.rdma r.qpn nak [])
  | (.ok (ctx, l), s0) =>
    match placeSend s0 r.qpn (immediate v) with
    | .error nak => send s0 (.rdma r.qpn nak [])
    | .ok _ =>
      match placeSend (inboundWrite ctx s0 l r.data) r.qpn (immediate v) with
      | .ok s1 => send s1 (.rdma r.qpn answerDone [])
      | .error nak => send s0 (.rdma r.qpn nak [])

/-- The kinds of inbound requests. -/
def inRead : Nat := 0
def inWrite : Nat := 1
def inSend : Nat := 2
def inSendImm : Nat := 3
def inWriteImm : Nat := 4

/-- The queue pair on which an inbound request comes. -/
def inboundQp (kind : Nat) (a : EvArg) : Nat := if kind == inSend || kind == inSendImm then a.a else a.rdma.qpn

/-- An inbound request is performed. -/
def performInbound (s : State) (kind : Nat) (a : EvArg) : State :=
  if !inboundOk s then s
  else if kind == inRead then rdmaRead s a.rdma
  else if kind == inWrite then rdmaWrite s a.rdma
  else if kind == inSend then placeRecord s a.a a.data
  else if kind == inSendImm then placeRecord s a.a (immediate a.value ++ a.data)
  else rdmaWriteImm s a.rdma a.value

/-- The ranges of physical bytes that the placing of a record on a queue pair accesses. -/
def sendSpans (s : State) (qpn : Nat) : List (Nat × Nat) :=
  match (readyQp s qpn).bind fun q => (queueAt s q.ctx q.rq).map fun o => (q.ctx, o) with
  | some (ctx, o) => rangeSpans s ctx (queueRanges o [o.wr])
  | none => []

/-- The ranges of physical bytes that an inbound request accesses, its walks among them. -/
def inboundSpans (s : State) (kind : Nat) (a : EvArg) : List (Nat × Nat) :=
  let write := kind != inRead
  let n := if write then a.rdma.data.length else a.rdma.len
  let rdma : List (Nat × Nat) := match rdmaRegion s a.rdma n write with
    | .ok g => rangeSpans s g.ctx [(a.rdma.va.toNat, n)]
    | .error _ => []
  if kind == inRead || kind == inWrite then rdma
  else if kind == inWriteImm then rdma ++ sendSpans s a.rdma.qpn
  else sendSpans s a.a

/-- An inbound request that waits is served when no transition, no request that came before and no sleeping power domain is in its
way; those of one queue pair in order (R171, R178, R202). -/
def serveInbound (s : State) (x : Nat × Nat × EvArg) : State :=
  let (id, kind, a) := x
  let qp := inboundQp kind a
  let before := (s.host.inbox.takeWhile fun y => y.1 != id).any fun y => inboundQp y.2.1 y.2.2 == qp
  if before then s
  else
    match takeTurn s (.req id) (inboundSpans s kind a) with
    | (false, s1) => s1
    | (true, s1) => performInbound (s1.modHost fun h => { h with inbox := h.inbox.filter fun y => y.1 != id }) kind a

/-- Serves the inbound requests whose turn has come, in order of arrival. -/
def serveInbox (s : State) : State := s.host.inbox.foldl serveInbound s

/-- An inbound request arrives (R202). -/
def arriveInbound (s : State) (kind : Nat) : State :=
  let a := s.sched.arg
  if !inboundOk s then s
  else
    let (id, s1) := s.newId
    let s2 := s1.modHost fun h => { h with inbox := h.inbox ++ [(id, kind, a)] }
    serveInbound (enqueueAt s2 id (spanSegs (inboundSpans s kind a))) (id, kind, a)

/-- INBOUND_RDMA_READ (R422, R202). -/
def execInboundRdmaRead (s : State) : Out := .next (arriveInbound s inRead)

/-- INBOUND_RDMA_WRITE (R422, R202). -/
def execInboundRdmaWrite (s : State) : Out := .next (arriveInbound s inWrite)

/-- INBOUND_SEND (R422). -/
def execInboundSend (s : State) : Out := .next (arriveInbound s inSend)

/-- SEND_WITH_IMMEDIATE (R422). -/
def execSendWithImmediate (s : State) : Out := .next (arriveInbound s inSendImm)

/-- RDMA_WRITE_WITH_IMMEDIATE (R422). -/
def execRdmaWriteWithImmediate (s : State) : Out := .next (arriveInbound s inWriteImm)

/-- UNSUPPORTED_REQUEST (R422). -/
def execUnsupportedRequest (s : State) : Out := .next (send s (.rdma s.sched.arg.a nakInvalid []))

end Inbound

section Peers

/-- The copies that await an answer on a queue pair. -/
def awaiting (s : State) (qpn : Nat) : List Copy :=
  s.mem.copies.filter fun c => match c.await with
    | some w => w.qpn == qpn
    | none => false

/-- A request is under way on a queue pair, also one whose copy has been given up: what is sent is not withdrawn (R426). -/
def inFlight (s : State) (qpn : Nat) : Bool := s.host.flights.any fun x => x.1 == qpn

/-- Changes a queue pair. -/
def modQp (s : State) (qpn : Nat) (f : Qp → Qp) : State := s.modHost fun h => { h with qps := amodify h.qps qpn f }

/-- REMOTE_RESPONSE (R201, R426): the answer to the oldest request of copy a, with the bytes of a read. The answer to a request that
the copy no longer waits for brings nothing. -/
def execRemoteResponse (s : State) : Out :=
  match s.host.flights.find? fun x => x.2.1 == s.sched.arg.a with
  | none => .next s
  | some f =>
    let s1 := modQp (s.modHost fun h => { h with flights := h.flights.filter fun x => x.2.2 != f.2.2 }) f.1 fun x => { x with retries := 0 }
    match s.mem.copies.find? fun c => c.id == s.sched.arg.a with
    | none => .next s1
    | some c =>
      match c.await with
      | some w =>
        .next (if w.req != f.2.2 then s1
          else if w.write || s.sched.arg.data.length == w.n then copyAnswer s1 c s.sched.arg.data else s)
      | none => .next s1

/-- Every request under way on a queue pair fails, and it enters ERROR (R426). -/
def failQp (s : State) (qpn : Nat) (syndrome : Option Nat) : State :=
  if inFlight s qpn then
    let s1 := qpError s qpn syndrome
    (awaiting s qpn).foldl (fun s c => copyRefused s c syndrome)
      (s1.modHost fun h => { h with flights := h.flights.filter fun x => x.1 != qpn })
  else s

/-- PEER_NAK (R426): a NAK with its syndrome for the request under way. -/
def execPeerNak (s : State) : Out := .next (failQp s s.sched.arg.a (some s.sched.arg.b))

/-- TRANSPORT_RETRY (R422): a request that is not acknowledged is sent again, at most 7 times, unless its priority is paused
(R424). -/
def execTransportRetry (s : State) : Out :=
  let q := s.sched.arg.a
  match alookup s.host.qps q with
  | none => .next s
  | some x =>
    .next (if inFlight s q && decide (x.retries < 7) && (alookup s.host.pauses x.prio).isNone then
        send (modQp s q fun y => { y with retries := y.retries + 1 }) (.retry q)
      else s)

/-- RETRY_EXHAUSTED (R422): the seven retries have run out. -/
def execRetryExhausted (s : State) : Out :=
  let q := s.sched.arg.a
  match alookup s.host.qps q with
  | none => .next s
  | some x => .next (if 7 ≤ x.retries then failQp s q none else s)

end Peers

section Lossless

/-- PFC_PAUSE (R424): sending halts on priority a for b quanta; a pause of none ends it. -/
def execPfcPause (s : State) : Out :=
  let p := s.sched.arg.a % 8
  let n := s.sched.arg.b
  .next (s.modHost fun h => { h with pauses := if n == 0 then aerase h.pauses p else ainsert h.pauses p n })

/-- PFC_PAUSE_EXPIRY (R424). -/
def execPfcPauseExpiry (s : State) : Out :=
  .next (s.modHost fun h => { h with pauses := aerase h.pauses (s.sched.arg.a % 8) })

/-- CNP_RECEIVED (R424): the rate is halved, to no less than 1/256 of line rate. -/
def execCnpReceived (s : State) : Out :=
  .next (modQp s s.sched.arg.a fun q => { q with rate := Nat.max 1 (q.rate / 2), cnp := s.sched.clk })

/-- Cycles of 50 µs (R5, R424). -/
def rateWindow : Nat := 87500

/-- RATE_INCREASE (R424): 50 µs without a notification raise the rate by 1/64 of line rate, up to line rate. -/
def execRateIncrease (s : State) : Out :=
  .next (modQp s s.sched.arg.a fun q =>
    if q.cnp + rateWindow ≤ s.sched.clk then { q with rate := Nat.min 256 (q.rate + 4), cnp := s.sched.clk } else q)

/-- LINK (R432). -/
def execLink (s : State) : Out :=
  let up := s.sched.arg.ok
  .next (if s.host.link == up then s
    else logEvent (s.modHost fun h => { h with link := up }) 0x0203 0x0060 0 (BitVec.ofNat 64 up.toNat) 0)

/-- DROPPED_FRAME (R421). -/
def execDroppedFrame (s : State) : Out := .next (dropFrame s)

end Lossless

section Discovery

/-- The link-local address derived from the fused MAC address (R421), as a modified EUI-64 (log entry 34). -/
def linkLocal : BitVec 128 :=
  let m := Config.macAddress.toNat
  let hi := (m / 2 ^ 24) ^^^ 0x020000
  BitVec.ofNat 128 (0xFE80 * 2 ^ 112 + hi * 2 ^ 40 + 0xFFFE * 2 ^ 24 + m % 2 ^ 24)

/-- NEIGHBOUR_DISCOVERY (R421): an address of the hub is advertised to the one who asks. -/
def execNeighbourDiscovery (s : State) : Out :=
  let t := s.sched.arg.addr0
  .next (if t == linkLocal || s.host.addrs.any (fun x => x.2 == t) then send s (.advert t s.sched.arg.addr1) else s)

end Discovery

/-- TRANSITION_END (R178): segment a leaves TRN, and what waits for it is served in arrival order: the hub's own acts and the inbound
requests here, words, copies and the rest as they are tried again. -/
def execTransitionEnd (s : State) : Out :=
  let n := s.sched.arg.a
  .next (if (segAt s n).trn then serveInbox (serveActs (setSeg s n { segAt s n with trn := false })) else s)

end Sys2Proof.Machine
end

