-- ==== Sys2Proof/Machine/Requests.lean ====
section
/-! DEFINITION. Control messages (R425): their acceptance, the replies, and what each request does (R31, R427, R430); the reset
that MGMT asks for, the loss of the supply (R429) and the boot (R428). -/

namespace Sys2Proof.Machine

section Messages

/-- The customisation string "Q2CM". -/
def customisation : List Byte := [0x51, 0x32, 0x43, 0x4D]

/-- The bytes of a control message with TAG given (R425). -/
def messageBytes (ver type : Nat) (seq : BitVec 32) (rsv0 ctx status frag nfm1 rsv1 : Nat) (tag body : List Byte) : List Byte :=
  leBytes 4 (ver * 2 ^ 24 + type * 2 ^ 16 + body.length) ++ leBytes 4 seq.toNat ++
  leBytes 4 (rsv0 * 2 ^ 28 + ctx * 2 ^ 24 + status * 2 ^ 16 + frag * 2 ^ 8 + nfm1) ++ leBytes 4 rsv1 ++ tag ++ body

/-- The tag of a message under a key (R425). -/
def tagOf (key : List Byte) (type : Nat) (m : CtlMsg) : List Byte :=
  kmac256 key (messageBytes m.ver.toNat type m.seq m.rsv0.toNat m.ctx.toNat m.status.toNat m.frag.toNat m.nfm1.toNat
    m.rsv1.toNat (List.replicate 32 0) m.body) customisation

/-- A context's control key (R425): context 0 holds the provisioned one unless KEYSET has set or removed it. -/
def controlKey (s : State) (ctx : Nat) : Option (List Byte) :=
  match alookup s.host.keys ctx with
  | some k => some k
  | none => if ctx == 0 && !s.host.key0removed then some s.host.provKey else none

/-- The key under which a request is accepted; none when it is dropped (R425). -/
def acceptKey (s : State) (type : Nat) (m : CtlMsg) : Option (List Byte) :=
  if m.ver != 1 || decide (4000 < m.body.length) || m.rsv0 != 0 || m.rsv1 != 0 then none
  else
    match controlKey s m.ctx.toNat with
    | none => none
    | some k => if tagOf k type m == leBytes 32 m.tag.toNat then some k else none

/-- A body in parts of at most 4,000 bytes, one part at least. -/
def bodyParts (body : List Byte) : Nat → List (List Byte)
  | 0 => [body]
  | fuel + 1 => if body.length ≤ 4000 then [body] else body.take 4000 :: bodyParts (body.drop 4000) fuel

/-- The datagrams of a reply (R425). -/
def replyDatagrams (key : List Byte) (type : Nat) (m : CtlMsg) (status : Nat) (body : List Byte) : List (List Byte) :=
  let parts := bodyParts body 256
  parts.zipIdx.map fun (b, i) =>
    let bytes (tag : List Byte) : List Byte := messageBytes 1 (type + 0x80) m.seq 0 m.ctx.toNat status i (parts.length - 1) 0 tag b
    bytes (kmac256 key (bytes (List.replicate 32 0)) customisation)

/-- The stored reply to a request that repeats an earlier one (R425). -/
def storedReply (s : State) (m : CtlMsg) : Option (List (List Byte)) :=
  (s.host.replay.find? fun r => r.1 == m.ctx.toNat && r.2.1 == m.src && r.2.2.1 == m.seq).map fun r => r.2.2.2

/-- Sends datagrams to a requester. -/
def sendAll (s : State) (m : CtlMsg) (ds : List (List Byte)) : State := ds.foldl (fun s d => send s (.control m.src d)) s

/-- Keeps a reply with the last 1,024 requests of its context. -/
def keepReply (s : State) (m : CtlMsg) (ds : List (List Byte)) : State :=
  let c := m.ctx.toNat
  let mine := s.host.replay.filter fun r => r.1 == c
  let rest := s.host.replay.filter fun r => r.1 != c
  s.modHost fun h => { h with replay := ((c, m.src, m.seq, ds) :: mine).take 1024 ++ rest }

/-- The answer to a request: status, body and the state after it. -/
structure Answer where
  status : Nat
  body : List Byte
  after : State

/-- A request of a TYPE is served in the safe state (R429): STATUS, EVENTS, ATTEST and MGMT RESET. -/
def servedSafe (type : Nat) (m : CtlMsg) : Bool :=
  type == 3 || type == 4 || type == 5 || (type == 6 && dwordAt m.body 0 % 256 == 7)

/-- A control message of a TYPE arrives (R425): dropped, answered again, or performed and answered. While the module boots
only STATUS is taken up (log entry 36). -/
def request (s : State) (type : Nat) (f : State → CtlMsg → Answer) : Out :=
  let m := s.sched.arg.msg
  .next <|
    match acceptKey s type m with
    | none => dropFrame s
    | some key =>
      if s.host.mode == .booting && type != 3 then s
      else
        match storedReply s m with
        | some ds => sendAll s m ds
        | none =>
          let r : Answer := if s.host.mode == .safe && !servedSafe type m then ⟨0x02, [], s⟩ else f s m
          let ds := replyDatagrams key type m r.status r.body
          keepReply (sendAll r.after m ds) m ds

/-- A management request of a subtype (R425): from context 0 only; one that names another subtype is not this event's. -/
def manage (s : State) (sub : Nat) (f : State → CtlMsg → Answer) : Out :=
  let n := dwordAt s.sched.arg.msg.body 0 % 256
  if n != sub && decide (1 ≤ n) && decide (n ≤ 7) then .next s
  else
    request s 6 fun s m => if m.ctx != 0 then ⟨0x08, [], s⟩ else if n != sub then ⟨0x07, [], s⟩ else f s m

end Messages

section Requests

/-- What a LAUNCH does once the plan's first word may be read (R31, R425). -/
def launchAnswer (s : State) (m : CtlMsg) : Answer :=
  let va := dwordAt m.body 0
  if !(ctxOf s m.ctx.toNat).xlen then ⟨0x03, [], s⟩
  else if va % 256 != 0 || decide (2 ^ 52 ≤ va) then ⟨0x04, [], s⟩
  else
    let (st, s1) := submitPlan s m.ctx.toNat va
    ⟨st, [], s1⟩

/-- A LAUNCH that is accepted, new and not refused reads the plan's first word. -/
def launchReads (s : State) (m : CtlMsg) : Bool :=
  (acceptKey s 1 m).isSome && (storedReply s m).isNone && s.host.mode == .running && (ctxOf s m.ctx.toNat).xlen &&
    dwordAt m.body 0 % 256 == 0 && decide (dwordAt m.body 0 < 2 ^ 52)

/-- A message repeats a LAUNCH that waits. -/
def launchWaits (s : State) (m : CtlMsg) : Bool :=
  s.host.launches.any fun x => x.2.msg.ctx == m.ctx && x.2.msg.src == m.src && x.2.msg.seq == m.seq

/-- A LAUNCH's turn to read its plan's first word (R171, R178). -/
def admitLaunch (s : State) (id : Nat) (m : CtlMsg) : Bool × State :=
  if launchReads s m then admitRanges s (.req id) m.ctx.toNat [(dwordAt m.body 0, 8)] else (true, s)

/-- LAUNCH (R31, R425): it waits, unanswered, where the plan's first word cannot be read yet. -/
def execLaunch (s : State) : Out :=
  let m := s.sched.arg.msg
  if (admitLaunch s s.sched.next m).1 then request s 1 launchAnswer
  else if launchWaits s m then .next s
  else
    let (id, s1) := s.newId
    .next ((admitLaunch s1 id m).2.modHost fun h => { h with launches := h.launches ++ [(id, s.sched.arg)] })

/-- A LAUNCH that waits is performed when its turn has come. -/
def serveLaunch (s : State) (x : Nat × EvArg) : State :=
  match admitLaunch s x.1 x.2.msg with
  | (false, s1) => s1
  | (true, s1) =>
    let s2 := (dequeueAt s1 x.1).modHost fun h => { h with launches := h.launches.filter fun y => y.1 != x.1 }
    match request (s2.modSched fun y => { y with arg := x.2 }) 1 launchAnswer with
    | .next s3 => s3
    | _ => s2

/-- What waited at the directory or for a bank has its turn: what the hub has to do, inbound requests, LAUNCHes (R171, R178). -/
def serveWaiting (s : State) : State :=
  let s1 := serveInbox (serveActs s)
  s1.host.launches.foldl serveLaunch s1

/-- COUNTER (R427, R425). -/
def execCounter (s : State) : Out :=
  request s 2 fun s m =>
    let op := dwordAt m.body 0
    let c := dwordAt m.body 8
    if decide (1 < op) || decide (4096 ≤ c) then ⟨0x05, [], s⟩
    else
      let s1 := if op == 1 then advanceCounter s c (dwordAt m.body 16) else s
      ⟨0x00, leBytes 8 (counterAt s1 c).toNat, s1⟩

/-- The state code of STATUS. -/
def modeCode : Mode → Nat
  | .booting => 0
  | .running => 1
  | .safe => 2

/-- STATUS (R425, R428). -/
def execStatus (s : State) : Out :=
  request s 3 fun s _ =>
    let fenced := (List.range 256).foldl (fun n i => if (s.core i).fenced then n + 2 ^ i else n) 0
    ⟨0x00, leBytes 8 (modeCode s.host.mode) ++ leBytes 8 s.host.selftest.toNat ++ leBytes 32 fenced ++ leBytes 8 s.host.svn, s⟩

/-- The bytes of event records (R432). -/
def eventBytes (l : List EventRec) : List Byte := l.flatMap fun e => e.dwords.flatMap fun d => leBytes 8 d.toNat

/-- EVENTS (R425, R432). -/
def execEvents (s : State) : Out :=
  request s 4 fun s m =>
    let n := dwordAt m.body 0 % 256
    if n == 0 || decide (32 < n) then ⟨0x0A, [], s⟩
    else if s.host.evq.isEmpty then ⟨0x06, [], s⟩
    else ⟨0x00, eventBytes (s.host.evq.take n), s.modHost fun h => { h with evq := h.evq.drop n }⟩

/-- The module's identity key pair, from its fused seed (R430). -/
def identityKey : DsaKey := dsaKeyGen (leBytes 32 Config.fusedSeed.toNat)

/-- The body of an ATTEST reply for a nonce (R430); the random value of a signature is open (log entry 72). -/
def attestation (s : State) (nonce : List Byte) : List Byte :=
  let id := sha3_512 identityKey.pk
  let i := leBytes 8 s.host.digests.length
  id ++ identityKey.pk ++ i ++ s.host.chain ++ s.host.digests.flatten ++
    dsaSign identityKey (leBytes 32 (Config.signRandom s.host.outbox.length).toNat) (sha3_512 (nonce ++ id ++ i ++ s.host.chain))

/-- ATTEST (R430, R425). -/
def execAttest (s : State) : Out := request s 5 fun s m => ⟨0x00, attestation s (m.body.take 32), s⟩

/-- MGMT_CFGRD (R425, R312). -/
def execMgmtCfgrd (s : State) : Out :=
  manage s 1 fun s m =>
    match cfgRead s hubWho (dwordAt m.body 8) with
    | some v => ⟨0x00, leBytes 8 v.toNat, s⟩
    | none => ⟨0x07, [], s⟩

/-- MGMT_CFGWR (R425, R312). -/
def execMgmtCfgwr (s : State) : Out :=
  manage s 2 fun s m =>
    match cfgWrite s hubWho (dwordAt m.body 8) (dwordAt m.body 16) with
    | some s1 => ⟨0x00, [], s1⟩
    | none => ⟨0x07, [], s⟩

/-- A QP record's write (R425); none where it is refused. -/
def writeQp (s : State) (b : List Byte) : Option State :=
  let w (i : Nat) : Nat := dwordAt b (8 * i)
  let n := nfld (w 0) 11 0
  let ctx := nfld (w 0) 23 20
  let st := nfld (w 0) 15 12
  let clash := match readyQp s n with
    | some q => q.ctx != ctx
    | none => false
  if nfld (w 0) 63 48 != 0 || nfld (w 0) 19 19 != 0 || decide (2 < st) || nfld (w 1) 63 32 != 0 || nfld (w 5) 63 52 != 0 || clash
  then none
  else
    let old := alookup s.host.qps n
    let q : Qp :=
      { qpn := n, peer := nfld (w 0) 47 24, ctx := ctx, prio := nfld (w 0) 18 16, st := st, rkey := BitVec.ofNat 32 (w 1),
        rbase := BitVec.ofNat 64 (w 2), paddr := BitVec.ofNat 128 (w 3 + w 4 * 2 ^ 64), rq := nfld (w 5) 51 0,
        rate := (old.map Qp.rate).getD 256, cnp := (old.map Qp.cnp).getD 0 }
    some (s.modHost fun h => { h with qps := ainsert h.qps n q })

/-- QPSET (R425). -/
def execQpset (s : State) : Out :=
  manage s 3 fun s m =>
    match writeQp s (m.body.drop 8) with
    | some s1 => ⟨0x00, [], s1⟩
    | none => ⟨0x07, [], s⟩

/-- A region record's write (R425); none where it is refused. -/
def writeRegion (s : State) (b : List Byte) : Option State :=
  let w (i : Nat) : Nat := dwordAt b (8 * i)
  let n := nfld (w 0) 47 38
  let wr := nfld (w 0) 37 37 == 1
  let rd := nfld (w 0) 36 36 == 1
  let key : BitVec 32 := BitVec.ofNat 32 (w 0)
  let clash := s.host.regions.any fun (i, r) => i != n && r.key == key
  if nfld (w 0) 63 48 != 0 || nfld (w 1) 63 52 != 0 || w 3 != 0 then none
  else if !wr && !rd then some (s.modHost fun h => { h with regions := aerase h.regions n })
  else if clash then none
  else some (s.modHost fun h => { h with regions := ainsert h.regions n ⟨n, wr, rd, nfld (w 0) 35 32, key, w 1, w 2⟩ })

/-- MRSET (R425). -/
def execMrset (s : State) : Out :=
  manage s 4 fun s m =>
    match writeRegion s (m.body.drop 8) with
    | some s1 => ⟨0x00, [], s1⟩
    | none => ⟨0x07, [], s⟩

/-- Sets or removes a context's control key (R425). -/
def setKey (s : State) (ctx : Nat) (key : List Byte) : State :=
  if key.all (· == 0) then
    s.modHost fun h => { h with keys := aerase h.keys ctx, key0removed := h.key0removed || ctx == 0 }
  else s.modHost fun h => { h with keys := ainsert h.keys ctx key }

/-- KEYSET (R425). -/
def execKeyset (s : State) : Out :=
  manage s 5 fun s m =>
    let ctx := dwordAt m.body 8
    if 16 ≤ ctx then ⟨0x07, [], s⟩ else ⟨0x00, [], setKey s ctx (leBytes 32 (leNat ((m.body.drop 16).take 32)))⟩

/-- ADDRSET (R425). -/
def execAddrset (s : State) : Out :=
  manage s 6 fun s m =>
    let i := dwordAt m.body 8
    let a : BitVec 128 := BitVec.ofNat 128 (leNat ((m.body.drop 16).take 16))
    if 4 ≤ i then ⟨0x07, [], s⟩
    else ⟨0x00, [], s.modHost fun h => { h with addrs := if a == 0 then aerase h.addrs i else ainsert h.addrs i a }⟩

end Requests

section Life

/-- The module after a reset or without supply: what the flash array holds stays, and what has left the port (log entries 1, 2
and 37); the model's own agenda and counters go on. -/
def afterReset (s : State) : State :=
  { State.reset with
    sched := { State.reset.sched with agenda := s.sched.agenda, fresh := s.sched.fresh, next := s.sched.next }
    mem := { State.reset.mem with flash := s.mem.flash }
    host := { State.reset.host with
      fwA := s.host.fwA, fwB := s.host.fwB, provKey := s.host.provKey, outbox := s.host.outbox } }

/-- MGMT_RESET (R425): the module is reset after the reply is sent. -/
def execMgmtReset (s : State) : Out :=
  let n := s.host.outbox.length
  let served (t : State) : Bool :=
    dwordAt s.sched.arg.msg.body 0 % 256 == 7 && s.sched.arg.msg.ctx == 0 && (storedReply s s.sched.arg.msg).isNone &&
    decide (n < t.host.outbox.length)
  match manage s 7 fun s _ => ⟨0x00, [], s⟩ with
  | .next t => .next (if served t then afterReset t else t)
  | o => o

/-- POWER_DOWN (R429). -/
def execPowerDown (s : State) : Out := .next (afterReset s)

/-- A firmware slot verifies (R428, step 2). -/
def slotOk (f : Firmware) : Bool :=
  sha3_512 f.key == Config.vendorKeyDigest && dsaVerify f.key (sha3_512 f.image) f.sig && decide (Config.minSvn ≤ f.svn)

/-- The slot that the boot ROM accepts: the higher version, and slot A on equal ones (R428). -/
def chosenSlot (s : State) : Option Firmware :=
  match s.host.fwA.filter slotOk, s.host.fwB.filter slotOk with
  | some a, some b => if a.svn < b.svn then some b else some a
  | some a, none => some a
  | none, b => b

/-- The words of an image's bytes. -/
def imageWords (bs : List Byte) : List Word := (List.range (bs.length / 4)).map fun i => BitVec.ofNat 32 (wordAt bs (4 * i))

/-- A proctor starts in an image, as a cohort of one thread in proctor mode, at an entry (R306, R428, log entry 38). -/
def startProctor (image : List Byte) (digest : List Byte) (entry : Nat) (s : State) (unit : Nat) : State :=
  let n := s.sched.next
  let ws := imageWords image
  let p : Plan := { Plan.nil with parsed := true, left := true, done := true, levels := [⟨1, 1, 1⟩] }
  let l : Launch := { plan := n, stage := 0, levels := [⟨1, 1, 1⟩], teamlv := 0, total := 1, teamSize := 1, nextTeam := 1 }
  let tm : Team := { launch := n + 1, num := 0, units := [unit], windows := [], threads := [n + 3] }
  let th : Thread := { Thread.nil with launch := n + 1, team := n + 2, lcoh := n + 4, unit := unit, place := .cohort (n + 5) }
  let lc : LaunchCohort := { team := n + 2, unit := unit, part := 0, threads := [n + 3] }
  let co : Cohort := { unit := unit, part := 0, ctx := 0, launch := n + 1, stamp := 0,
                       pc := BitVec.ofNat 32 ((ws.getD (8 + entry) 0).toNat % 65536), active := [n + 3], priv := true }
  let im : Image := { id := n + 6, share := false, len := image.length, digest := digest.take 16, words := ws,
                      views := [⟨0, 0, 0⟩] }
  { s with
    sched := { s.sched with next := n + 7 }
    work := { s.work with
      plans := ainsert s.work.plans n p
      launches := ainsert s.work.launches (n + 1) l
      teams := ainsert s.work.teams (n + 2) tm
      threads := ainsert s.work.threads (n + 3) th
      lcohs := ainsert s.work.lcohs (n + 4) lc
      cohorts := ainsert s.work.cohorts (n + 5) co }
    cores := ainsert s.cores unit { s.core unit with images := [im] } }

/-- The hub proctor starts in an image (R428, step 3), at entry 0. -/
def startHub (s : State) (image digest : List Byte) : State := startProctor image digest 0 s hubUnit

/-- The 32 cluster proctors (R3) start in the image at entry 1, when it has one (log entry 38). -/
def startClusters (s : State) (image digest : List Byte) : State :=
  if wordAt image 4 / 65536 < 2 then s
  else ((List.range 32).map (256 + ·)).foldl (startProctor image digest 1) s

/-- BOOT (R428): the boot ROM's steps, with the self-test bitmap in `value`; as the device begins to run, the cluster proctors
start too. -/
def execBoot (s : State) : Out :=
  .next <|
    if s.host.mode != .booting then s
    else
      match chosenSlot s with
      | none => enterSafe s
      | some f =>
        let d := sha3_512 f.image
        let test := s.sched.arg.value &&& 0x1F
        let s1 := startHub (s.modHost fun h => { h with
          image := f.image, svn := f.svn, digests := [d], chain := sha3_512 (List.replicate 64 0 ++ d), selftest := test }) f.image d
        if test == 0 then (startClusters s1 f.image d).modHost fun h => { h with mode := .running } else enterSafe s1

end Life

end Sys2Proof.Machine
end

