-- ==== Sys2Proof/Machine/Auto.lean ====
section
/-! DEFINITION. The events that the machine may perform by itself when the agenda is empty (log entry 1): those of its own
agents. Which of them happens next, and whether one happens before the next word issues, is open (log entry 2). -/

namespace Sys2Proof.Machine

/-- An event with the data that most events have. -/
def event (i : Instr) (a : Nat := 0) (b : Nat := 0) (c : Nat := 0) : Instr × EvArg := (i, { a := a, b := b, c := c })

/-- An event of a tile. -/
def tileEvent (i : Instr) (k : TileKey) (a : Nat := 0) (ok : Bool := false) : Instr × EvArg := (i, { tile := k, a := a, ok := ok })

/-- Events of a cohort. -/
def cohortEvents (s : State) (x : Nat × Cohort) : List (Instr × EvArg) :=
  let (id, c) := x
  let g (b : Bool) (l : List (Instr × EvArg)) : List (Instr × EvArg) := if b then l else []
  let results := c.writes.filter Pend.var ++ c.members.flatMap fun t => (s.thread t).writes.filter Pend.var
  (results.filter fun p => !p.held && decide (p.due ≤ s.sched.clk)).map (fun p => event .variableLatencyResult id p.id) ++
  g (decide (256 ≤ c.issued) && !c.capMark) [event .issueCap id] ++
  (match c.wait with
    | .clock t _ => g (decide (t ≤ s.sched.clk)) [event .waitExpiry id]
    | .barrier .. => [event .waitAgeFiling id]
    | .stall (.tag ..) _ => [event .waitAgeFiling id]
    | .stall (.passback ..) _ => [event .passbackPublished id]
    | _ => []) ++
  (match c.cloak with
    | .cloaking .. => [event .cloakDone id]
    | .recalling _ => [event .recallDone id]
    | _ => []) ++
  g (c.wait != .none) [event .longWaitCloak id] ++
  (match c.leave with
    | .since _ => [event .safePointStop id, event .safelimExpiry id]
    | _ => [])

/-- The partitions of a core. -/
def partEvents (i : Instr) (u : Nat) : List (Instr × EvArg) := (List.range 4).map fun p => event i u p

/-- Events of a core. -/
def coreEvents (s : State) (x : Nat × Core) : List (Instr × EvArg) :=
  let (u, k) := x
  let g (b : Bool) (l : List (Instr × EvArg)) : List (Instr × EvArg) := if b then l else []
  (k.loads.filter fun l => l.follows.isNone).map (fun l => event .overlayLoadComplete u l.id) ++
  k.bins.flatMap (fun (n, _) => [event .binAging u n, event .binUncloak u n]) ++
  g (binsInUse s u) (partEvents .cohortFormation u) ++
  g (s.work.cohorts.any fun (_, c) => c.unit == u && c.wait != .none) (partEvents .cloak u) ++
  g (s.work.cohorts.any fun (_, c) => c.unit == u && c.cloak != .no) (partEvents .recall u) ++
  g (!k.mx.queue.isEmpty) (event .matrixCommandStart u :: k.mx.queue.map fun c => event .matrixCommandComplete u c.id) ++
  g (!k.closed.isEmpty) [event .rasteriseMeshlet u] ++
  g (!k.held.isEmpty) [event .faultRecordEnqueue u] ++
  g (k.conv != .none) [event .carveoutConversion u, event .conversionComplete u] ++
  k.access.flatMap (fun (l, _) => [event .retentionEntry u l, event .wakeComplete u l])

/-- Events of memory, the copy units and the port. -/
def memoryEvents (s : State) : List (Instr × EvArg) :=
  (s.mem.dir.filter fun x => x.2.trn).map (fun x => event .transitionEnd x.1) ++
  s.mem.copies.flatMap (fun c => if c.await.isSome then [] else if c.landed then [event .stagedCommandEntry c.id]
    else [event .copyComplete c.id]) ++
  s.mem.stages.map (fun q => event .stageComplete q.id) ++
  (s.mem.bells.filter fun b => !b.2.releasing.isEmpty).map (fun b => event .bellRelease b.1) ++
  (s.host.qps.filter fun q => decide (q.2.rate < 256)).map (fun q => event .rateIncrease q.1) ++
  s.host.pauses.map fun p => event .pfcPauseExpiry p.1

/-- The ordering tiles of the quads on their way. -/
def orderTiles (s : State) : List TileKey :=
  s.draw.quads.foldl (fun l q => if l.contains q.tile then l else l ++ [q.tile]) []

/-- Events of surfaces, bank units and the draw pipeline. -/
def surfaceEvents (s : State) : List (Instr × EvArg) :=
  s.surf.tiles.flatMap (fun t => match t.st with
    | .spilling => [tileEvent .spillComplete t.key 0 true]
    | .filling => [tileEvent .fillComplete t.key]
    | _ => if t.wants then [tileEvent .evictionRequest t.key] else []) ++
  s.surf.jobs.flatMap (fun j => [event .bankopJobStart j.id, event .rowStep j.id, event .promotion j.id]) ++
  (s.draw.quads.filter fun q => q.phase == 0).map (fun q => event .quadAdmission q.id) ++
  (orderTiles s).map (tileEvent .quadBlend) ++
  s.draw.bcasts.flatMap (fun b => (orderTiles s).map fun k => tileEvent .broadcastArrival k b.id) ++
  (distinct ((s.draw.quads.filter fun q => q.phase == 1).map Quad.unit)).flatMap fun u =>
    [event .pixelLaunch u, event .pixelLaunchAge u]

/-- Events of the dispatcher. -/
def dispatchEvents (s : State) : List (Instr × EvArg) :=
  let active := s.work.plans.filter fun (_, p) => !p.done
  let g (b : Bool) (l : List (Instr × EvArg)) : List (Instr × EvArg) := if b then l else []
  g (!active.isEmpty) [event .placementDecision] ++
  (itemOrder s).flatMap (fun it => match attempt s it with
    | .load us => us.map fun u => event .dispatcherPreload u it.plan (s.launch it.launch).stage
    | _ => []) ++
  active.flatMap (fun (i, p) =>
    (if planComplete s i then [event .planComplete i] else []) ++
    (List.range p.stages.length).flatMap fun j => [event .consumerLaunch i (j + 1), event .tailLaunch i (j + 1)]) ++
  g (decide (s.work.reassigned + 4096 ≤ s.sched.clk) && active.any fun (_, p) => !p.stages.isEmpty) [event .stageReassignment] ++
  (s.work.teams.filter fun (_, t) => t.leaving.isSome).map (fun (i, _) => event .drainExpiry i) ++
  (s.work.teams.filter fun (_, t) => t.save.isSome && !t.held).map (fun (i, _) => event .teamResume i) ++
  g s.cfg.deferred [event .contextBoundary]

/-- The boot, with every outcome of the self-test (R428). -/
def bootEvents (s : State) : List (Instr × EvArg) :=
  if s.host.mode == .booting then (List.range 32).map fun n => (.boot, { value := BitVec.ofNat 64 n }) else []

/-- Every event that the machine may perform by itself. -/
def dueEvents (s : State) : List (Instr × EvArg) :=
  bootEvents s ++ s.work.cohorts.flatMap (cohortEvents s) ++ s.cores.flatMap (coreEvents s) ++ memoryEvents s ++
    surfaceEvents s ++ dispatchEvents s

/-- An event that happens now, or none, which is open (log entry 2), as long as the cycle's number of them lasts. -/
def autoEvent (s : State) : Option (Instr × EvArg) × State :=
  match s.sched.budget with
  | 0 => (none, s)
  | b + 1 =>
    match dueEvents s with
    | [] => (none, s)
    | l =>
      let (n, s1) := s.free (l.length + 1)
      (l[n]?, s1.modSched fun x => { x with budget := if n < l.length then b else b + 1 })

end Sys2Proof.Machine
end

