-- ==== Sys2Proof/Machine/Compute.lean ====
section
/-! DEFINITION. The compute instructions (R317 to R346): the operands of every form, the write times (R256), and
one meaning for every row of the table in the classes 00 and 01. -/

namespace Sys2Proof.Machine

/-- A compute word with its operands read from their form (R317). -/
structure Alu where
  /-- what it reads and writes -/
  acc : Acc
  a : Src
  b : Src
  c : Src
  d : Nat
  /-- a uniform instruction -/
  uni : Bool
  /-- names of the destination; 0 when there is none -/
  dn : Nat
  pd : Nat
  mod : BitVec 10
  imm : BitVec 16
  deriving DecidableEq, Repr

/-- Pipe V0 of an opcode (R259); the rest of the fixed-latency opcodes are of pipe V1. -/
def pipeV0 (op : Nat) : Bool :=
  (2 ≤ op && op ≤ 5) || op == 0x0B || op == 0x32 || op == 0x33 || op == 0x51 || op == 0x52 || op == 0x55 ||
  (0x60 ≤ op && op ≤ 0x72)

/-- The latency of a compute opcode in a class: none where it is variable (R256). -/
def aluLat (op : Nat) (uni : Bool) : Option Nat :=
  if (0x40 ≤ op && op ≤ 0x47) || 0x80 ≤ op then none
  else if uni then some 2
  else if pipeV0 op then some 6
  else some 4

/-- A uniform compare or move is always 64 bits wide (R320). -/
def uniWide (op : Nat) (c : Cls) : Bool := c == .uni && (op == 0x20 || op == 0x22 || op == 0x23)

/-- The instruction reads its destination (R326). -/
def readsD (op : Nat) : Bool := op == 0x1A

/-- A register of a base form. -/
def baseSrc (c : Cls) (n : BitVec 7) (wide : Bool) : Src :=
  if c == .uni then .ureg n.toNat wide else .name n.toNat wide

/-- A literal as a source (R247). -/
def litSrc (l : DWord) (wide : Bool) : Src := .lit (if wide then l else (l.setWidth 32).setWidth 64)

/-- Puts an operand set together: reads, writes and latency. -/
def Alu.make (op : Nat) (c : Cls) (base : Acc) (a b d : Src) (dst dn pd : Nat) (pdW : Bool) (mod : BitVec 10)
    (imm : BitVec 16) : Alu :=
  let uni := c == .uni
  let old : List Src := if readsD op then [if uni then .ureg dst true else .name dst false] else []
  { acc := { base.reads ([a, b, d] ++ old) with
      wNames := if uni then [] else (List.range dn).map (dst + ·)
      wUregs := if uni && dn != 0 then [dst] else []
      wPreds := if pdW && pd < 7 then [pd] else []
      lat := aluLat op uni
      cls := if uni then 1 else 0 }
    a := a, b := b, c := d, d := dst, uni := uni, dn := dn, pd := if pdW then pd else 7, mod := mod, imm := imm }

/-- The operands of a base form, with a literal or without (R243, R317): X holds the modifiers that MOD holds in
the extended form. -/
def Alu.ofBase (op : Nat) (cls : Cls) (o : BaseOps) (lit : Option DWord) : Alu :=
  let i := (aluInfo op).getD {}
  let wa := (i.ua cls .zero).n == 2
  let wb := (i.ub cls .zero).n == 2 || uniWide op cls
  let dn := if (i.ud cls .zero).used then (i.ud cls .zero).n else 0
  let mark (n : Nat) : List Nat := if o.ka && cls == .vec then (List.range n).map (o.a.toNat + ·) else []
  let two := (i.ub cls .zero).used
  let base : Acc := { st := o.st.toNat, len := if lit.isSome then 3 else 1 }
  let mod : BitVec 10 := o.x.setWidth 10
  match lit with
  | some l =>
    let a : Src := if (i.ua cls .zero).used then baseSrc cls o.a wa else .zero
    .make op cls { base with marks := mark (if wa then 2 else 1) } a (litSrc l wb) .zero o.d.toNat dn 7 i.pd mod 0
  | none =>
    if two then
      .make op cls { base with marks := mark (if wb then 2 else 1) } (baseSrc cls o.d wa) (baseSrc cls o.a wb) .zero
        o.d.toNat dn 7 i.pd mod 0
    else
      let w := wa || uniWide op cls
      .make op cls { base with marks := mark (if w then 2 else 1) } (baseSrc cls o.a w) .zero .zero
        o.d.toNat dn 7 i.pd mod 0

/-- The marks of a used operand field. -/
def extMarks (o : Opnd) (u : Use) (back : Bool) : List Nat := if u.used then opndMarks o u.n back else []

/-- The operands of an extended form, with a literal or without (R244 to R247, R317). -/
def Alu.ofExt (op : Nat) (cls : Cls) (x : Ext) (lit : Option DWord) : Alu :=
  let i := (aluInfo op).getD {}
  let ua := i.ua cls x
  let ub := i.ub cls x
  let uc := i.uc cls x
  let k := x.km1.toNat + 1
  let wide (u : Use) : Bool := u.n == 2 || uniWide op cls
  let a := extSrc x.a ua (wide ua) (x.pbs == 1) k
  let b := match lit with
    | some l => litSrc l (wide ub)
    | none => extSrc x.b ub (wide ub) (x.pbs == 2) k
  let c := extSrc x.c uc (wide uc) (x.pbs == 3) k
  let dn := if (i.ud cls x).used then (i.ud cls x).n else 0
  let base : Acc :=
    { pg := x.pg.toNat, pn := x.pn, st := x.st.toNat, len := if lit.isSome then 5 else 3
      marks := extMarks x.a ua (x.pbs == 1) ++ (if lit.isSome then [] else extMarks x.b ub (x.pbs == 2)) ++
        extMarks x.c uc (x.pbs == 3) }
  .make op cls base a b c x.d.idx.toNat dn x.pd.toNat i.pd x.mod x.imm

/-- The operands of any form. -/
def Alu.ofForm (op : Nat) : AluForm → Alu
  | .ub o => .ofBase op .uni o none
  | .bl c o l => .ofBase op c o (some l)
  | .e c x => .ofExt op c x none
  | .el c x l => .ofExt op c x (some l)

/-- The predicates that SEL, PLOP and VOTE read by MOD; VOTE.UNI reads none (R342). -/
def modPreds (op : Nat) (mod : BitVec 10) : List Nat :=
  (if op == 0x82 && fld mod 5 4 == 3 then []
   else if op == 0x21 || op == 0x82 then [fld mod 2 0]
   else if op == 0x24 then [fld mod 2 0, fld mod 5 3, fld mod 8 6]
   else []).filter (· < 7)

/-- The word's accesses, predicates of MOD included. -/
def Alu.full (u : Alu) (op : Nat) : Acc :=
  { u.acc with preds := modPreds op u.mod, once := u.uni }

/-- The operand values of one thread. -/
def Alu.ins (u : Alu) (s : State) (c : Cohort) (t : Nat) : AluIn :=
  { a := (srcVal s c t u.a).toNat, b := (srcVal s c t u.b).toNat, c := (srcVal s c t u.c).toNat
    old := if u.uni then (c.readUreg u.d).toNat else ((s.thread t).readName u.d).toNat
    th := s.thread t, mod := u.mod, imm := u.imm }

/-- The outstanding writes of one thread's result. -/
def Alu.pends (u : Alu) (r : Ready) (w : Nat) (due : Nat) (t : Nat) (v : Res) : List (Nat × Pend) :=
  ((if u.uni then [] else namePends r w u.acc.lat.isNone due u.d u.dn v.d) ++
    predPends w u.acc.lat.isNone due u.pd v.p).map fun p => (t, p)

/-- A compute word whose result is a function of each thread's operands; a uniform one computes once, for the
acting thread, and writes its predicate to every executing thread (R321). -/
def aluWord (op : Nat) (u : Alu) (f : AluIn → Res) (s : State) : Out :=
  let a := u.full op
  withPrep s a fun r =>
    let c := s.cohort r.id
    let (w, s1) := s.newId
    let due := s.sched.clk + a.lat.getD 1
    if u.uni then
      match actingThread s r.ths with
      | none => .ok (plainIssue s1 r a)
      | some t =>
        let v := f (u.ins s c t)
        let s2 := commit s1 r a (r.ths.flatMap fun t => u.pends r w due t v)
        .ok (if u.dn == 0 then s2
          else addUwrite s2 r.id { id := w, tgt := .ureg u.d, var := a.lat.isNone, due := due, val := BitVec.ofNat 64 v.d })
    else .ok (commit s1 r a (r.ths.flatMap fun t => u.pends r w due t (f (u.ins s c t))))

/-- A base word of class 00. -/
def baseWord (op : Nat) (o : BaseOps) (f : AluIn → Res) (s : State) : Out := aluWord op (.ofBase op .vec o none) f s

/-- A word of any other form. -/
def formWord (op : Nat) (x : AluForm) (f : AluIn → Res) (s : State) : Out := aluWord op (.ofForm op x) f s

/-- CMP's width: 64 bits in the uniform class or with W64 (R320, R328). -/
def cmpWidth (f : AluForm) : Nat :=
  match f with
  | .e c x => if c == .uni || bitOf x.mod 4 then 64 else 32
  | .el c x _ => if c == .uni || bitOf x.mod 4 then 64 else 32
  | _ => 32

section Lanes

/-- What a thread reads at a seat of its team (R47): 0 with PD cleared, the fast path's value, or a slow-path
read of a thread's name with its latency. -/
inductive SeatRead where
  | absent
  | fast (t : Nat)
  | slow (t lat : Nat)
  deriving DecidableEq, Repr

/-- Resolves a seat through the seating chart (R46, R47). -/
def seatRead (s : State) (c : Cohort) (reader seat : Nat) : SeatRead :=
  let th := s.thread reader
  match (s.team th.team).threads.find? fun t => (s.thread t).seat == seat with
  | none => .absent
  | some t =>
    let x := s.thread t
    let mine := (c.active ++ c.groups.flatMap Group.threads).contains t
    if mine then .fast t
    else if x.unit != th.unit then .absent
    else match x.place with
      | .exited | .lost => .absent
      | _ => .slow t (if x.names.any fun n => decide (2048 ≤ n.2.row) then 160 else 24)

/-- Scoreboarded writes with a write time of their own (R341). -/
def timed (ps : List Pend) : List Pend := ps.map fun p => { p with timed := true }

/-- The seat that a thread of a seat word reads, resolved (R47, R341). -/
def seatOfThread (seatOf : State → Cohort → Nat → Int) (s : State) (c : Cohort) (t : Nat) : SeatRead :=
  let k := seatOf s c t
  if k < 0 ∨ ((s.launchOf t).teamSize : Int) ≤ k then .absent else seatRead s c t k.toNat

/-- A seat word reads, on the fast path, a name that has a variable-latency write outstanding: it waits (R256), and for a name
that an earlier seat read writes, until every thread of that word has its value (R341). -/
def seatWaits (s : State) (a : Acc) (ns : List Nat) (seatOf : State → Cohort → Nat → Int) : Bool :=
  match s.sched.cur.bind s.cohort? with
  | some c =>
    (executing s c a).any fun t =>
      match seatOfThread seatOf s c t with
      | .fast src => ns.any fun n => waitsOn (s.thread src).writes (.name n) || seatPending s c n
      | _ => false
  | none => false

/-- A seat read of a name or pair: on the fast path the value stands now; on the slow path it is the value at issue or one
that stands up to its latency later (R47, sampleSeat). -/
def seatWord (op : Nat) (u : Alu) (n : Nat) (wide : Bool) (seatOf : State → Cohort → Nat → Int) (s : State) : Out :=
  let a := u.full op
  let words := if wide then 2 else 1
  ((prep s a).unless (seatWaits s a (backNames n words) seatOf)).run s a.len fun r =>
    let c := s.cohort r.id
    let (w, s1) := s.newId
    let one (t : Nat) : List (Nat × Pend) :=
      let v (src : Nat) : Nat := ((s.thread src).readPair n).toNat
      let ps := match seatOfThread seatOf s c t with
        | .absent => timed (namePends r w true (s.sched.clk + 8) u.d words 0 ++ predPends w true (s.sched.clk + 8) u.pd false)
        | .fast src =>
          timed (namePends r w true (s.sched.clk + 8) u.d words (v src) ++ predPends w true (s.sched.clk + 8) u.pd true)
        | .slow src lat =>
          ((namePends r w true (s.sched.clk + lat) u.d words (v src)).zip (List.range words)).map
            (fun ((p : Pend), (k : Nat)) => { p with seat := some (src, n + k) }) ++ predPends w true (s.sched.clk + lat) u.pd true
      ps.map fun p => (t, { p with peers := r.ths })
    .ok (commit s1 r a (r.ths.flatMap one))

/-- VOTE, REDO, SCANO: a result for each executing thread from all of their operands. -/
def crossWord (op : Nat) (u : Alu) (f : List (Nat × AluIn) → Nat → Res) (s : State) : Out :=
  let a := u.full op
  withPrep s a fun r =>
    let c := s.cohort r.id
    let (w, s1) := s.newId
    let ins := r.ths.map fun t => ((s.thread t).lane, u.ins s c t)
    .ok (commit s1 r a (r.ths.flatMap fun t => u.pends r w (s.sched.clk + 1) t (f ins (s.thread t).lane)))

/-- VOTE (R342). -/
def voteRes (mod : BitVec 10) (ins : List (Nat × AluIn)) (_ : Nat) : Res :=
  let holds (i : AluIn) : Bool := i.th.readPred (fld mod 2 0) != bitOf mod 3
  let n := (ins.filter fun x => holds x.2).length
  match fld mod 5 4 with
  | 0 => { p := n == ins.length }
  | 1 => { p := n != 0 }
  | 2 => { d := n, p := n != 0 }
  | _ => { p := ins.all fun (_, i) => i.a % 2 ^ 32 == ((ins.map fun y => y.2.a).headD 0) % 2 ^ 32 }

/-- The leaves of REDO and SCANO (R119). -/
def redoLeaves (op : Nat) (ins : List (Nat × AluIn)) : List Nat :=
  (List.range 32).map fun j => ((ins.find? fun x => x.1 == j).map fun x => x.2.a % 2 ^ 32).getD (redoId op)

/-- REDO (R119, R343). -/
def redoRes (mod : BitVec 10) (ins : List (Nat × AluIn)) (_ : Nat) : Res :=
  let op := fld mod 3 0
  { d := ((redoTree (redoOp op) (redoLeaves op ins) 5).getD 5 []).headD 0 }

/-- SCANO (R120, R343). -/
def scanoRes (mod : BitVec 10) (ins : List (Nat × AluIn)) (lane : Nat) : Res :=
  let op := fld mod 3 0
  { d := (scanFrom (redoOp op) (redoTree (redoOp op) (redoLeaves op ins) 5) (lane + 1) none 6).getD 0 }

end Lanes

section Meanings

def execAddBase (o : BaseOps) (s : State) : Out := baseWord 0x00 o addRes s
def execAdd (f : AluForm) (s : State) : Out := formWord 0x00 f addRes s
def execSubBase (o : BaseOps) (s : State) : Out := baseWord 0x01 o subRes s
def execSub (f : AluForm) (s : State) : Out := formWord 0x01 f subRes s
def execMulBase (o : BaseOps) (s : State) : Out := baseWord 0x02 o mulRes s
def execMul (f : AluForm) (s : State) : Out := formWord 0x02 f mulRes s
def execMulhiBase (o : BaseOps) (s : State) : Out := baseWord 0x03 o mulhiRes s
def execMulhi (f : AluForm) (s : State) : Out := formWord 0x03 f mulhiRes s
def execMad (f : AluForm) (s : State) : Out := formWord 0x04 f madRes s
def execMadw (f : AluForm) (s : State) : Out := formWord 0x05 f madwRes s
def execAbsBase (o : BaseOps) (s : State) : Out := baseWord 0x06 o absRes s
def execAbs (f : AluForm) (s : State) : Out := formWord 0x06 f absRes s
def execMinBase (o : BaseOps) (s : State) : Out := baseWord 0x07 o minRes s
def execMin (f : AluForm) (s : State) : Out := formWord 0x07 f minRes s
def execMaxBase (o : BaseOps) (s : State) : Out := baseWord 0x08 o maxRes s
def execMax (f : AluForm) (s : State) : Out := formWord 0x08 f maxRes s
def execAddwBase (o : BaseOps) (s : State) : Out := baseWord 0x09 o addwRes s
def execAddw (f : AluForm) (s : State) : Out := formWord 0x09 f addwRes s
def execSubwBase (o : BaseOps) (s : State) : Out := baseWord 0x0A o subwRes s
def execSubw (f : AluForm) (s : State) : Out := formWord 0x0A f subwRes s
def execCvti (f : AluForm) (s : State) : Out := formWord 0x0B f cvtiRes s
def execAndBase (o : BaseOps) (s : State) : Out := baseWord 0x10 o andRes s
def execAnd (f : AluForm) (s : State) : Out := formWord 0x10 f andRes s
def execOrBase (o : BaseOps) (s : State) : Out := baseWord 0x11 o orRes s
def execOr (f : AluForm) (s : State) : Out := formWord 0x11 f orRes s
def execXorBase (o : BaseOps) (s : State) : Out := baseWord 0x12 o xorRes s
def execXor (f : AluForm) (s : State) : Out := formWord 0x12 f xorRes s
def execAndnBase (o : BaseOps) (s : State) : Out := baseWord 0x13 o andnRes s
def execAndn (f : AluForm) (s : State) : Out := formWord 0x13 f andnRes s
def execShlBase (o : BaseOps) (s : State) : Out := baseWord 0x14 o shlRes s
def execShl (f : AluForm) (s : State) : Out := formWord 0x14 f shlRes s
def execShrBase (o : BaseOps) (s : State) : Out := baseWord 0x15 o shrRes s
def execShr (f : AluForm) (s : State) : Out := formWord 0x15 f shrRes s
def execSarBase (o : BaseOps) (s : State) : Out := baseWord 0x16 o sarRes s
def execSar (f : AluForm) (s : State) : Out := formWord 0x16 f sarRes s
def execRotBase (o : BaseOps) (s : State) : Out := baseWord 0x17 o rotRes s
def execRot (f : AluForm) (s : State) : Out := formWord 0x17 f rotRes s
def execFsh (f : AluForm) (s : State) : Out := formWord 0x18 f fshRes s
def execBfx (f : AluForm) (s : State) : Out := formWord 0x19 f bfxRes s
def execBfi (f : AluForm) (s : State) : Out := formWord 0x1A f bfiRes s
def execPcntBase (o : BaseOps) (s : State) : Out := baseWord 0x1B o pcntRes s
def execPcnt (f : AluForm) (s : State) : Out := formWord 0x1B f pcntRes s
def execClzBase (o : BaseOps) (s : State) : Out := baseWord 0x1C o clzRes s
def execClz (f : AluForm) (s : State) : Out := formWord 0x1C f clzRes s
def execBrevBase (o : BaseOps) (s : State) : Out := baseWord 0x1D o brevRes s
def execBrev (f : AluForm) (s : State) : Out := formWord 0x1D f brevRes s
def execCmp (f : AluForm) (s : State) : Out := formWord 0x20 f (cmpRes (cmpWidth f)) s
def execSel (f : AluForm) (s : State) : Out := formWord 0x21 f selRes s
def execMovBase (o : BaseOps) (s : State) : Out := baseWord 0x22 o movRes s
def execMov (f : AluForm) (s : State) : Out := formWord 0x22 f movRes s
def execMovl (f : AluForm) (s : State) : Out := formWord 0x23 f movlRes s
def execPlop (f : AluForm) (s : State) : Out := formWord 0x24 f plopRes s
def execFaddBase (o : BaseOps) (s : State) : Out := baseWord 0x30 o faddRes s
def execFadd (f : AluForm) (s : State) : Out := formWord 0x30 f faddRes s
def execFsubBase (o : BaseOps) (s : State) : Out := baseWord 0x31 o fsubRes s
def execFsub (f : AluForm) (s : State) : Out := formWord 0x31 f fsubRes s
def execFmulBase (o : BaseOps) (s : State) : Out := baseWord 0x32 o fmulRes s
def execFmul (f : AluForm) (s : State) : Out := formWord 0x32 f fmulRes s
def execFfma (f : AluForm) (s : State) : Out := formWord 0x33 f ffmaRes s
def execFminBase (o : BaseOps) (s : State) : Out := baseWord 0x34 o fminRes s
def execFmin (f : AluForm) (s : State) : Out := formWord 0x34 f fminRes s
def execFmaxBase (o : BaseOps) (s : State) : Out := baseWord 0x35 o fmaxRes s
def execFmax (f : AluForm) (s : State) : Out := formWord 0x35 f fmaxRes s
def execFcmp (f : AluForm) (s : State) : Out := formWord 0x36 f fcmpRes s
def execFrnd (f : AluForm) (s : State) : Out := formWord 0x37 f frndRes s
def execFclass (f : AluForm) (s : State) : Out := formWord 0x38 f fclassRes s
def execFdivBase (o : BaseOps) (s : State) : Out := baseWord 0x40 o fdivRes s
def execFdiv (f : AluForm) (s : State) : Out := formWord 0x40 f fdivRes s
def execFrcpBase (o : BaseOps) (s : State) : Out := baseWord 0x41 o frcpRes s
def execFrcp (f : AluForm) (s : State) : Out := formWord 0x41 f frcpRes s
def execFrsqBase (o : BaseOps) (s : State) : Out := baseWord 0x42 o frsqRes s
def execFrsq (f : AluForm) (s : State) : Out := formWord 0x42 f frsqRes s
def execFsqrtBase (o : BaseOps) (s : State) : Out := baseWord 0x43 o fsqrtRes s
def execFsqrt (f : AluForm) (s : State) : Out := formWord 0x43 f fsqrtRes s
def execFex2Base (o : BaseOps) (s : State) : Out := baseWord 0x44 o fex2Res s
def execFex2 (f : AluForm) (s : State) : Out := formWord 0x44 f fex2Res s
def execFlg2Base (o : BaseOps) (s : State) : Out := baseWord 0x45 o flg2Res s
def execFlg2 (f : AluForm) (s : State) : Out := formWord 0x45 f flg2Res s
def execFsinpiBase (o : BaseOps) (s : State) : Out := baseWord 0x46 o fsinpiRes s
def execFsinpi (f : AluForm) (s : State) : Out := formWord 0x46 f fsinpiRes s
def execFcospiBase (o : BaseOps) (s : State) : Out := baseWord 0x47 o fcospiRes s
def execFcospi (f : AluForm) (s : State) : Out := formWord 0x47 f fcospiRes s
def execHadd2Base (o : BaseOps) (s : State) : Out := baseWord 0x50 o hadd2Res s
def execHadd2 (f : AluForm) (s : State) : Out := formWord 0x50 f hadd2Res s
def execHmul2Base (o : BaseOps) (s : State) : Out := baseWord 0x51 o hmul2Res s
def execHmul2 (f : AluForm) (s : State) : Out := formWord 0x51 f hmul2Res s
def execHfma2 (f : AluForm) (s : State) : Out := formWord 0x52 f hfma2Res s
def execHmin2Base (o : BaseOps) (s : State) : Out := baseWord 0x53 o hmin2Res s
def execHmin2 (f : AluForm) (s : State) : Out := formWord 0x53 f hmin2Res s
def execHmax2Base (o : BaseOps) (s : State) : Out := baseWord 0x54 o hmax2Res s
def execHmax2 (f : AluForm) (s : State) : Out := formWord 0x54 f hmax2Res s
def execBfma2 (f : AluForm) (s : State) : Out := formWord 0x55 f bfma2Res s
def execCvt (f : AluForm) (s : State) : Out := formWord 0x60 f cvtRes s
def execPack (f : AluForm) (s : State) : Out := formWord 0x61 f packRes s
def execUnpack (f : AluForm) (s : State) : Out := formWord 0x62 f unpackRes s
def execDp4o (f : AluForm) (s : State) : Out := formWord 0x70 f dp4oRes s
def execDp8o (f : AluForm) (s : State) : Out := formWord 0x71 f dp8oRes s
def execDp2h (f : AluForm) (s : State) : Out := formWord 0x72 f dp2hRes s

/-- XSEAT (R341): the seat is b; A is a name of the other thread and is not read here. -/
def execXseat (f : AluForm) (s : State) : Out :=
  let u := Alu.ofForm 0x80 f
  let wide := bitOf u.mod 0
  let n := u.a.names.headD 0
  seatWord 0x80 { u with acc := { u.acc with names := u.b.names } } n wide
    (fun s c t => ((srcVal s c t u.b).toNat : Int)) s

/-- XSHF (R341): the seat is the reader's XOR n, less n, or plus n. -/
def execXshf (f : AluForm) (s : State) : Out :=
  let u := Alu.ofForm 0x81 f
  let n := u.a.names.headD 0
  let k := u.imm.toNat
  seatWord 0x81 { u with acc := { u.acc with names := [] } } n (bitOf u.mod 2)
    (fun s _ t =>
      let st := (s.thread t).seat
      match fld u.mod 1 0 with
      | 0 => ((st ^^^ k : Nat) : Int)
      | 1 => (st : Int) - k
      | _ => (st : Int) + k) s

def execVote (f : AluForm) (s : State) : Out :=
  let u := Alu.ofForm 0x82 f
  crossWord 0x82 u (voteRes u.mod) s
def execRedo (f : AluForm) (s : State) : Out :=
  let u := Alu.ofForm 0x83 f
  crossWord 0x83 u (redoRes u.mod) s
def execScano (f : AluForm) (s : State) : Out :=
  let u := Alu.ofForm 0x84 f
  crossWord 0x84 u (scanoRes u.mod) s

/-- V2S (R344): the acting thread's value into a uniform register. -/
def execV2s (f : AluForm) (s : State) : Out :=
  let u := Alu.ofForm 0x85 f
  let a := { u.acc with wNames := [], wUregs := [u.d], once := true, lat := none }
  withPrep s a fun r =>
    match actingThread s r.ths with
    | none => .ok (plainIssue s r a)
    | some t =>
      let (w, s1) := s.newId
      .ok (addUwrite (plainIssue s1 r a) r.id
        { id := w, tgt := .ureg u.d, var := true, due := s.sched.clk + 1, val := srcVal s (s.cohort r.id) t u.a })

end Meanings

section Pair

/-- A half operation's result (R250): the effect of its full instruction with RNE. -/
def halfRes (pop : Nat) (i : AluIn) : Res :=
  let u : AluIn := { i with mod := 1 }
  match pop with
  | 0x00 => ffmaRes i
  | 0x01 => fmulRes i
  | 0x02 => madRes i
  | 0x03 => mulRes i
  | 0x04 => mulhiRes i
  | 0x05 => mulhiRes u
  | 0x06 => hfma2Res i
  | 0x07 => hmul2Res i
  | 0x08 => bfma2Res i
  | 0x09 => dp2hRes i
  | 0x0A => { d := convert 5 0 0 (w32 i.a) }
  | 0x0B => { d := convert 6 0 0 (w32 i.a) }
  | 0x0C => { d := convert 0 5 0 (w32 i.a) }
  | 0x20 => faddRes i
  | 0x21 => fsubRes i
  | 0x22 => fminRes i
  | 0x23 => fmaxRes i
  | 0x24 => addRes i
  | 0x25 => subRes i
  | 0x26 => minRes i
  | 0x27 => maxRes i
  | 0x28 => minRes u
  | 0x29 => maxRes u
  | 0x2A => andRes i
  | 0x2B => orRes i
  | 0x2C => xorRes i
  | 0x2D => andnRes i
  | 0x2E => shlRes i
  | 0x2F => shrRes i
  | 0x30 => sarRes i
  | 0x31 => fshRes i
  | 0x32 => movRes i
  | 0x33 => hadd2Res i
  | 0x34 => hmin2Res i
  | _ => hmax2Res i

/-- The operands of one thread for a half. -/
def halfIns (h : Half) (th : Thread) : AluIn :=
  { a := (th.readName h.a.toNat).toNat, b := (th.readName h.b.toNat).toNat, c := (th.readName h.c.toNat).toNat
    old := 0, th := th, mod := 0, imm := 0 }

/-- The latency of a half (R251, R256). -/
def halfLat (h : Half) : Nat := if halfV0 h.pop.toNat then 6 else 4

/-- The names whose marks a half carries. -/
def halfMarks (h : Half) : List Nat :=
  (if h.ka then [h.a.toNat] else []) ++ (if h.kb then [h.b.toNat] else []) ++ (if h.kc then [h.c.toNat] else [])

/-- One half's accesses. -/
def halfAcc (h : Half) (p : PairOps) : Acc :=
  { pg := h.g.toNat, names := h.sources, marks := halfMarks h, wNames := [h.d.toNat], lat := some (halfLat h), len := 3,
    st := p.st.toNat, cls := 0 }

/-- Check 7 of a pair word, X before Y (R253, R345). -/
def pairShort (s : State) (c : Cohort) (ax ay : Acc) (rx ry : Ready) : Option (Nat × Nat) :=
  match shortRead s c ax rx.ths with
  | some x => some x
  | none => shortRead s c ay ry.ths

/-- A pair word (R249 to R252): both halves are judged and read before either writes; a row that either lacks
stalls the word whole. -/
def execPairWord (p : PairOps) (s : State) : Out :=
  let ax := halfAcc p.x p
  let ay := halfAcc p.y p
  let both := { ax with wNames := ax.wNames ++ ay.wNames }
  match s.sched.cur.bind fun id => (s.cohort? id).map fun c => (id, c) with
  | none => .fault .noIssuer
  | some (id, c) =>
    match checkFor s id c ax, checkFor s id c ay with
    | .go rx, .go ry =>
      let s1 := marked (marked s rx.ths ax) ry.ths ay
      let used := rowsUsed s1 c.unit c.part
      let needs (r : Ready) (a : Acc) : List Nat := rowNeeds s1 r.ths a.wNames (rowsUsed s c.unit c.part) used
      match takeRows s1 rx.ths ax.wNames used, takeRows s1 ry.ths ay.wNames used with
      | .ok kx, .ok ky =>
        match pairShort s c ax ay rx ry with
        | some x => (shortTrap x).run s 3 fun _ => .ok s
        | none =>
          let (w, s2) := s1.newId
          let half (h : Half) (r : Ready) : List (Nat × Pend) := r.ths.flatMap fun t =>
            (namePends r w false (s.sched.clk + halfLat h) h.d.toNat 1 (halfRes h.pop.toNat (halfIns h (s.thread t))).d).map
              fun q => (t, q)
          .next (issued (addWrites s2 (half p.x { rx with rows := kx } ++ half p.y { ry with rows := ky })) id both)
      | _, _ => .next (stallAt s id (.grow (needs rx ax ++ needs ry ay)))
    | .go _, q => q.run s 3 fun _ => .ok s
    | q, _ => q.run s 3 fun _ => .ok s

end Pair

end Sys2Proof.Machine
end

