-- ==== Sys2Proof/Machine/Results.lean ====
section
/-! DEFINITION. The arrival of scoreboarded results (R256). -/

namespace Sys2Proof.Machine

/-- VARIABLE_LATENCY_RESULT (R256): the results of word b whose time has come arrive and are written, in its
threads' names and predicates and in cohort a's uniform registers. -/
def execVariableLatencyResult (s : State) : Out :=
  let w := s.sched.arg.b
  let f (p : Pend) : Bool := p.id == w && p.var && !p.held && decide (p.due ≤ s.sched.clk)
  .next { s with work := { s.work with
    threads := s.work.threads.map fun (i, t) => (i, t.settle f)
    cohorts := s.work.cohorts.map fun (i, c) => (i, c.settle f) } }

end Sys2Proof.Machine
end

