-- ==== Sys2Proof/Machine/Dispatch.lean ====
section
/-! DEFINITION. The dispatch: one arm per constructor of `Instr`, each a direct call of its meaning. -/

namespace Sys2Proof.Machine

/-- What an instruction does. -/
def exec (i : Instr) (s : State) : Host.Outcome State Fault Refusal :=
  match i with
  | .addBase o => Sys2Proof.Machine.execAddBase o s
  | .add f => Sys2Proof.Machine.execAdd f s
  | .subBase o => Sys2Proof.Machine.execSubBase o s
  | .sub f => Sys2Proof.Machine.execSub f s
  | .mulBase o => Sys2Proof.Machine.execMulBase o s
  | .mul f => Sys2Proof.Machine.execMul f s
  | .mulhiBase o => Sys2Proof.Machine.execMulhiBase o s
  | .mulhi f => Sys2Proof.Machine.execMulhi f s
  | .mad f => Sys2Proof.Machine.execMad f s
  | .madw f => Sys2Proof.Machine.execMadw f s
  | .absBase o => Sys2Proof.Machine.execAbsBase o s
  | .abs f => Sys2Proof.Machine.execAbs f s
  | .minBase o => Sys2Proof.Machine.execMinBase o s
  | .min f => Sys2Proof.Machine.execMin f s
  | .maxBase o => Sys2Proof.Machine.execMaxBase o s
  | .max f => Sys2Proof.Machine.execMax f s
  | .addwBase o => Sys2Proof.Machine.execAddwBase o s
  | .addw f => Sys2Proof.Machine.execAddw f s
  | .subwBase o => Sys2Proof.Machine.execSubwBase o s
  | .subw f => Sys2Proof.Machine.execSubw f s
  | .cvti f => Sys2Proof.Machine.execCvti f s
  | .andBase o => Sys2Proof.Machine.execAndBase o s
  | .and f => Sys2Proof.Machine.execAnd f s
  | .orBase o => Sys2Proof.Machine.execOrBase o s
  | .or f => Sys2Proof.Machine.execOr f s
  | .xorBase o => Sys2Proof.Machine.execXorBase o s
  | .xor f => Sys2Proof.Machine.execXor f s
  | .andnBase o => Sys2Proof.Machine.execAndnBase o s
  | .andn f => Sys2Proof.Machine.execAndn f s
  | .shlBase o => Sys2Proof.Machine.execShlBase o s
  | .shl f => Sys2Proof.Machine.execShl f s
  | .shrBase o => Sys2Proof.Machine.execShrBase o s
  | .shr f => Sys2Proof.Machine.execShr f s
  | .sarBase o => Sys2Proof.Machine.execSarBase o s
  | .sar f => Sys2Proof.Machine.execSar f s
  | .rotBase o => Sys2Proof.Machine.execRotBase o s
  | .rot f => Sys2Proof.Machine.execRot f s
  | .fsh f => Sys2Proof.Machine.execFsh f s
  | .bfx f => Sys2Proof.Machine.execBfx f s
  | .bfi f => Sys2Proof.Machine.execBfi f s
  | .pcntBase o => Sys2Proof.Machine.execPcntBase o s
  | .pcnt f => Sys2Proof.Machine.execPcnt f s
  | .clzBase o => Sys2Proof.Machine.execClzBase o s
  | .clz f => Sys2Proof.Machine.execClz f s
  | .brevBase o => Sys2Proof.Machine.execBrevBase o s
  | .brev f => Sys2Proof.Machine.execBrev f s
  | .cmp f => Sys2Proof.Machine.execCmp f s
  | .sel f => Sys2Proof.Machine.execSel f s
  | .movBase o => Sys2Proof.Machine.execMovBase o s
  | .mov f => Sys2Proof.Machine.execMov f s
  | .movl f => Sys2Proof.Machine.execMovl f s
  | .plop f => Sys2Proof.Machine.execPlop f s
  | .faddBase o => Sys2Proof.Machine.execFaddBase o s
  | .fadd f => Sys2Proof.Machine.execFadd f s
  | .fsubBase o => Sys2Proof.Machine.execFsubBase o s
  | .fsub f => Sys2Proof.Machine.execFsub f s
  | .fmulBase o => Sys2Proof.Machine.execFmulBase o s
  | .fmul f => Sys2Proof.Machine.execFmul f s
  | .ffma f => Sys2Proof.Machine.execFfma f s
  | .fminBase o => Sys2Proof.Machine.execFminBase o s
  | .fmin f => Sys2Proof.Machine.execFmin f s
  | .fmaxBase o => Sys2Proof.Machine.execFmaxBase o s
  | .fmax f => Sys2Proof.Machine.execFmax f s
  | .fcmp f => Sys2Proof.Machine.execFcmp f s
  | .frnd f => Sys2Proof.Machine.execFrnd f s
  | .fclass f => Sys2Proof.Machine.execFclass f s
  | .fdivBase o => Sys2Proof.Machine.execFdivBase o s
  | .fdiv f => Sys2Proof.Machine.execFdiv f s
  | .frcpBase o => Sys2Proof.Machine.execFrcpBase o s
  | .frcp f => Sys2Proof.Machine.execFrcp f s
  | .frsqBase o => Sys2Proof.Machine.execFrsqBase o s
  | .frsq f => Sys2Proof.Machine.execFrsq f s
  | .fsqrtBase o => Sys2Proof.Machine.execFsqrtBase o s
  | .fsqrt f => Sys2Proof.Machine.execFsqrt f s
  | .fex2Base o => Sys2Proof.Machine.execFex2Base o s
  | .fex2 f => Sys2Proof.Machine.execFex2 f s
  | .flg2Base o => Sys2Proof.Machine.execFlg2Base o s
  | .flg2 f => Sys2Proof.Machine.execFlg2 f s
  | .fsinpiBase o => Sys2Proof.Machine.execFsinpiBase o s
  | .fsinpi f => Sys2Proof.Machine.execFsinpi f s
  | .fcospiBase o => Sys2Proof.Machine.execFcospiBase o s
  | .fcospi f => Sys2Proof.Machine.execFcospi f s
  | .hadd2Base o => Sys2Proof.Machine.execHadd2Base o s
  | .hadd2 f => Sys2Proof.Machine.execHadd2 f s
  | .hmul2Base o => Sys2Proof.Machine.execHmul2Base o s
  | .hmul2 f => Sys2Proof.Machine.execHmul2 f s
  | .hfma2 f => Sys2Proof.Machine.execHfma2 f s
  | .hmin2Base o => Sys2Proof.Machine.execHmin2Base o s
  | .hmin2 f => Sys2Proof.Machine.execHmin2 f s
  | .hmax2Base o => Sys2Proof.Machine.execHmax2Base o s
  | .hmax2 f => Sys2Proof.Machine.execHmax2 f s
  | .bfma2 f => Sys2Proof.Machine.execBfma2 f s
  | .cvt f => Sys2Proof.Machine.execCvt f s
  | .pack f => Sys2Proof.Machine.execPack f s
  | .unpack f => Sys2Proof.Machine.execUnpack f s
  | .dp4o f => Sys2Proof.Machine.execDp4o f s
  | .dp8o f => Sys2Proof.Machine.execDp8o f s
  | .dp2h f => Sys2Proof.Machine.execDp2h f s
  | .xseat f => Sys2Proof.Machine.execXseat f s
  | .xshf f => Sys2Proof.Machine.execXshf f s
  | .vote f => Sys2Proof.Machine.execVote f s
  | .redo f => Sys2Proof.Machine.execRedo f s
  | .scano f => Sys2Proof.Machine.execScano f s
  | .v2s f => Sys2Proof.Machine.execV2s f s
  | .pairWord p => Sys2Proof.Machine.execPairWord p s
  | .nopBase st => Sys2Proof.Machine.execNopBase st s
  | .nop f => Sys2Proof.Machine.execNop f s
  | .braBase st off => Sys2Proof.Machine.execBraBase st off s
  | .bra f => Sys2Proof.Machine.execBra f s
  | .brc f => Sys2Proof.Machine.execBrc f s
  | .bri f => Sys2Proof.Machine.execBri f s
  | .loop f => Sys2Proof.Machine.execLoop f s
  | .callBase st off => Sys2Proof.Machine.execCallBase st off s
  | .call f => Sys2Proof.Machine.execCall f s
  | .callo f => Sys2Proof.Machine.execCallo f s
  | .retBase st => Sys2Proof.Machine.execRetBase st s
  | .ret f => Sys2Proof.Machine.execRet f s
  | .exitBase st => Sys2Proof.Machine.execExitBase st s
  | .exit f => Sys2Proof.Machine.execExit f s
  | .reformBase st => Sys2Proof.Machine.execReformBase st s
  | .reform f => Sys2Proof.Machine.execReform f s
  | .region f => Sys2Proof.Machine.execRegion f s
  | .pass f => Sys2Proof.Machine.execPass f s
  | .wait f => Sys2Proof.Machine.execWait f s
  | .waitUntil f => Sys2Proof.Machine.execWaitUntil f s
  | .waitDrain f => Sys2Proof.Machine.execWaitDrain f s
  | .yieldBase st => Sys2Proof.Machine.execYieldBase st s
  | .yield f => Sys2Proof.Machine.execYield f s
  | .trap f => Sys2Proof.Machine.execTrap f s
  | .bkptBase st code => Sys2Proof.Machine.execBkptBase st code s
  | .bkpt f => Sys2Proof.Machine.execBkpt f s
  | .ovld f => Sys2Proof.Machine.execOvld f s
  | .ovpin f => Sys2Proof.Machine.execOvpin f s
  | .ovunpin f => Sys2Proof.Machine.execOvunpin f s
  | .ovevict f => Sys2Proof.Machine.execOvevict f s
  | .ovqry f => Sys2Proof.Machine.execOvqry f s
  | .free f => Sys2Proof.Machine.execFree f s
  | .rsrv f => Sys2Proof.Machine.execRsrv f s
  | .rdspc f => Sys2Proof.Machine.execRdspc f s
  | .wrspc f => Sys2Proof.Machine.execWrspc f s
  | .dwrd f => Sys2Proof.Machine.execDwrd f s
  | .dwwr f => Sys2Proof.Machine.execDwwr f s
  | .cresume f => Sys2Proof.Machine.execCresume f s
  | .cresumeSkip f => Sys2Proof.Machine.execCresumeSkip f s
  | .cresumePc f => Sys2Proof.Machine.execCresumePc f s
  | .cresumePlan f => Sys2Proof.Machine.execCresumePlan f s
  | .ckill f => Sys2Proof.Machine.execCkill f s
  | .ckillTeam f => Sys2Proof.Machine.execCkillTeam f s
  | .ckillPlan f => Sys2Proof.Machine.execCkillPlan f s
  | .cpreemptPlan f => Sys2Proof.Machine.execCpreemptPlan f s
  | .cpreemptCore f => Sys2Proof.Machine.execCpreemptCore f s
  | .cpreemptQueue f => Sys2Proof.Machine.execCpreemptQueue f s
  | .tlbflPage f => Sys2Proof.Machine.execTlbflPage f s
  | .tlbflCtx f => Sys2Proof.Machine.execTlbflCtx f s
  | .tlbflAll f => Sys2Proof.Machine.execTlbflAll f s
  | .cfgrd f => Sys2Proof.Machine.execCfgrd f s
  | .cfgwr f => Sys2Proof.Machine.execCfgwr f s
  | .evtrd f => Sys2Proof.Machine.execEvtrd f s
  | .evtrdFault f => Sys2Proof.Machine.execEvtrdFault f s
  | .ld f => Sys2Proof.Machine.execLd f s
  | .st f => Sys2Proof.Machine.execSt f s
  | .ldu f => Sys2Proof.Machine.execLdu f s
  | .lda f => Sys2Proof.Machine.execLda f s
  | .str f => Sys2Proof.Machine.execStr f s
  | .atom f => Sys2Proof.Machine.execAtom f s
  | .atomr f => Sys2Proof.Machine.execAtomr f s
  | .cas f => Sys2Proof.Machine.execCas f s
  | .fence f => Sys2Proof.Machine.execFence f s
  | .bar f => Sys2Proof.Machine.execBar f s
  | .barArrive f => Sys2Proof.Machine.execBarArrive f s
  | .barWait f => Sys2Proof.Machine.execBarWait f s
  | .bell f => Sys2Proof.Machine.execBell f s
  | .bellArrive f => Sys2Proof.Machine.execBellArrive f s
  | .bellWait f => Sys2Proof.Machine.execBellWait f s
  | .bellTest f => Sys2Proof.Machine.execBellTest f s
  | .regacq f => Sys2Proof.Machine.execRegacq f s
  | .regtry f => Sys2Proof.Machine.execRegtry f s
  | .regrel f => Sys2Proof.Machine.execRegrel f s
  | .pref f => Sys2Proof.Machine.execPref f s
  | .tierq f => Sys2Proof.Machine.execTierq f s
  | .copyBox f => Sys2Proof.Machine.execCopyBox f s
  | .copyBoxst f => Sys2Proof.Machine.execCopyBoxst f s
  | .copyLin f => Sys2Proof.Machine.execCopyLin f s
  | .copym f => Sys2Proof.Machine.execCopym f s
  | .twait f => Sys2Proof.Machine.execTwait f s
  | .twany f => Sys2Proof.Machine.execTwany f s
  | .tfind f => Sys2Proof.Machine.execTfind f s
  | .tstat f => Sys2Proof.Machine.execTstat f s
  | .tclr f => Sys2Proof.Machine.execTclr f s
  | .qpush f => Sys2Proof.Machine.execQpush f s
  | .qawait f => Sys2Proof.Machine.execQawait f s
  | .qrel f => Sys2Proof.Machine.execQrel f s
  | .qstat f => Sys2Proof.Machine.execQstat f s
  | .stageUp0 f => Sys2Proof.Machine.execStageUp0 f s
  | .stageUp1 f => Sys2Proof.Machine.execStageUp1 f s
  | .stageDown1 f => Sys2Proof.Machine.execStageDown1 f s
  | .stageDown2 f => Sys2Proof.Machine.execStageDown2 f s
  | .mwld f => Sys2Proof.Machine.execMwld f s
  | .mstage f => Sys2Proof.Machine.execMstage f s
  | .mma16 f => Sys2Proof.Machine.execMma16 f s
  | .mma32 f => Sys2Proof.Machine.execMma32 f s
  | .mma64 f => Sys2Proof.Machine.execMma64 f s
  | .mma128 f => Sys2Proof.Machine.execMma128 f s
  | .macc f => Sys2Proof.Machine.execMacc f s
  | .mzero f => Sys2Proof.Machine.execMzero f s
  | .mdrain f => Sys2Proof.Machine.execMdrain f s
  | .mstat f => Sys2Proof.Machine.execMstat f s
  | .sld f => Sys2Proof.Machine.execSld f s
  | .sst f => Sys2Proof.Machine.execSst f s
  | .stinfo f => Sys2Proof.Machine.execStinfo f s
  | .vbmin f => Sys2Proof.Machine.execVbmin f s
  | .bankopFill f => Sys2Proof.Machine.execBankopFill f s
  | .bankopScale f => Sys2Proof.Machine.execBankopScale f s
  | .bankopAxpby f => Sys2Proof.Machine.execBankopAxpby f s
  | .bankopConvert f => Sys2Proof.Machine.execBankopConvert f s
  | .bankopSumrow f => Sys2Proof.Machine.execBankopSumrow f s
  | .bankopDepthclear f => Sys2Proof.Machine.execBankopDepthclear f s
  | .bankst f => Sys2Proof.Machine.execBankst f s
  | .samp f => Sys2Proof.Machine.execSamp f s
  | .sampl f => Sys2Proof.Machine.execSampl f s
  | .emitv f => Sys2Proof.Machine.execEmitv f s
  | .emitp f => Sys2Proof.Machine.execEmitp f s
  | .meshend f => Sys2Proof.Machine.execMeshend f s
  | .exportPix f => Sys2Proof.Machine.execExportPix f s
  | .quadrd f => Sys2Proof.Machine.execQuadrd f s
  | .attr f => Sys2Proof.Machine.execAttr f s
  | .discard f => Sys2Proof.Machine.execDiscard f s
  | .waitExpiry => Sys2Proof.Machine.execWaitExpiry s
  | .dwSelWrite => Sys2Proof.Machine.execDwSelWrite s
  | .dwRpcWrite => Sys2Proof.Machine.execDwRpcWrite s
  | .configWrite => Sys2Proof.Machine.execConfigWrite s
  | .hallPassEntryWrite => Sys2Proof.Machine.execHallPassEntryWrite s
  | .blTargetWrite => Sys2Proof.Machine.execBlTargetWrite s
  | .blGenWrite => Sys2Proof.Machine.execBlGenWrite s
  | .completionCounterWrite => Sys2Proof.Machine.execCompletionCounterWrite s
  | .ccQuotaWrite => Sys2Proof.Machine.execCcQuotaWrite s
  | .deferredFieldWrite => Sys2Proof.Machine.execDeferredFieldWrite s
  | .errorCounterClear => Sys2Proof.Machine.execErrorCounterClear s
  | .ccFenceWrite => Sys2Proof.Machine.execCcFenceWrite s
  | .bellRelease => Sys2Proof.Machine.execBellRelease s
  | .copyComplete => Sys2Proof.Machine.execCopyComplete s
  | .stagedCommandEntry => Sys2Proof.Machine.execStagedCommandEntry s
  | .stageComplete => Sys2Proof.Machine.execStageComplete s
  | .matrixCommandStart => Sys2Proof.Machine.execMatrixCommandStart s
  | .matrixCommandComplete => Sys2Proof.Machine.execMatrixCommandComplete s
  | .bankopJobStart => Sys2Proof.Machine.execBankopJobStart s
  | .rowStep => Sys2Proof.Machine.execRowStep s
  | .rasteriseMeshlet => Sys2Proof.Machine.execRasteriseMeshlet s
  | .quadAdmission => Sys2Proof.Machine.execQuadAdmission s
  | .quadBlend => Sys2Proof.Machine.execQuadBlend s
  | .pixelLaunch => Sys2Proof.Machine.execPixelLaunch s
  | .pixelLaunchAge => Sys2Proof.Machine.execPixelLaunchAge s
  | .launch => Sys2Proof.Machine.execLaunch s
  | .placementDecision => Sys2Proof.Machine.execPlacementDecision s
  | .dispatcherPreload => Sys2Proof.Machine.execDispatcherPreload s
  | .carveoutConversion => Sys2Proof.Machine.execCarveoutConversion s
  | .conversionComplete => Sys2Proof.Machine.execConversionComplete s
  | .consumerLaunch => Sys2Proof.Machine.execConsumerLaunch s
  | .tailLaunch => Sys2Proof.Machine.execTailLaunch s
  | .stageReassignment => Sys2Proof.Machine.execStageReassignment s
  | .planComplete => Sys2Proof.Machine.execPlanComplete s
  | .issueCap => Sys2Proof.Machine.execIssueCap s
  | .cohortFormation => Sys2Proof.Machine.execCohortFormation s
  | .binAging => Sys2Proof.Machine.execBinAging s
  | .waitAgeFiling => Sys2Proof.Machine.execWaitAgeFiling s
  | .passbackPublished => Sys2Proof.Machine.execPassbackPublished s
  | .cloak => Sys2Proof.Machine.execCloak s
  | .longWaitCloak => Sys2Proof.Machine.execLongWaitCloak s
  | .cloakDone => Sys2Proof.Machine.execCloakDone s
  | .recall => Sys2Proof.Machine.execRecall s
  | .recallDone => Sys2Proof.Machine.execRecallDone s
  | .binUncloak => Sys2Proof.Machine.execBinUncloak s
  | .overlayLoadComplete => Sys2Proof.Machine.execOverlayLoadComplete s
  | .evictionRequest => Sys2Proof.Machine.execEvictionRequest s
  | .spillComplete => Sys2Proof.Machine.execSpillComplete s
  | .fillComplete => Sys2Proof.Machine.execFillComplete s
  | .promotion => Sys2Proof.Machine.execPromotion s
  | .retentionEntry => Sys2Proof.Machine.execRetentionEntry s
  | .wakeComplete => Sys2Proof.Machine.execWakeComplete s
  | .safePointStop => Sys2Proof.Machine.execSafePointStop s
  | .safelimExpiry => Sys2Proof.Machine.execSafelimExpiry s
  | .drainExpiry => Sys2Proof.Machine.execDrainExpiry s
  | .teamResume => Sys2Proof.Machine.execTeamResume s
  | .faultRecordEnqueue => Sys2Proof.Machine.execFaultRecordEnqueue s
  | .contextBoundary => Sys2Proof.Machine.execContextBoundary s
  | .counter => Sys2Proof.Machine.execCounter s
  | .status => Sys2Proof.Machine.execStatus s
  | .events => Sys2Proof.Machine.execEvents s
  | .attest => Sys2Proof.Machine.execAttest s
  | .mgmtCfgrd => Sys2Proof.Machine.execMgmtCfgrd s
  | .mgmtCfgwr => Sys2Proof.Machine.execMgmtCfgwr s
  | .qpset => Sys2Proof.Machine.execQpset s
  | .mrset => Sys2Proof.Machine.execMrset s
  | .keyset => Sys2Proof.Machine.execKeyset s
  | .addrset => Sys2Proof.Machine.execAddrset s
  | .mgmtReset => Sys2Proof.Machine.execMgmtReset s
  | .neighbourDiscovery => Sys2Proof.Machine.execNeighbourDiscovery s
  | .inboundRdmaRead => Sys2Proof.Machine.execInboundRdmaRead s
  | .inboundRdmaWrite => Sys2Proof.Machine.execInboundRdmaWrite s
  | .rdmaWriteWithImmediate => Sys2Proof.Machine.execRdmaWriteWithImmediate s
  | .inboundSend => Sys2Proof.Machine.execInboundSend s
  | .sendWithImmediate => Sys2Proof.Machine.execSendWithImmediate s
  | .unsupportedRequest => Sys2Proof.Machine.execUnsupportedRequest s
  | .remoteResponse => Sys2Proof.Machine.execRemoteResponse s
  | .peerNak => Sys2Proof.Machine.execPeerNak s
  | .retryExhausted => Sys2Proof.Machine.execRetryExhausted s
  | .pfcPause => Sys2Proof.Machine.execPfcPause s
  | .cnpReceived => Sys2Proof.Machine.execCnpReceived s
  | .rateIncrease => Sys2Proof.Machine.execRateIncrease s
  | .link => Sys2Proof.Machine.execLink s
  | .boot => Sys2Proof.Machine.execBoot s
  | .correctedError => Sys2Proof.Machine.execCorrectedError s
  | .uncorrectedError => Sys2Proof.Machine.execUncorrectedError s
  | .thermalCap => Sys2Proof.Machine.execThermalCap s
  | .thermalCapLift => Sys2Proof.Machine.execThermalCapLift s
  | .variableLatencyResult => Sys2Proof.Machine.execVariableLatencyResult s
  | .transitionEnd => Sys2Proof.Machine.execTransitionEnd s
  | .broadcastArrival => Sys2Proof.Machine.execBroadcastArrival s
  | .powerDown => Sys2Proof.Machine.execPowerDown s
  | .droppedFrame => Sys2Proof.Machine.execDroppedFrame s
  | .pfcPauseExpiry => Sys2Proof.Machine.execPfcPauseExpiry s
  | .transportRetry => Sys2Proof.Machine.execTransportRetry s

end Sys2Proof.Machine
end

