-- ==== Sys2Proof/Machine/Cycle.lean ====
section
/-! DEFINITION. The moves of which a step is one: a cohort issues the word at its PC, an event happens, or, with an empty
agenda, what comes next (log entry 1). -/

namespace Sys2Proof.Machine

/-- A cohort issues the word at its PC: fetch, decode, and the meaning of the instruction, or the decode trap. -/
def runWord (s : State) (id : Nat) (c : Cohort) : Host.Outcome State Fault Refusal :=
  match decode (decodeCtx s c) (fetch s c) with
  | .ok (i, _) => exec i ((useImage s c).modSched fun x => { x with cur := some id })
  | .error e => .next (decodeTrap s id e (fetch s c))

/-- A partition whose turn it is issues the next word of the cohort that it selects (R38). -/
def issueSlot (s : State) (slot : Nat) : Host.Outcome State Fault Refusal :=
  match select s slot with
  | none => .next s
  | some (id, s1) => runWord (noSecond s1) id (s1.cohort id)

/-- A cohort issues its next word if its partition selects it now. -/
def issueCohort (s : State) (id : Nat) : Host.Outcome State Fault Refusal :=
  match s.cohort? id with
  | none => .next s
  | some c =>
    if slotOpen s c.slot && (select s c.slot).map Prod.fst == some id then issueSlot s c.slot else .next s

/-- An event of an agent or of the surroundings happens, with its data. -/
def runEvent (s : State) (i : Instr) (a : EvArg) : Host.Outcome State Fault Refusal :=
  exec i (s.modSched fun x => { x with arg := a })

/-- Every event that is due is offered, from a free place in their list on (log entry 2). -/
def sweep (s : State) : State :=
  let l := (dueEvents s).map fun x => Move.op x.1 x.2
  let (n, s1) := s.free (l.length + 1)
  s1.modSched fun x => { x with agenda := l.drop n ++ l.take n, swept := true }

/-- The cycle ends, and requests that waited behind others which are served by now have their turn (R157, R178). -/
def closeCycle (s : State) : State := serveWaiting (serveReqs (tick s))

/-- The cycle ends when no partition has a cohort to try; in some cycle after every few, all events that are due are
offered first, so that none is put off for ever (R63, log entry 52). -/
def endCycle (s : State) : State :=
  if s.sched.clk % (Config.patience + 1) == 0 && !s.sched.swept then sweep s else closeCycle s

/-- A partition whose turn it is issues, or the cycle ends. -/
def nextCohort (s : State) : Host.Outcome State Fault Refusal :=
  match openSlots s with
  | [] => .next (endCycle s)
  | l =>
    let (n, s1) := s.free l.length
    issueSlot s1 (l.getD n 0)

/-- What comes next when no second word does. -/
def nextMove (s : State) : Host.Outcome State Fault Refusal :=
  match autoEvent s with
  | (some (i, a), s1) => runEvent s1 i a
  | (none, s1) => nextCohort s1

/-- What comes next: the second word of the cycle where R39 permits one, a free choice (log entry 2), or another move. -/
def autoStep (s : State) : Host.Outcome State Fault Refusal :=
  match maySecond s with
  | some (id, c, d) =>
    let (b, s1) := s.freeBit
    if b then runWord (s1.modSched fun x => { x with dual := some { d with second := true } }) id c
    else nextMove (noSecond s1)
  | none => nextMove s

/-- An item of the agenda: an instruction word is no event, and a cycle does not end while a cohort may issue. -/
def runMove (s : State) : Move → Host.Outcome State Fault Refusal
  | .issue id => issueCohort s id
  | .op i a => if i.isWord then .next s else runEvent s i a
  | .tick => .next (if (openSlots s).isEmpty then closeCycle s else s)

end Sys2Proof.Machine
end

