-- ==== Sys2Proof/Machine/Step.lean ====
section
/-! DEFINITION. One step of the machine: the next item of the agenda, or, with an empty agenda, a move of the machine's
own (log entry 1). -/

namespace Sys2Proof.Machine

/-- One step. -/
def step (s : State) : Host.Outcome State Fault Refusal :=
  match s.sched.agenda with
  | [] => autoStep s
  | m :: rest => runMove (s.modSched fun x => { x with agenda := rest }) m

/-- The state with one instruction placed where the very next step fetches it (log entry 6). -/
def State.withFetchWord (s : State) (nbits w : Nat) : State := placeWords s (tableWords nbits w)

end Sys2Proof.Machine
end

