-- ==== Sys2Proof/Safety.lean ====
section
/-! DEFINITION. The vocabulary of the statements: the canonical form of memory, what a step leaves unchanged, what a word
reads and writes, and the rows of the compute words. -/

namespace Sys2Proof.Machine

/-- Memory is in its canonical form: addresses strictly rising, no zero byte listed (log entry 4). -/
def Memory.wf : Memory → Bool
  | [] => true
  | x :: r => r.all (fun y => decide (x.1 < y.1)) && x.2 != 0 && Memory.wf r

/-- The memories of the machine are in their canonical form: GDDR7, flash, the scratchpad of every core. -/
def MemOk (s : State) : Prop := s.mem.gddr.wf = true ∧ s.mem.flash.wf = true ∧ ∀ u, (s.core u).scratch.wf = true

/-- Every byte of GDDR7 and flash reads as before. -/
def SameDevice (s t : State) : Prop :=
  (∀ a, t.mem.gddr.get a = s.mem.gddr.get a) ∧ ∀ a, t.mem.flash.get a = s.mem.flash.get a

/-- Every byte of every scratchpad reads as before. -/
def SameScratch (s t : State) : Prop := ∀ u a, (t.core u).scratch.get a = (s.core u).scratch.get a

/-- Every byte of memory reads as before. -/
def SameMemory (s t : State) : Prop := SameDevice s t ∧ SameScratch s t

/-- The threads of a list exist. -/
def Present (s : State) (l : List Nat) : Prop := ∀ x ∈ l, (alookup s.work.threads x).isSome

/-- Every thread outside a list is as before: its names, predicates, outstanding writes, return-pin stack and checkpoint. -/
def OtherThreads (s t : State) (l : List Nat) : Prop := ∀ x, x ∉ l → t.thread x = s.thread x

/-- Every cohort but one is as before. -/
def OtherCohorts (s t : State) (id : Nat) : Prop := ∀ k, k ≠ id → t.cohort? k = s.cohort? k

/-- A word has issued and its cohort goes on at a PC: its stall count holds the next word back, no wait of the word's own
holds it, and its uniform registers, its threads and its pending groups are as before (R255). -/
def IssuedAt (s t : State) (r : Ready) (a : Acc) (pc : Word) : Prop :=
  (t.cohort r.id).pc = pc ∧ (t.cohort r.id).nextIssue = s.sched.clk + 1 + a.st ∧
  (t.cohort r.id).wait = .none ∧ (t.cohort r.id).uregs = (s.cohort r.id).uregs ∧
  (t.cohort r.id).active = (s.cohort r.id).active ∧ (t.cohort r.id).groups = (s.cohort r.id).groups ∧
  (t.cohort r.id).stop = (s.cohort r.id).stop

/-- It goes on at the word behind (R248). -/
def MovedOn (s t : State) (r : Ready) (a : Acc) : Prop := IssuedAt s t r a (pcAdd (s.cohort r.id).pc a.len)

/-- A word leaves all but its own threads, its cohort and the issue's bookkeeping as they were: memory, surfaces, the
hub's tables, the configuration, the queues of records, the other threads and cohorts. -/
def OnlyRegisters (s t : State) (r : Ready) : Prop :=
  t.mem = s.mem ∧ t.surf = s.surf ∧ t.draw = s.draw ∧ t.cfg = s.cfg ∧ t.host = s.host ∧ SameMemory s t ∧
  OtherThreads s t r.ths ∧ OtherCohorts s t r.id

/-- A word leaves the bytes of memory, the surfaces, the draw pipeline, the configuration, the hub's tables and queues, the
other threads and the other cohorts as they were; the caches, the directory and the instruction stores may differ. -/
def KeepsBytes (s t : State) (r : Ready) : Prop :=
  SameMemory s t ∧ t.surf = s.surf ∧ t.draw = s.draw ∧ t.cfg = s.cfg ∧ t.host = s.host ∧
  OtherThreads s t r.ths ∧ OtherCohorts s t r.id

/-- An outstanding write of a thread's name: its value, its write time or, for a scoreboarded one, the earliest (R70, R256). -/
def NameWrite (t : State) (th n : Nat) (var : Bool) (due : Nat) (v : Nat) : Prop :=
  ∃ p ∈ (t.thread th).writes, p.tgt = .name n ∧ p.var = var ∧ p.due = due ∧ p.val = BitVec.ofNat 64 v

/-- An outstanding write of a thread's predicate. -/
def PredWrite (t : State) (th q : Nat) (var : Bool) (due : Nat) (v : Bool) : Prop :=
  ∃ p ∈ (t.thread th).writes, p.tgt = .pred q ∧ p.var = var ∧ p.due = due ∧ p.val = if v then 1 else 0

/-- An outstanding write of a cohort's uniform register. -/
def UregWrite (t : State) (id n : Nat) (var : Bool) (due : Nat) (v : DWord) : Prop :=
  ∃ p ∈ (t.cohort id).writes, p.tgt = .ureg n ∧ p.var = var ∧ p.due = due ∧ p.val = v

/-- A scoreboarded result in a thread's name, a thread's predicate or a uniform register: an outstanding write that may take
effect from some later cycle on (R256). -/
def NameResult (s t : State) (th n v : Nat) : Prop := ∃ due, s.sched.clk < due ∧ NameWrite t th n true due v
def PredResult (s t : State) (th q : Nat) (v : Bool) : Prop := ∃ due, s.sched.clk < due ∧ PredWrite t th q true due v
def UregResult (s t : State) (id n : Nat) (v : DWord) : Prop := ∃ due, s.sched.clk < due ∧ UregWrite t id n true due v

/-- Two places of accesses of a width share a byte. -/
def Loc.meets (n : Nat) : Loc → Loc → Prop
  | .pa a _, .pa b _ => a < b + n ∧ b < a + n
  | .scratch u a, .scratch v b => u = v ∧ a < b + n ∧ b < a + n
  | _, _ => False

/-- Every byte outside the bytes of a width at some places reads as before. -/
def OnlyStored (s t : State) (n : Nat) (ps : List Loc) : Prop :=
  (∀ a, t.mem.flash.get a = s.mem.flash.get a) ∧
  (∀ a, (∀ b leaf, Loc.pa b leaf ∈ ps → ¬(b ≤ a ∧ a < b + n)) → t.mem.gddr.get a = s.mem.gddr.get a) ∧
  ∀ u a, (∀ b, Loc.scratch u b ∈ ps → ¬(b ≤ a ∧ a < b + n)) → (t.core u).scratch.get a = (s.core u).scratch.get a

/-- A storing word leaves the surfaces, the draw pipeline, the configuration, the hub's tables and queues, the other threads
and the other cohorts as they were. -/
def KeepsOthers (s t : State) (r : Ready) : Prop :=
  t.surf = s.surf ∧ t.draw = s.draw ∧ t.cfg = s.cfg ∧ t.host = s.host ∧ OtherThreads s t r.ths ∧ OtherCohorts s t r.id

section Tables

/-- The bits of an address that index a table of a level (R417). -/
def vaIndex (va : Nat) : Nat → Nat
  | 0 => nfld va 51 42
  | 1 => nfld va 41 31
  | 2 => nfld va 30 21
  | _ => nfld va 20 12

/-- Bytes that a leaf of a level covers (R417). -/
def leafBytes (l : Nat) : Nat := if l = 1 then 2 ^ 31 else if l = 2 then 2 ^ 21 else 2 ^ 12

/-- An entry of a level is a well-formed table entry (R417). -/
def IsTable (l e : Nat) : Prop :=
  nfld e 0 0 = 1 ∧ nfld e 3 3 = 0 ∧ l < 3 ∧ nfld e 63 52 = 0 ∧ nfld e 11 4 = 0 ∧ nfld e 2 1 = 0 ∧ nfld e 51 38 = 0 ∧
  (l = 0 → nfld e 13 12 = 0) ∧ (l = 1 → nfld e 12 12 = 0)

/-- An entry of a level is a well-formed leaf (R417). -/
def IsLeaf (l e : Nat) : Prop :=
  nfld e 0 0 = 1 ∧ nfld e 3 3 = 1 ∧ l ≠ 0 ∧ nfld e 63 52 = 0 ∧ nfld e 11 10 = 0 ∧ (nfld e 9 9 = 1 → l = 3) ∧
  nfld e 8 7 ≠ 3 ∧ ¬(nfld e 5 5 = 1 ∧ nfld e 4 4 = 1) ∧
  (nfld e 5 5 = 0 → nfld e 4 4 = 0 → nfld e 51 38 = 0 ∧ nfld e 51 12 * 4096 % leafBytes l = 0)

/-- The walk of an address in a context reads an entry at a level: it has come there through table entries (R417). -/
def EntryAt (s : State) (ctx va : Nat) : Nat → Nat → Prop
  | 0, e => e = leNat (readPa s (nfld (ctxOf s ctx).ptroot.toNat 51 12 * 4096 + 8 * vaIndex va 0) 8)
  | l + 1, e => ∃ t, EntryAt s ctx va l t ∧ IsTable l t ∧ e = leNat (readPa s (nfld t 37 12 * 4096 + 8 * vaIndex va (l + 1)) 8)

/-- The physical address, or that in flash or at a peer, of an address under a leaf. -/
def leafTarget (l e va : Nat) : Nat := nfld e 51 12 * 4096 + va % leafBytes l

/-- Whatever a unit's TLBs hold for an address is what the leaf says (R418). -/
def TlbAgrees (s : State) (unit ctx va l e : Nat) : Prop :=
  ∀ h ∈ (s.core unit).tlb ++ clusterTlb s unit, h.ctx = ctx → h.page ≤ va / 4096 → va / 4096 < h.page + h.pages →
    h.leaf.toNat % 4096 = e % 4096 ∧ leafAddr h.leaf h.page va = leafTarget l e va

/-- A range of a context lies in one GDDR7 page, at a physical address, which the hub may read and write (R165, R417). -/
def HubAt (s : State) (ctx va n pa : Nat) : Prop :=
  va < 2 ^ 52 ∧ (ctxOf s ctx).xlen = true ∧ va % 4096 + n ≤ 4096 ∧
  ∃ l e, EntryAt s ctx va l e ∧ IsLeaf l e ∧ nfld e 6 4 = 0 ∧ nfld e 1 1 = 1 ∧ pa = leafTarget l e va

/-- No table entry that the hub reads for an address lies in a range of GDDR7. -/
def TablesApart (s : State) (ctx va pa n : Nat) : Prop :=
  ∀ g ∈ walkSegs s none ctx va, g * 4096 + 4096 ≤ pa ∨ pa + n ≤ g * 4096

end Tables

section FloatingPoint

/-- An encoding without its sign bit. -/
def Fmt.mag (k : Fmt) (n : Nat) : Nat := n % 2 ^ (k.w - 1)

/-- What an encoding stands for (R102 to R104): a finite value, an infinity or a NaN. -/
abbrev Fmt.Finite (k : Fmt) (n : Nat) : Prop := n < 2 ^ k.w ∧ k.mag n ≤ k.top
abbrev Fmt.IsInf (k : Fmt) (n : Nat) : Prop := k.hasInf = true ∧ k.mag n = k.top + 1
abbrev Fmt.IsNan (k : Fmt) (n : Nat) : Prop := k.top + k.hasInf.toNat < k.mag n

/-- The value of an encoding in units of the format's smallest subnormal, 2^(1 − bias − f) (R103); an infinity is above every
finite value. -/
def Fmt.units (k : Fmt) (n : Nat) : Int :=
  let m := k.mag n
  let e := m / 2 ^ k.f
  let v : Nat := if e = 0 then m else (2 ^ k.f + m % 2 ^ k.f) * 2 ^ (e - 1)
  if n.testBit (k.w - 1) then -(v : Int) else v

/-- The units of 1. -/
def Fmt.one (k : Fmt) : Nat := 2 ^ (k.bias + k.f - 1)

/-- An encoding is the value num / den units, which is not 0, rounded in a mode (R109 to R111): to nearest, ties to even; toward
zero; upward; downward; with the overflow of the mode, and the sign of the exact value on a zero. -/
def Fmt.IsRound (k : Fmt) (rm : Rm) (num : Int) (den : Nat) (r : Nat) : Prop :=
  let u := k.units
  let off (x : Nat) : Nat := (u x * den - num).natAbs
  let top := u k.top
  let limit := (2 * top + (top - u (k.top - 1))) * den
  r < 2 ^ k.w ∧ r.testBit (k.w - 1) = decide (num < 0) ∧
  (k.hasInf = false → top * den < (num.natAbs : Int) → k.mag r = k.top) ∧
  (k.Finite r →
    (rm = 0 → (∀ x, k.Finite x → off r ≤ off x ∧ (off x = off r → u x = u r ∨ r % 2 = 0)) ∧
      (k.hasInf = true → 2 * (num.natAbs : Int) < limit)) ∧
    (rm = 1 → (u r * den).natAbs ≤ num.natAbs ∧
      ∀ x, k.Finite x → (u x * den).natAbs ≤ num.natAbs → (u x).natAbs ≤ (u r).natAbs) ∧
    (rm = 2 → (num ≤ top * den → num ≤ u r * den) ∧ ∀ x, k.Finite x → num ≤ u x * den → u r ≤ u x) ∧
    (rm = 3 → (-(top * den) ≤ num → u r * den ≤ num) ∧ ∀ x, k.Finite x → u x * den ≤ num → u x ≤ u r)) ∧
  (¬k.Finite r → k.IsInf r ∧ rm ≠ 1 ∧ (rm = 0 → limit ≤ 2 * (num.natAbs : Int)) ∧ (rm = 2 → top * den < num) ∧
    (rm = 3 → num < -(top * den)))

/-- A value of so many units is an integer, rounded in a mode (R109, R110). -/
def IsRounded (rm : Rm) (one : Nat) (v n : Int) : Prop :=
  (rm = 0 → 2 * (n * one - v).natAbs ≤ one ∧ (2 * (n * one - v).natAbs = one → n % 2 = 0)) ∧
  (rm = 1 → n = v.tdiv one) ∧ (rm = 2 → v ≤ n * one ∧ n * one < v + one) ∧ (rm = 3 → n * one ≤ v ∧ v < n * one + one)

end FloatingPoint

/-- A compute word whose result is a function of one thread's operands: its opcode, its operands in their form, and what it
computes. -/
structure ComputeRow where
  op : Nat
  u : Alu
  f : AluIn → Res

/-- The compute words that compute from one thread's operands, form by form (R317, R323 to R340). -/
def computeRow : Instr → Option ComputeRow
  | .addBase o => some ⟨0x00, Alu.ofBase 0x00 .vec o none, addRes⟩
  | .add f => some ⟨0x00, Alu.ofForm 0x00 f, addRes⟩
  | .subBase o => some ⟨0x01, Alu.ofBase 0x01 .vec o none, subRes⟩
  | .sub f => some ⟨0x01, Alu.ofForm 0x01 f, subRes⟩
  | .mulBase o => some ⟨0x02, Alu.ofBase 0x02 .vec o none, mulRes⟩
  | .mul f => some ⟨0x02, Alu.ofForm 0x02 f, mulRes⟩
  | .mulhiBase o => some ⟨0x03, Alu.ofBase 0x03 .vec o none, mulhiRes⟩
  | .mulhi f => some ⟨0x03, Alu.ofForm 0x03 f, mulhiRes⟩
  | .mad f => some ⟨0x04, Alu.ofForm 0x04 f, madRes⟩
  | .madw f => some ⟨0x05, Alu.ofForm 0x05 f, madwRes⟩
  | .absBase o => some ⟨0x06, Alu.ofBase 0x06 .vec o none, absRes⟩
  | .abs f => some ⟨0x06, Alu.ofForm 0x06 f, absRes⟩
  | .minBase o => some ⟨0x07, Alu.ofBase 0x07 .vec o none, minRes⟩
  | .min f => some ⟨0x07, Alu.ofForm 0x07 f, minRes⟩
  | .maxBase o => some ⟨0x08, Alu.ofBase 0x08 .vec o none, maxRes⟩
  | .max f => some ⟨0x08, Alu.ofForm 0x08 f, maxRes⟩
  | .addwBase o => some ⟨0x09, Alu.ofBase 0x09 .vec o none, addwRes⟩
  | .addw f => some ⟨0x09, Alu.ofForm 0x09 f, addwRes⟩
  | .subwBase o => some ⟨0x0A, Alu.ofBase 0x0A .vec o none, subwRes⟩
  | .subw f => some ⟨0x0A, Alu.ofForm 0x0A f, subwRes⟩
  | .cvti f => some ⟨0x0B, Alu.ofForm 0x0B f, cvtiRes⟩
  | .andBase o => some ⟨0x10, Alu.ofBase 0x10 .vec o none, andRes⟩
  | .and f => some ⟨0x10, Alu.ofForm 0x10 f, andRes⟩
  | .orBase o => some ⟨0x11, Alu.ofBase 0x11 .vec o none, orRes⟩
  | .or f => some ⟨0x11, Alu.ofForm 0x11 f, orRes⟩
  | .xorBase o => some ⟨0x12, Alu.ofBase 0x12 .vec o none, xorRes⟩
  | .xor f => some ⟨0x12, Alu.ofForm 0x12 f, xorRes⟩
  | .andnBase o => some ⟨0x13, Alu.ofBase 0x13 .vec o none, andnRes⟩
  | .andn f => some ⟨0x13, Alu.ofForm 0x13 f, andnRes⟩
  | .shlBase o => some ⟨0x14, Alu.ofBase 0x14 .vec o none, shlRes⟩
  | .shl f => some ⟨0x14, Alu.ofForm 0x14 f, shlRes⟩
  | .shrBase o => some ⟨0x15, Alu.ofBase 0x15 .vec o none, shrRes⟩
  | .shr f => some ⟨0x15, Alu.ofForm 0x15 f, shrRes⟩
  | .sarBase o => some ⟨0x16, Alu.ofBase 0x16 .vec o none, sarRes⟩
  | .sar f => some ⟨0x16, Alu.ofForm 0x16 f, sarRes⟩
  | .rotBase o => some ⟨0x17, Alu.ofBase 0x17 .vec o none, rotRes⟩
  | .rot f => some ⟨0x17, Alu.ofForm 0x17 f, rotRes⟩
  | .fsh f => some ⟨0x18, Alu.ofForm 0x18 f, fshRes⟩
  | .bfx f => some ⟨0x19, Alu.ofForm 0x19 f, bfxRes⟩
  | .bfi f => some ⟨0x1A, Alu.ofForm 0x1A f, bfiRes⟩
  | .pcntBase o => some ⟨0x1B, Alu.ofBase 0x1B .vec o none, pcntRes⟩
  | .pcnt f => some ⟨0x1B, Alu.ofForm 0x1B f, pcntRes⟩
  | .clzBase o => some ⟨0x1C, Alu.ofBase 0x1C .vec o none, clzRes⟩
  | .clz f => some ⟨0x1C, Alu.ofForm 0x1C f, clzRes⟩
  | .brevBase o => some ⟨0x1D, Alu.ofBase 0x1D .vec o none, brevRes⟩
  | .brev f => some ⟨0x1D, Alu.ofForm 0x1D f, brevRes⟩
  | .cmp f => some ⟨0x20, Alu.ofForm 0x20 f, (cmpRes (cmpWidth f))⟩
  | .sel f => some ⟨0x21, Alu.ofForm 0x21 f, selRes⟩
  | .movBase o => some ⟨0x22, Alu.ofBase 0x22 .vec o none, movRes⟩
  | .mov f => some ⟨0x22, Alu.ofForm 0x22 f, movRes⟩
  | .movl f => some ⟨0x23, Alu.ofForm 0x23 f, movlRes⟩
  | .plop f => some ⟨0x24, Alu.ofForm 0x24 f, plopRes⟩
  | .faddBase o => some ⟨0x30, Alu.ofBase 0x30 .vec o none, faddRes⟩
  | .fadd f => some ⟨0x30, Alu.ofForm 0x30 f, faddRes⟩
  | .fsubBase o => some ⟨0x31, Alu.ofBase 0x31 .vec o none, fsubRes⟩
  | .fsub f => some ⟨0x31, Alu.ofForm 0x31 f, fsubRes⟩
  | .fmulBase o => some ⟨0x32, Alu.ofBase 0x32 .vec o none, fmulRes⟩
  | .fmul f => some ⟨0x32, Alu.ofForm 0x32 f, fmulRes⟩
  | .ffma f => some ⟨0x33, Alu.ofForm 0x33 f, ffmaRes⟩
  | .fminBase o => some ⟨0x34, Alu.ofBase 0x34 .vec o none, fminRes⟩
  | .fmin f => some ⟨0x34, Alu.ofForm 0x34 f, fminRes⟩
  | .fmaxBase o => some ⟨0x35, Alu.ofBase 0x35 .vec o none, fmaxRes⟩
  | .fmax f => some ⟨0x35, Alu.ofForm 0x35 f, fmaxRes⟩
  | .fcmp f => some ⟨0x36, Alu.ofForm 0x36 f, fcmpRes⟩
  | .frnd f => some ⟨0x37, Alu.ofForm 0x37 f, frndRes⟩
  | .fclass f => some ⟨0x38, Alu.ofForm 0x38 f, fclassRes⟩
  | .fdivBase o => some ⟨0x40, Alu.ofBase 0x40 .vec o none, fdivRes⟩
  | .fdiv f => some ⟨0x40, Alu.ofForm 0x40 f, fdivRes⟩
  | .frcpBase o => some ⟨0x41, Alu.ofBase 0x41 .vec o none, frcpRes⟩
  | .frcp f => some ⟨0x41, Alu.ofForm 0x41 f, frcpRes⟩
  | .frsqBase o => some ⟨0x42, Alu.ofBase 0x42 .vec o none, frsqRes⟩
  | .frsq f => some ⟨0x42, Alu.ofForm 0x42 f, frsqRes⟩
  | .fsqrtBase o => some ⟨0x43, Alu.ofBase 0x43 .vec o none, fsqrtRes⟩
  | .fsqrt f => some ⟨0x43, Alu.ofForm 0x43 f, fsqrtRes⟩
  | .fex2Base o => some ⟨0x44, Alu.ofBase 0x44 .vec o none, fex2Res⟩
  | .fex2 f => some ⟨0x44, Alu.ofForm 0x44 f, fex2Res⟩
  | .flg2Base o => some ⟨0x45, Alu.ofBase 0x45 .vec o none, flg2Res⟩
  | .flg2 f => some ⟨0x45, Alu.ofForm 0x45 f, flg2Res⟩
  | .fsinpiBase o => some ⟨0x46, Alu.ofBase 0x46 .vec o none, fsinpiRes⟩
  | .fsinpi f => some ⟨0x46, Alu.ofForm 0x46 f, fsinpiRes⟩
  | .fcospiBase o => some ⟨0x47, Alu.ofBase 0x47 .vec o none, fcospiRes⟩
  | .fcospi f => some ⟨0x47, Alu.ofForm 0x47 f, fcospiRes⟩
  | .hadd2Base o => some ⟨0x50, Alu.ofBase 0x50 .vec o none, hadd2Res⟩
  | .hadd2 f => some ⟨0x50, Alu.ofForm 0x50 f, hadd2Res⟩
  | .hmul2Base o => some ⟨0x51, Alu.ofBase 0x51 .vec o none, hmul2Res⟩
  | .hmul2 f => some ⟨0x51, Alu.ofForm 0x51 f, hmul2Res⟩
  | .hfma2 f => some ⟨0x52, Alu.ofForm 0x52 f, hfma2Res⟩
  | .hmin2Base o => some ⟨0x53, Alu.ofBase 0x53 .vec o none, hmin2Res⟩
  | .hmin2 f => some ⟨0x53, Alu.ofForm 0x53 f, hmin2Res⟩
  | .hmax2Base o => some ⟨0x54, Alu.ofBase 0x54 .vec o none, hmax2Res⟩
  | .hmax2 f => some ⟨0x54, Alu.ofForm 0x54 f, hmax2Res⟩
  | .bfma2 f => some ⟨0x55, Alu.ofForm 0x55 f, bfma2Res⟩
  | .cvt f => some ⟨0x60, Alu.ofForm 0x60 f, cvtRes⟩
  | .pack f => some ⟨0x61, Alu.ofForm 0x61 f, packRes⟩
  | .unpack f => some ⟨0x62, Alu.ofForm 0x62 f, unpackRes⟩
  | .dp4o f => some ⟨0x70, Alu.ofForm 0x70 f, dp4oRes⟩
  | .dp8o f => some ⟨0x71, Alu.ofForm 0x71 f, dp8oRes⟩
  | .dp2h f => some ⟨0x72, Alu.ofForm 0x72 f, dp2hRes⟩
  | _ => none

end Sys2Proof.Machine
end

