-- ==== Sys2Proof/Certificates/Slice0/Obligations.lean ====
section
/-! DEFINITION. The statements: what the instructions and the machine do, by the rules of the spec. -/

open Sys2Proof Sys2Proof.Machine

/-- Words written out from the encoding tables of the manual decode to the instructions they stand for, form by form (R241 to
R249, R259 to R262), and words that a check of R253 fails decode to that check's trap. -/
def Obligations.DecodeWords : Prop :=
  let hub : DecodeCtx := ⟨true, 128, 8⟩
  let o (i : BitVec 8) : Opnd := ⟨false, false, i⟩
  let x (mod : BitVec 10) (d a b c : Opnd) : Ext := ⟨0, 7, false, 7, mod, d, a, b, 0, c, 0, 0⟩
  decode hub [0x18001C4C] = .ok (.addBase ⟨3, 7, 9, true, 0⟩, 1) ∧
  decode hub [0x0A001440] = .ok (.add (.ub ⟨1, 5, 8, false, 0⟩), 1) ∧
  decode hub [0x80001440, 0x000186A0, 0] = .ok (.add (.bl .vec ⟨0, 5, 8, false, 0⟩ 100000), 3) ∧
  decode hub [0x4061DC00, 0x0280A00D, 0x00100000] =
    .ok (.fadd (.e .vec { x 0 (o 10) (o 10) (o 3) (o 0) with pbs := 1, km1 := 1 }), 3) ∧
  decode hub [0x4066BD00, 0x03004850, 0x41800000] =
    .ok (.ffma (.e .vec { x 0x100 (o 12) (o 4) ⟨true, false, 20⟩ ⟨false, true, 6⟩ with pg := 2, pn := true }), 3) ∧
  decode hub [0xC00BDC01, 0x00800000, 0x81000000, 12, 0] =
    .ok (.madw (.el .vec (x 1 (o 2) (o 0) (o 0) ⟨true, false, 4⟩) 12), 5) ∧
  decode hub [0x41FE0388, 0x01020383, 0x8D050600] =
    .ok (.pairWord ⟨0, ⟨0, 7, 8, false, 1, false, 2, false, 3⟩, ⟨0x20, 7, 13, false, 5, false, 6, false, 0⟩⟩, 3) ∧
  decode hub [0x4601DC23, 0x01604008, 0x40] =
    .ok (.ld ⟨{ x 0x23 (o 5) ⟨true, false, 4⟩ (o 2) (o 0) with imm := 0x40 }, none⟩, 3) ∧
  decode hub [0x4709DF11, 0x00214854, 0] =
    .ok (.mma64 ⟨x 0x311 (o 0) ⟨true, false, 20⟩ ⟨true, false, 21⟩ (o 0), none⟩, 3) ∧
  (∀ ctx, decode ctx [] = .error .illegalOpcode) ∧
  decode hub [0x4061DC00, 0x0280A00D] = .error .illegalOpcode ∧
  decode hub [0x00160000] = .error .illegalOpcode ∧
  decode ⟨false, 128, 8⟩ [0x4509DC00, 0x80A01000, 0] = .error .privileged ∧
  decode ⟨false, 8, 8⟩ [0x00002440] = .error .illegalField ∧
  decode hub [0x41FE0388, 0x01020383, 0x8C050600] = .error .illegalPair

/-- Every well-formed word is read back from its encoding, with every operand at every value the encoding admits, in proctor
mode with all 128 names and all levels (R241 to R253). -/
def Obligations.EncodeDecode : Prop :=
  ∀ i : Instr, i.isWord = true → i.wf = true → decode ⟨true, 128, 8⟩ (encode i) = .ok (i, (encode i).length)

/-- What decodes, in whatever mode, is a well-formed word, and the words it was read from are its encoding (R241 to R253). -/
def Obligations.DecodeEncode : Prop :=
  ∀ (ctx : DecodeCtx) (ws : List Word) (i : Instr) (n : Nat), decode ctx ws = .ok (i, n) →
    i.isWord = true ∧ i.wf = true ∧ n ≤ ws.length ∧ encode i = ws.take n

/-- A step runs the decoded instruction (the form in which inputs and moves come is the model's, log entry 1, and which of
the open moves comes is free, log entry 2): a cohort that its partition selects performs the instruction that the words at its
PC decode to, or takes the trap of the decode check that they fail (R38, R89, R248, R253); where R39 permits a second word and
it comes, that word; an event is performed with its data; a cycle ends when no partition has a cohort to try, with every
fixed-latency write that is then due performed (R70), and with whatever waited for its turn and now has it (R157, R171, R178). What a step adds
around an instruction is the record of the image's use (R96), of the cohort that issues and of whether the word is the second
of its cycle. -/
def Obligations.StepRunsWord : Prop :=
  ∀ s : State,
    let run (t : State) (id : Nat) : Prop :=
      (∀ i n, decode (decodeCtx t (t.cohort id)) (fetch t (t.cohort id)) = .ok (i, n) →
        step s = exec i ((useImage t (t.cohort id)).modSched fun x => { x with cur := some id })) ∧
      ∀ e, decode (decodeCtx t (t.cohort id)) (fetch t (t.cohort id)) = .error e →
        step s = .next (decodeTrap t id e (fetch t (t.cohort id)))
    let drawn := s.modSched fun x => { x with fresh := x.fresh + 1 }
    (s.sched.agenda = [] → s.sched.budget = 0 → s.sched.dual = none → openSlots s ≠ [] →
      ∃ slot ∈ openSlots s, (select drawn slot).isSome ∧ ∀ id s2, select drawn slot = some (id, s2) → run (noSecond s2) id) ∧
    (s.sched.agenda = [] → ∀ id c d, maySecond s = some (id, c, d) → Config.freeBit s.sched.fresh = true →
      run (drawn.modSched fun x => { x with dual := some { d with second := true } }) id) ∧
    ∀ (m : Move) (rest : List Move), s.sched.agenda = m :: rest →
      let s1 := s.modSched fun x => { x with agenda := rest }
      (∀ id c, m = .issue id → s.cohort? id = some c →
        (∀ s2, slotOpen s1 c.slot = true → select s1 c.slot = some (id, s2) → run (noSecond s2) id) ∧
        (slotOpen s1 c.slot = false ∨ (select s1 c.slot).map Prod.fst ≠ some id → step s = .next s1)) ∧
      (∀ id, m = .issue id → s.cohort? id = none → step s = .next s1) ∧
      (∀ i a, m = .op i a → step s = if i.isWord then .next s1 else exec i (s1.modSched fun x => { x with arg := a })) ∧
      (m = .tick → openSlots s1 ≠ [] → step s = .next s1) ∧
      (m = .tick → openSlots s1 = [] →
        let t := tick s1
        step s = .next (serveWaiting (serveReqs t)) ∧
        (s.surf.reqs = [] → s.surf.order = [] → s.host.inbox = [] → s.host.launches = [] → t.mem.waiting = [] →
          step s = .next t) ∧
        t.sched.clk = s.sched.clk + 1 ∧ t.sched.served = [] ∧ t.mem.gddr = s.mem.gddr ∧ t.mem.flash = s.mem.flash ∧
        t.surf = s.surf ∧ t.cfg = s.cfg ∧ t.host = s.host ∧
        ((∀ x ∈ s.cores, x.2.convDue (s.sched.clk + 1) = false) → t.cores = s.cores) ∧
        (∀ x th, alookup s.work.threads x = some th →
          (t.thread x).names = (th.settle (Pend.isDue (s.sched.clk + 1))).names ∧
          (t.thread x).preds = (th.settle (Pend.isDue (s.sched.clk + 1))).preds ∧
          (Rising s.work.threads → (∀ p ∈ th.writes, p.seat = none) →
            (t.thread x).writes = (th.settle (Pend.isDue (s.sched.clk + 1))).writes)) ∧
        ∀ x c, s.cohort? x = some c → (t.cohort x).uregs = (c.settle (Pend.isDue (s.sched.clk + 1))).uregs ∧
          (t.cohort x).pc = c.pc)

/-- The step that runs what `withFetchWord` places fetches it: when an instruction of the table decodes, the next step is its
meaning (log entry 6). -/
def Obligations.PlacedWordRuns : Prop :=
  ∀ (nbits w : Nat) (i : Instr), decodeTableWord nbits w = some i →
    ∃ t : State, step (State.reset.withFetchWord nbits w) = exec i t ∧ t.mem = State.reset.mem ∧ t.cfg = State.reset.cfg ∧
      t.sched.agenda = [] ∧ (t.sched.cur.bind t.cohort?).isSome

/-- The machine after reset: booting, the clock at 0, every core at carve-out setting 2 with all tags clear, completion
counters and the event sources' sequence numbers at 0, breakpoints on, the quota of tenant 0 at 64, no launch, team or
thread, and the memories in their canonical form. -/
def Obligations.ResetState : Prop :=
  let s := State.reset
  s.host.mode = .booting ∧ s.sched.clk = 0 ∧
  (∀ u, (s.core u).carve = 2 ∧ (∀ n, tagAt s u n = ⟨0, false, false⟩) ∧ (s.core u).bken = true ∧
    (∀ t, quotaOf (s.core u) t = if t = 0 then 64 else 0) ∧ (s.core u).pcap = 0 ∧ (s.core u).uefence = 0 ∧
    (s.core u).ovfl = 0 ∧ (s.core u).retain = 50000 ∧ (s.core u).safelim = 17500 ∧ (s.core u).drain = 35000) ∧
  (∀ n, counterAt s n = 0) ∧ (∀ src, alookup s.host.seqs src = none) ∧
  (∀ x, controlKey s x = if x = 0 then some s.host.provKey else none) ∧
  s.cfg.priv = false ∧ s.work.threads = [] ∧ s.work.cohorts = [] ∧ s.work.teams = [] ∧ s.work.launches = [] ∧ MemOk s

/-- Every step keeps the memories in their canonical form: addresses strictly rising, no zero byte listed (the model's own
form of memory, log entry 4). -/
def Obligations.MemoryFormKept : Prop :=
  ∀ s t : State, MemOk s → step s = .next t → MemOk t

/-- Taking a trap (R405 to R412): the cohort is stopped at its word with the trap's code, the core's next stop number and a
handle made of it. The outstanding writes of its threads and of its uniform registers take effect, all but those of surface
accesses that are still to be performed; other threads, memory, the configuration and the surfaces are as before, and so is every
other cohort, but for a record that ends a wait of the cluster's proctor. A core's record goes to its cluster's fault queue,
behind those it holds, or waits at the core; a PAGE_FAULT record that agrees with a queued one in context, page, cause, access
class and NOSTOP raises that record's count, and the cohort joins its group (R412); a cluster proctor's trap is an event record at the hub proctor and the host, the hub
proctor's puts the device into the safe state. The form of the record and of the event's arguments is the model's where the
spec leaves them open (log entries 17, 18, 51). -/
def Obligations.TakeTrap : Prop :=
  ∀ (s : State) (id : Nat) (c : Cohort) (len : Nat) (code : TrapCode) (i : TrapInfo), s.cohort? id = some c →
    let t := takeTrap s id len code i
    let n := (s.core c.unit).stopno + 1
    let th := s.thread (trapThread c i)
    let rpc := if i.after then pcAdd c.pc len else c.pc
    let r : TrapRec := {
      code := code, cause := i.cause, core := c.unit, ctx := (s.planC c).ctx, handle := handleOf n c, rpc := rpc, tpc := c.pc,
      lin := th.lin, lane := th.lane, info0 := i.i0, info1 := i.i1, info2 := i.i2, info3 := i.i3 }
    let q := (alookup s.host.faultq (clusterOf c.unit)).getD []
    (∃ st, (t.cohort id).stop = some st ∧ st.code = code ∧ st.stopno = n ∧ st.rpc = rpc ∧ st.tpc = c.pc ∧ st.len = len ∧
      st.handle = handleOf n c) ∧
    (t.core c.unit).stopno = n ∧ (t.cohort id).pc = c.pc ∧ (t.cohort id).active = c.active ∧
    (t.cohort id).groups = c.groups ∧ t.mem = s.mem ∧ t.surf = s.surf ∧ t.draw = s.draw ∧ t.cfg = s.cfg ∧
    (∀ x, x ∉ c.active ++ c.groups.flatMap Group.threads → t.thread x = s.thread x) ∧
    (∀ x ∈ c.active ++ c.groups.flatMap Group.threads, t.thread x = (s.thread x).settle (fun p => !p.held) ∧
      ∀ p n, (s.thread x).writes = [p] → p.held = false → p.release = false → p.tgt = .name n →
        (t.thread x).writes = [] ∧ (t.thread x).readName n = p.val.setWidth 32 ∧
        ∀ m, m ≠ n → (t.thread x).readName m = (s.thread x).readName m) ∧
    (t.cohort id).uregs = (c.settle fun _ => true).uregs ∧ (t.cohort id).writes = [] ∧
    (∀ p n, c.writes = [p] → p.tgt = .ureg n → (t.cohort id).readUreg n = p.val ∧
      ∀ m, m ≠ n → (t.cohort id).readUreg m = c.readUreg m) ∧
    (∀ k, k ≠ id → s.cohort? k = none → t.cohort? k = none) ∧
    (∀ k d, k ≠ id → s.cohort? k = some d → (∀ st, d.stop = some st → st.handle ≠ handleOf n c) →
      let woken := c.priv = false ∧ (s.core c.unit).held = [] ∧ q = [] ∧ d.priv = true ∧ d.unit = 256 + clusterOf c.unit ∧
        ∃ m, d.wait = .clock m true
      (¬woken → t.cohort? k = some d) ∧ (woken → t.cohort? k = some { d with wait := .none })) ∧
    (c.priv = true → c.unit = hubUnit → t.host = { s.host with mode := .safe }) ∧
    (c.priv = true → c.unit ≠ hubUnit → t.host.faultq = s.host.faultq ∧ t.host.mode = s.host.mode ∧
      ∃ e : EventRec, e.src = 0x0210 + clusterOf c.unit ∧ e.kind = 0x0050 ∧ e.ctx = 0 ∧ e.arg1.toNat = code.num ∧
        e.clk = s.sched.clk ∧ (clusterOf c.unit < 32 → e.arg0.toNat = clusterOf c.unit) ∧
        (s.host.evq.length < 4096 → t.host.evq = s.host.evq ++ [e]) ∧
        (((alookup s.host.evp 32).getD []).length < 1024 →
          alookup t.host.evp 32 = some ((alookup s.host.evp 32).getD [] ++ [e]))) ∧
    (c.priv = false → (s.core c.unit).held = [] → ∀ before p behind, q = before ++ p :: behind →
      let joins (x : TrapRec) : Prop := x.code = .pageFault ∧ code = .pageFault ∧ x.ctx = r.ctx ∧
        x.info0.toNat / 4096 = r.info0.toNat / 4096 ∧ x.cause = r.cause ∧ x.isWrite = r.isWrite ∧ x.nostop = false
      joins p → (∀ x ∈ before, ¬joins x) → p.count < 65535 →
        alookup t.host.faultq (clusterOf c.unit) = some (before ++ { p with count := p.count + 1 } :: behind) ∧
        (t.core c.unit).held = [] ∧ ∃ st, (t.cohort id).stop = some st ∧ st.lead = p.handle) ∧
    (c.priv = false → (s.core c.unit).held = [] → coalesce r q = none → q.length < 256 →
      alookup t.host.faultq (clusterOf c.unit) = some (q ++ [r]) ∧ (t.core c.unit).held = []) ∧
    (c.priv = false → (s.core c.unit).held ≠ [] → (t.core c.unit).held = (s.core c.unit).held ++ [r] ∧ t.host = s.host) ∧
    (c.priv = false → (s.core c.unit).held = [] → coalesce r q = none → 256 ≤ q.length →
      (t.core c.unit).held = [r] ∧ t.host = s.host)

/-- A word of a compute row that writes vector names issues when its checks pass (R253, R256, R257): for every executing
thread the row's result is outstanding, to be written after the pipe's latency, or, scoreboarded, one cycle after the
issue at the earliest (R317 to R321, R256); its PC moves behind the word, and all but the threads that execute, the
cohort and the issue's bookkeeping stay as they were. What the float words compute (R102 to R116, R332 to R337): a sum,
difference, product or fused product is the exact one, rounded once in the word's mode, with the zeros, infinities and
NaNs of R111, R113 and R114; so are quotients and roots. The transcendental words are exact where the exact value is a
float. FMIN, FMAX and FCMP order the values, −0 below +0 in the first two; FRND gives an integral value, FCLASS a class.
What the converting words compute (R105, R108, R116, R118, R329, R331, R337 to R340): CVT rounds the exact value to the
destination format, or rounds it to an integer and clamps it; CVTI clamps and wraps; PACK and UNPACK convert and place
elements; the dot products are exact, DP2H rounded once; SEL picks by its predicate, MOV and MOVL move. -/
def Obligations.VectorComputeWords : Prop :=
  (∀ (i : Instr) (w : ComputeRow) (s : State) (r : Ready), computeRow i = some w → w.u.uni = false →
     prep s (w.u.full w.op) = .go r → Present s r.ths →
     ∃ t, exec i s = .next t ∧ MovedOn s t r w.u.acc ∧ OnlyRegisters s t r ∧
       (t.cohort r.id).writes = (s.cohort r.id).writes ∧
       ∀ x ∈ r.ths,
         (∀ k, k < w.u.dn → NameWrite t x (w.u.d + k) w.u.acc.lat.isNone (s.sched.clk + w.u.acc.lat.getD 1)
           (((w.f (w.u.ins s (s.cohort r.id) x)).d >>> (32 * k)) % 2 ^ 32)) ∧
         (w.u.pd < 7 → PredWrite t x w.u.pd w.u.acc.lat.isNone (s.sched.clk + w.u.acc.lat.getD 1)
           (w.f (w.u.ins s (s.cohort r.id) x)).p)) ∧
  ((∀ k ∈ [F32, F16, BF16], ∀ (rm : Rm) (a b c : Nat), rm < 4 → a < 2 ^ k.w → b < 2 ^ k.w → c < 2 ^ k.w →
     let u := k.units
     let sign := 2 ^ (k.w - 1)
     let signs : Nat := if a.testBit (k.w - 1) = b.testBit (k.w - 1) then 0 else sign
     (k.Finite a → k.Finite b →
       (u a + u b ≠ 0 → k.IsRound rm (u a + u b) 1 (k.add rm a b)) ∧
       (u a + u b = 0 → k.add rm a b = if a = b then a else if rm = 3 then sign else 0) ∧
       (u a * u b ≠ 0 → k.IsRound rm (u a * u b) k.one (k.mul rm a b)) ∧ (u a * u b = 0 → k.mul rm a b = signs) ∧
       (k.Finite c →
         (u a * u b + u c * k.one ≠ 0 → k.IsRound rm (u a * u b + u c * k.one) k.one (k.fma rm a b c)) ∧
         (u a * u b + u c * k.one = 0 → k.mag (k.fma rm a b c) = 0))) ∧
     k.add rm a b = k.add rm b a ∧ k.sub rm a b = k.add rm a (b ^^^ sign) ∧ k.mul rm a b = k.mul rm b a ∧
     (k.IsNan a → k.add rm a b = k.nan ∧ k.mul rm a b = k.nan ∧ k.fma rm a b c = k.nan ∧ k.fma rm b a c = k.nan ∧
       k.fma rm b c a = k.nan ∧ (k.IsNan b → k.min a b = k.nan ∧ k.max a b = k.nan) ∧
       (¬k.IsNan b → k.min a b = b ∧ k.max a b = b ∧ k.min b a = b ∧ k.max b a = b)) ∧
     (k.IsInf a → ¬k.IsNan b →
       k.add rm a b = (if k.IsInf b ∧ a ≠ b then k.nan else a) ∧
       k.mul rm a b = (if k.mag b = 0 then k.nan else signs + k.top + 1)) ∧
     (¬k.IsNan a → ¬k.IsNan b →
       k.min a b = (if u a < u b ∨ (u a = u b ∧ a.testBit (k.w - 1) = true) then a else b) ∧
       k.max a b = (if u b < u a ∨ (u a = u b ∧ a.testBit (k.w - 1) = false) then a else b))) ∧
   ∀ i : AluIn,
     let a := i.a % 2 ^ 32
     let b := i.b % 2 ^ 32
     let u := F32.units
     let one : Int := 2 ^ 149
     let signs : Nat := if a.testBit 31 = b.testBit 31 then 0 else 2 ^ 31
     let neg := a.testBit 31
     let special : List (AluIn → Res) := [frcpRes, frsqRes, fsqrtRes, fex2Res, flg2Res, fsinpiRes, fcospiRes, frndRes]
     ((faddRes i).d = F32.add i.rm a b ∧ (fsubRes i).d = F32.sub i.rm a b ∧ (fmulRes i).d = F32.mul i.rm a b ∧
       (ffmaRes i).d = F32.fma i.rm a b (i.c % 2 ^ 32) ∧ (fminRes i).d = F32.min a b ∧ (fmaxRes i).d = F32.max a b) ∧
     (F32.IsNan a → (fdivRes i).d = F32.nan ∧ ∀ f ∈ special, (f i).d = F32.nan) ∧ (F32.IsNan b → (fdivRes i).d = F32.nan) ∧
     (F32.Finite a → F32.Finite b →
       (u a ≠ 0 → u b ≠ 0 → F32.IsRound i.rm (u a * (u b).sign * one) (u b).natAbs (fdivRes i).d) ∧
       (u a ≠ 0 → u b = 0 → (fdivRes i).d = signs + 0x7F800000) ∧ (u a = 0 → u b = 0 → (fdivRes i).d = F32.nan) ∧
       (u a = 0 → u b ≠ 0 → (fdivRes i).d = signs)) ∧
     (F32.IsInf a → F32.Finite b → (fdivRes i).d = signs + 0x7F800000) ∧ (F32.IsInf a → F32.IsInf b → (fdivRes i).d = F32.nan) ∧
     (F32.Finite a → F32.IsInf b → (fdivRes i).d = signs) ∧
     (F32.IsInf a → (frcpRes i).d = a - 0x7F800000 ∧ (frsqRes i).d = (if neg then F32.nan else 0) ∧
       (fsqrtRes i).d = (if neg then F32.nan else a) ∧ (fex2Res i).d = (if neg then 0 else a) ∧
       (flg2Res i).d = (if neg then F32.nan else a) ∧ (fsinpiRes i).d = F32.nan ∧ (fcospiRes i).d = F32.nan ∧ (frndRes i).d = a) ∧
     (F32.Finite a →
       (u a ≠ 0 → F32.IsRound i.rm ((u a).sign * 2 ^ 298) (u a).natAbs (frcpRes i).d) ∧
       (u a = 0 → (frcpRes i).d = a + 0x7F800000 ∧ (frsqRes i).d = a + 0x7F800000 ∧ (fsqrtRes i).d = a ∧
         (flg2Res i).d = 0xFF800000) ∧
       (u a < 0 → (frsqRes i).d = F32.nan ∧ (fsqrtRes i).d = F32.nan ∧ (flg2Res i).d = F32.nan) ∧
       (0 < u a →
         let r := u (fsqrtRes i).d
         F32.Finite (fsqrtRes i).d ∧ 0 < r ∧
         (∀ x, F32.Finite x → 0 ≤ u x →
           (i.rm = 0 → (u x < r → (r + u x) ^ 2 ≤ 4 * (u a * one)) ∧ (r < u x → 4 * (u a * one) ≤ (r + u x) ^ 2)) ∧
           (i.rm = 1 ∨ i.rm = 3 → r ^ 2 ≤ u a * one ∧ (u x ^ 2 ≤ u a * one → u x ≤ r)) ∧
           (i.rm = 2 → u a * one ≤ r ^ 2 ∧ (u a * one ≤ u x ^ 2 → r ≤ u x)))) ∧
       (0 < u a → i.rm = 0 →
         let r := u (frsqRes i).d
         F32.Finite (frsqRes i).d ∧ 0 < r ∧ ∀ x, F32.Finite x → 0 ≤ u x →
           (u x < r → (r + u x) ^ 2 * u a ≤ 4 * 2 ^ 447) ∧ (r < u x → 4 * 2 ^ 447 ≤ (r + u x) ^ 2 * u a)) ∧
       (∀ n : Nat, n ≤ 276 → u a = ((n : Int) - 149) * one → u (fex2Res i).d = 2 ^ n) ∧
       (∀ n : Nat, n ≤ 276 → u a = 2 ^ n → u (flg2Res i).d = ((n : Int) - 149) * one) ∧
       (∀ n : Int, u a = n * one → (fsinpiRes i).d = (if neg then 2 ^ 31 else 0) ∧
         (fcospiRes i).d = if n % 2 = 0 then 0x3F800000 else 0xBF800000) ∧
       (∀ n : Int, 2 * u a = (2 * n + 1) * one → (fcospiRes i).d = 0 ∧
         (fsinpiRes i).d = if n % 2 = 0 then 0x3F800000 else 0xBF800000) ∧
       ((frndRes i).d.testBit 31 = neg ∧ ∃ n : Int, IsRounded i.rm F32.one (u a) n ∧ u (frndRes i).d = n * one)) ∧
     (let un := F32.IsNan a ∨ F32.IsNan b;
       (i.m 3 0 = 0 → ((fcmpRes i).p = true ↔ ¬un ∧ u a = u b)) ∧ (i.m 3 0 = 1 → ((fcmpRes i).p = true ↔ un ∨ u a ≠ u b)) ∧
       (i.m 3 0 = 2 → ((fcmpRes i).p = true ↔ ¬un ∧ u a < u b)) ∧ (i.m 3 0 = 3 → ((fcmpRes i).p = true ↔ ¬un ∧ u a ≤ u b)) ∧
       (i.m 3 0 = 4 → ((fcmpRes i).p = true ↔ ¬un ∧ u b < u a)) ∧ (i.m 3 0 = 5 → ((fcmpRes i).p = true ↔ ¬un ∧ u b ≤ u a)) ∧
       (i.m 3 0 = 6 → ((fcmpRes i).p = true ↔ un)) ∧ (i.m 3 0 = 7 → ((fcmpRes i).p = true ↔ ¬un))) ∧
     ((F32.IsNan a → (fclassRes i).d = 2 ^ 8) ∧ (F32.IsInf a → (fclassRes i).d = if neg then 2 ^ 0 else 2 ^ 7) ∧
       (F32.Finite a → (fclassRes i).d = if u a = 0 then (if neg then 2 ^ 3 else 2 ^ 4)
         else if (u a).natAbs < 2 ^ 23 then (if neg then 2 ^ 2 else 2 ^ 5) else if neg then 2 ^ 1 else 2 ^ 6) ∧
       (fclassRes i).p = ((fclassRes i).d &&& i.imm.toNat != 0)) ∧
     ∀ e, e < 2 →
       let el (x : Nat) : Nat := x / 2 ^ (16 * e) % 2 ^ 16
       el (hadd2Res i).d = F16.add i.rm (el i.a) (el i.b) ∧ el (hmul2Res i).d = F16.mul i.rm (el i.a) (el i.b) ∧
       el (hfma2Res i).d = F16.fma i.rm (el i.a) (el i.b) (el i.c) ∧ el (bfma2Res i).d = BF16.fma i.rm (el i.a) (el i.b) (el i.c) ∧
       el (hmin2Res i).d = F16.min (el i.a) (el i.b) ∧ el (hmax2Res i).d = F16.max (el i.a) (el i.b)) ∧
  ((∀ (src dst : Nat) (rm : Rm) (x : Nat), rm < 4 → dst < 7 →
     let k := fmtOf src
     let d := fmtOf dst
     let fromInt := src = 5 ∨ src = 6
     let v : Int := if src = 5 then (BitVec.ofNat 32 x).toInt else x
     (src < 5 → x < 2 ^ k.w → dst < 5 →
       (k.IsNan x → convert src dst rm x = d.nan) ∧
       (k.IsInf x → convert src dst rm x = (if x.testBit (k.w - 1) then 2 ^ (d.w - 1) else 0) + d.top + d.hasInf.toNat) ∧
       (k.Finite x → k.units x = 0 → convert src dst rm x = if x.testBit (k.w - 1) then 2 ^ (d.w - 1) else 0) ∧
       (k.Finite x → k.units x ≠ 0 →
         d.IsRound rm (k.units x * 2 ^ (150 - k.bias - k.f)) (2 ^ (150 - d.bias - d.f)) (convert src dst rm x))) ∧
     (src < 5 → x < 2 ^ k.w → dst = 5 ∨ dst = 6 →
       let lo : Int := if dst = 5 then -2 ^ 31 else 0
       let hi : Int := if dst = 5 then 2 ^ 31 - 1 else 2 ^ 32 - 1
       let r := convert src dst rm x
       let w : Int := if dst = 5 then (BitVec.ofNat 32 r).toInt else r
       r < 2 ^ 32 ∧ (k.IsNan x → w = 0) ∧ (k.IsInf x → w = if x.testBit (k.w - 1) then lo else hi) ∧
       (k.Finite x → ∃ n, IsRounded rm k.one (k.units x) n ∧ w = max lo (min hi n))) ∧
     (fromInt → x < 2 ^ 32 → dst < 5 → (v = 0 → convert src dst rm x = 0) ∧
       (v ≠ 0 → d.IsRound rm (v * d.one) 1 (convert src dst rm x)))) ∧
   ∀ i : AluIn,
     let byte (x e : Nat) : Nat := x / 2 ^ (8 * e) % 2 ^ 8
     let nib (x e : Nat) : Nat := x / 2 ^ (4 * e) % 2 ^ 4
     let half (x e : Nat) : Nat := x / 2 ^ (16 * e) % 2 ^ 16
     let c := (BitVec.ofNat 32 i.c).toInt
     (cvtRes i).d = convert (i.m 3 0) (i.m 7 4) i.rm (if i.m 3 0 = 1 ∨ i.m 3 0 = 2 then half i.a (fld i.imm 1 0)
       else if i.m 3 0 = 3 ∨ i.m 3 0 = 4 then byte i.a (fld i.imm 1 0) else i.a / 2 ^ (32 * fld i.imm 1 0) % 2 ^ 32) ∧
     (let width (n : Nat) : Nat := [8, 8, 16, 16, 32, 32, 64, 64].getD n 0
       let sw := width (i.m 2 0)
       let dw := width (i.m 5 3)
       let x : Int := if i.m 2 0 % 2 = 1 then (BitVec.ofNat sw i.a).toNat else (BitVec.ofNat sw i.a).toInt
       let lo : Int := if i.m 5 3 % 2 = 1 then 0 else -2 ^ (dw - 1)
       let hi : Int := if i.m 5 3 % 2 = 1 then 2 ^ dw - 1 else 2 ^ (dw - 1) - 1
       let y := BitVec.ofInt dw (if i.m 6 6 = 1 then max lo (min hi x) else x)
       let wide := max dw 32
       BitVec.ofNat wide (cvtiRes i).d = if i.m 5 3 % 2 = 1 then y.setWidth wide else y.signExtend wide) ∧
     (let r := packRes i
       let put (pf x : Nat) : Nat := if pf < 4 then convert 0 (pf + 1) i.rm (x % 2 ^ 32)
         else
           let v := (BitVec.ofNat 32 x).toInt
           if pf = 4 then (BitVec.ofInt 8 (max (-128) (min 127 v))).toNat else if pf = 5 then (max 0 (min 255 v)).toNat
           else if pf = 6 then (BitVec.ofInt 16 (max (-32768) (min 32767 v))).toNat else (max 0 (min 65535 v)).toNat
       let pf := i.m 2 0
       (pf < 2 ∨ 6 ≤ pf → half r.d 0 = put pf i.a ∧ half r.d 1 = put pf i.b) ∧
       (2 ≤ pf → pf < 6 → ∀ e, e < 4 → byte r.d e =
         if e = 2 * i.m 3 3 then put pf i.a else if e = 2 * i.m 3 3 + 1 then put pf i.b else byte i.c e)) ∧
     (let r := unpackRes i
       let e := fld i.imm 2 0
       let pf := i.m 3 0
       let w := BitVec.ofNat 32 r.d
       (pf < 2 → r.d = convert (pf + 1) 0 0 (half i.a e)) ∧ (2 ≤ pf → pf < 4 → r.d = convert (pf + 1) 0 0 (byte i.a e)) ∧
       (pf = 4 → w = (BitVec.ofNat 8 (byte i.a e)).signExtend 32) ∧ (pf = 5 → r.d = byte i.a e) ∧
       (pf = 6 → w = (BitVec.ofNat 16 (half i.a e)).signExtend 32) ∧ (pf = 7 → r.d = half i.a e) ∧
       (pf = 8 → w = BitVec.ofInt 32 ((byte i.a e : Int) - byte i.b 0)) ∧
       (pf = 9 → w = BitVec.ofInt 32 ((nib i.a e : Int) - nib i.b 0))) ∧
     BitVec.ofNat 32 (dp4oRes i).d = BitVec.ofInt 32 (c + ((List.range 4).map fun e =>
       ((byte i.a e : Int) - fld i.imm 7 0) * ((byte i.b e : Int) - fld i.imm 15 8)).sum) ∧
     BitVec.ofNat 32 (dp8oRes i).d = BitVec.ofInt 32 (c + ((List.range 8).map fun e =>
       ((nib i.a e : Int) - fld i.imm 3 0) * ((nib i.b e : Int) - fld i.imm 11 8)).sum) ∧
     (let ps := [half i.a 0, half i.b 0, half i.a 1, half i.b 1]
       let exact := (F16.units (half i.a 0) * F16.units (half i.b 0) + F16.units (half i.a 1) * F16.units (half i.b 1)) * 2 ^ 101 +
         F32.units (i.c % 2 ^ 32)
       ((∀ p ∈ ps, F16.Finite p) → F32.Finite (i.c % 2 ^ 32) →
         (exact ≠ 0 → F32.IsRound i.rm exact 1 (dp2hRes i).d) ∧ (exact = 0 → F32.mag (dp2hRes i).d = 0)) ∧
       ((∃ p ∈ ps, F16.IsNan p) ∨ F32.IsNan (i.c % 2 ^ 32) → (dp2hRes i).d = F32.nan)) ∧
     (selRes i).d = (if i.th.readPred (i.m 2 0) != bitOf i.mod 3 then i.a else i.b) % 2 ^ 32 ∧ (movRes i).d = i.a ∧ (movlRes i).d = i.b)

/-- A uniform word of a compute row computes once, from the operands of the acting thread (R280, R321): the result is
outstanding for its uniform register, and its predicate for every executing thread. Without an executing thread the
word only issues. -/
def Obligations.UniformComputeWords : Prop :=
  ∀ (i : Instr) (w : ComputeRow) (s : State) (r : Ready), computeRow i = some w → w.u.uni = true →
    prep s (w.u.full w.op) = .go r → Present s r.ths →
    ∃ t, exec i s = .next t ∧ MovedOn s t r w.u.acc ∧ OnlyRegisters s t r ∧
      (r.ths = [] → (t.cohort r.id).writes = (s.cohort r.id).writes) ∧
      ∀ y, actingThread s r.ths = some y →
        (w.u.dn ≠ 0 → UregWrite t r.id w.u.d w.u.acc.lat.isNone (s.sched.clk + w.u.acc.lat.getD 1)
          (BitVec.ofNat 64 (w.f (w.u.ins s (s.cohort r.id) y)).d)) ∧
        ∀ x ∈ r.ths, w.u.pd < 7 → PredWrite t x w.u.pd w.u.acc.lat.isNone (s.sched.clk + w.u.acc.lat.getD 1)
          (w.f (w.u.ins s (s.cohort r.id) y)).p

/-- VOTE, REDO and SCANO combine the operands of all executing threads (R119, R120, R342, R343): every executing thread
gets the word's result for its home lane, scoreboarded, in its name and its predicate. XSEAT and XSHF read a name of the
thread at a seat of the team (R47, R341): its value and a set predicate on the fast path, after 8 cycles, waiting for a
scoreboarded write to what it reads there; 0 and a cleared predicate for an absent seat; on the slow path a sample of
the name, with the path's own latency, and a set predicate. V2S writes the acting thread's value into a uniform
register, scoreboarded; when no thread executes, the register is unchanged (R344). VOTE's four results (R342); REDO's
tree over the 32 home lanes, with the operation's identity at a lane of no executing thread, lower lanes on the left,
and SCANO's blocks of it (R119, R120, R343). For the integer operations that is the combination of all lanes, and of
lanes 0 to the thread's own; a prefix of one float leaf is that leaf, a NaN with its bits (the spec leaves open whether
such a NaN becomes canonical, log entry 65). -/
def Obligations.CrossLaneWords : Prop :=
  (∀ (i : Instr) (op : Nat) (u : Alu) (f : List (Nat × AluIn) → Nat → Res) (s : State) (r : Ready),
     (∃ x, (i = .vote x ∧ op = 0x82 ∧ u = .ofForm 0x82 x ∧ f = voteRes u.mod) ∨
       (i = .redo x ∧ op = 0x83 ∧ u = .ofForm 0x83 x ∧ f = redoRes u.mod) ∨
       (i = .scano x ∧ op = 0x84 ∧ u = .ofForm 0x84 x ∧ f = scanoRes u.mod)) →
     u.uni = false → prep s (u.full op) = .go r → Present s r.ths →
     ∃ t, exec i s = .next t ∧ MovedOn s t r u.acc ∧ OnlyRegisters s t r ∧
       ∀ x ∈ r.ths,
         let v := f (r.ths.map fun y => ((s.thread y).lane, u.ins s (s.cohort r.id) y)) (s.thread x).lane
         (∀ k, k < u.dn → NameWrite t x (u.d + k) u.acc.lat.isNone (s.sched.clk + 1) ((v.d >>> (32 * k)) % 2 ^ 32)) ∧
         (u.pd < 7 → PredWrite t x u.pd u.acc.lat.isNone (s.sched.clk + 1) v.p)) ∧
  (∀ (i : Instr) (x : AluForm) (op : Nat) (wide : Bool) (seat : State → Cohort → Nat → Int) (s : State) (r : Ready),
     let u := Alu.ofForm op x
     let n := u.a.names.headD 0
     let a := ({ u with acc := { u.acc with names := if op = 0x80 then u.b.names else [] } } : Alu).full op
     ((i = .xseat x ∧ op = 0x80 ∧ wide = bitOf u.mod 0 ∧ seat = fun s c t => ((srcVal s c t u.b).toNat : Int)) ∨
       (i = .xshf x ∧ op = 0x81 ∧ wide = bitOf u.mod 2 ∧ seat = fun s _ t =>
         if fld u.mod 1 0 = 0 then (((s.thread t).seat ^^^ u.imm.toNat : Nat) : Int)
         else if fld u.mod 1 0 = 1 then ((s.thread t).seat : Int) - u.imm.toNat
         else ((s.thread t).seat : Int) + u.imm.toNat)) →
     let words := if wide then 2 else 1
     prep s a = .go r → Present s r.ths →
     let waits := ∃ y ∈ r.ths, ∃ z, let k := seat s (s.cohort r.id) y
       0 ≤ k ∧ k < ((s.launchOf y).teamSize : Int) ∧ seatRead s (s.cohort r.id) y k.toNat = .fast z ∧
       ∃ j, j < words ∧ ((∃ p ∈ (s.thread z).writes, p.tgt = .name (n + j) ∧ p.var = true ∧ p.release = false) ∨
         seatPending s (s.cohort r.id) (n + j) = true)
     (waits → exec i s = .next (stallAt s r.id .scoreboard)) ∧
     (¬waits → ∃ t, exec i s = .next t ∧ MovedOn s t r a ∧ OnlyRegisters s t r ∧
       ∀ y ∈ r.ths,
         let k := seat s (s.cohort r.id) y
         let inTeam := 0 ≤ k ∧ k < ((s.launchOf y).teamSize : Int)
         (¬inTeam ∨ seatRead s (s.cohort r.id) y k.toNat = .absent →
           (∀ j, j < words → NameWrite t y (u.d + j) true (s.sched.clk + 8) 0) ∧
           (u.pd < 7 → PredWrite t y u.pd true (s.sched.clk + 8) false)) ∧
         (∀ z, inTeam → seatRead s (s.cohort r.id) y k.toNat = .fast z →
           (∀ j, j < words → NameWrite t y (u.d + j) true (s.sched.clk + 8)
             ((((s.thread z).readPair n).toNat >>> (32 * j)) % 2 ^ 32)) ∧
           (u.pd < 7 → PredWrite t y u.pd true (s.sched.clk + 8) true)) ∧
         (∀ z lat, inTeam → seatRead s (s.cohort r.id) y k.toNat = .slow z lat →
           (∀ j, j < words → ∃ p ∈ (t.thread y).writes, p.tgt = .name (u.d + j) ∧ p.var = true ∧ p.due = s.sched.clk + lat ∧
             p.seat = some (z, n + j)) ∧
           (u.pd < 7 → PredWrite t y u.pd true (s.sched.clk + lat) true)))) ∧
  (∀ (x : AluForm) (s : State) (r : Ready),
     let u := Alu.ofForm 0x85 x
     let a : Acc := { u.acc with wNames := [], wUregs := [u.d], once := true, lat := none }
     prep s a = .go r →
     ∃ t, exec (.v2s x) s = .next t ∧ MovedOn s t r a ∧ OnlyRegisters s t r ∧
       (r.ths = [] → (t.cohort r.id).writes = (s.cohort r.id).writes) ∧
       ∀ y, actingThread s r.ths = some y → UregWrite t r.id u.d true (s.sched.clk + 1) (srcVal s (s.cohort r.id) y u.a)) ∧
  ((∀ (mod : BitVec 10) (ins : List (Nat × AluIn)) (lane : Nat),
     let r := voteRes mod ins lane
     let holds (i : AluIn) : Prop := (i.th.readPred (fld mod 2 0) != bitOf mod 3) = true
     (fld mod 5 4 = 0 → (r.p = true ↔ ∀ x ∈ ins, holds x.2)) ∧ (fld mod 5 4 = 1 → (r.p = true ↔ ∃ x ∈ ins, holds x.2)) ∧
     (fld mod 5 4 = 2 → (r.p = true ↔ ∃ x ∈ ins, holds x.2) ∧
       r.d = (ins.map fun x => if x.2.th.readPred (fld mod 2 0) != bitOf mod 3 then 1 else 0).sum) ∧
     (fld mod 5 4 = 3 → (r.p = true ↔ ∀ x ∈ ins, ∀ y ∈ ins, x.2.a % 2 ^ 32 = y.2.a % 2 ^ 32))) ∧
   ∀ (mod : BitVec 10) (ins : List (Nat × AluIn)) (j : Nat), j < 32 →
     let n := fld mod 3 0
     let min (lt : Word → Word → Bool) (a b : Nat) : Nat := if lt (BitVec.ofNat 32 b) (BitVec.ofNat 32 a) then b else a
     let max (lt : Word → Word → Bool) (a b : Nat) : Nat := if lt (BitVec.ofNat 32 a) (BitVec.ofNat 32 b) then b else a
     let op : Nat → Nat → Nat := [F32.add 0, F32.min, F32.max, fun a b => (a + b) % 2 ^ 32, min BitVec.slt, max BitVec.slt,
       min BitVec.ult, max BitVec.ult, Nat.land, Nat.lor, Nat.xor].getD n Nat.xor
     let unit := [0x80000000, 0x7F800000, 0xFF800000, 0, 0x7FFFFFFF, 0x80000000, 0xFFFFFFFF, 0, 0xFFFFFFFF, 0, 0].getD n 0
     let leaf (k : Nat) : Nat := ((ins.find? fun x => x.1 == k).map fun x => x.2.a % 2 ^ 32).getD unit
     let node (lev : Nat) : Nat → Nat := Nat.repeat (fun f k => op (f (2 * k)) (f (2 * k + 1))) lev leaf
     let redo := (redoRes mod ins j).d
     let scan := (scanoRes mod ins j).d
     redo = node 5 0 ∧ (j = 0 → scan = leaf 0) ∧ (j = 31 → scan = redo) ∧
     (some scan = [5, 4, 3, 2, 1, 0].foldl (fun acc lev =>
       if (j + 1).testBit lev then
         some (match acc with
           | none => node lev ((j + 1) / 2 ^ lev - 1)
           | some a => op a (node lev ((j + 1) / 2 ^ lev - 1)))
       else acc) none) ∧
     (3 ≤ n → n ≤ 10 → redo = (List.range 32).foldl (fun a k => op a (leaf k)) unit ∧
       scan = (List.range (j + 1)).foldl (fun a k => op a (leaf k)) unit))

/-- A pair word's halves read before either writes, each under its own guard, and each result is outstanding for its
half's write time (R249, R250, R252). With LP.CHECK = 1 a pair word that reads a register before its write time traps
STALL_SHORT with it, that of the first half first (R70, R253). -/
def Obligations.PairWords : Prop :=
  ∀ (p : PairOps) (s : State) (id : Nat) (c : Cohort) (rx ry : Ready) (kx ky : List (Nat × Nat)),
    let s1 := marked (marked s rx.ths (halfAcc p.x p)) ry.ths (halfAcc p.y p)
    let used := rowsUsed s1 c.unit c.part
    s.sched.cur = some id → s.cohort? id = some c →
    checkFor s id c (halfAcc p.x p) = .go rx → checkFor s id c (halfAcc p.y p) = .go ry →
    takeRows s1 rx.ths [p.x.d.toNat] used = .ok kx → takeRows s1 ry.ths [p.y.d.toNat] used = .ok ky →
    Present s rx.ths → Present s ry.ths →
    (∀ k n, pairShort s c (halfAcc p.x p) (halfAcc p.y p) rx ry = some (k, n) →
      ∃ info, info.i0 = BitVec.ofNat 64 (k * 2 ^ 8 + n) ∧
        exec (.pairWord p) s = .next (takeTrap s id 3 .stallShort info)) ∧
    (((s.planC c).check = true → earlyRead s c c.active rx.ths (halfAcc p.x p) = none ∧
        earlyRead s c c.active ry.ths (halfAcc p.y p) = none) →
    ∃ t, exec (.pairWord p) s = .next t ∧ (t.cohort id).pc = pcAdd c.pc 3 ∧
      (t.cohort id).nextIssue = s.sched.clk + 1 + p.st.toNat ∧ (t.cohort id).uregs = c.uregs ∧ SameMemory s t ∧
      OtherThreads s t (rx.ths ++ ry.ths) ∧ OtherCohorts s t id ∧
      (∀ y ∈ rx.ths, NameWrite t y p.x.d.toNat false (s.sched.clk + halfLat p.x)
        ((halfRes p.x.pop.toNat (halfIns p.x (s.thread y))).d % 2 ^ 32)) ∧
      (∀ y ∈ ry.ths, NameWrite t y p.y.d.toNat false (s.sched.clk + halfLat p.y)
        ((halfRes p.y.pop.toNat (halfIns p.y (s.thread y))).d % 2 ^ 32)))

/-- R323: ADD, SUB, MUL, MULHI, MAD, MADW, ABS, MIN, MAX, ADDW, SUBW over 32- and 64-bit patterns, with the carry and the
borrow of the unsaturated operation and both saturations; none of them traps after the checks of R253. -/
def Obligations.IntegerArithmetic : Prop :=
  (∀ (j : Instr) (w : ComputeRow) (s : State) (r : Ready), computeRow j = some w → w.op ≤ 0x0A →
    prep s (w.u.full w.op) = .go r →
    ∃ t, exec j s = .next t ∧ (t.cohort r.id).stop = (s.cohort r.id).stop) ∧
  ∀ i : AluIn,
    let a := BitVec.ofNat 32 i.a
    let b := BitVec.ofNat 32 i.b
    let c := BitVec.ofNat 32 i.c
    let a2 := BitVec.ofNat 64 i.a
    let b2 := BitVec.ofNat 64 i.b
    let c2 := BitVec.ofNat 64 i.c
    (i.m 1 0 = 0 → BitVec.ofNat 32 (addRes i).d = a + b ∧ BitVec.ofNat 32 (subRes i).d = a - b) ∧
    (i.m 1 0 = 1 →
      (BitVec.ofNat 32 (addRes i).d).toInt = max (-2 ^ 31) (min (2 ^ 31 - 1) (a.toInt + b.toInt)) ∧
      (BitVec.ofNat 32 (subRes i).d).toInt = max (-2 ^ 31) (min (2 ^ 31 - 1) (a.toInt - b.toInt))) ∧
    (i.m 1 0 = 2 →
      (BitVec.ofNat 32 (addRes i).d).toNat = min (a.toNat + b.toNat) (2 ^ 32 - 1) ∧
      (BitVec.ofNat 32 (subRes i).d).toNat = a.toNat - b.toNat) ∧
    (addRes i).p = decide (2 ^ 32 ≤ a.toNat + b.toNat) ∧ (subRes i).p = a.ult b ∧
    BitVec.ofNat 32 (mulRes i).d = a * b ∧
    (i.m 0 0 = 0 → BitVec.ofNat 32 (mulhiRes i).d = (a.signExtend 64 * b.signExtend 64).extractLsb' 32 32 ∧
      BitVec.ofNat 64 (madwRes i).d = a.signExtend 64 * b.signExtend 64 + c2 ∧
      BitVec.ofNat 32 (minRes i).d = (if b.slt a then b else a) ∧ BitVec.ofNat 32 (maxRes i).d = (if a.slt b then b else a) ∧
      BitVec.ofNat 32 (absRes i).d = (if a.msb then -a else a)) ∧
    (i.m 0 0 = 1 → BitVec.ofNat 32 (mulhiRes i).d = (a.setWidth 64 * b.setWidth 64).extractLsb' 32 32 ∧
      BitVec.ofNat 64 (madwRes i).d = a.setWidth 64 * b.setWidth 64 + c2 ∧
      BitVec.ofNat 32 (minRes i).d = (if b.ult a then b else a) ∧ BitVec.ofNat 32 (maxRes i).d = (if a.ult b then b else a) ∧
      (BitVec.ofNat 32 (absRes i).d).toInt = min (2 ^ 31 - 1) (a.toInt.natAbs : Int)) ∧
    BitVec.ofNat 32 (madRes i).d = a * b + c ∧
    BitVec.ofNat 64 (addwRes i).d = a2 + b2 ∧ (addwRes i).p = decide (2 ^ 64 ≤ a2.toNat + b2.toNat) ∧
    BitVec.ofNat 64 (subwRes i).d = a2 - b2 ∧ (subwRes i).p = a2.ult b2

/-- R324: the bitwise operations and the shifts; a count of 32 or more gives 0, or copies of the sign, and ROT takes its
count modulo 32. R325: FSH joins b above a and shifts the 64-bit value by at most 32; the pair half 0x31 is its right
funnel. R326: BFX extracts the field from bit o to bit min(o + w, 32) − 1, extended from the top bit of the field; BFI
replaces the same bits of the old destination and keeps all others. R327: PCNT counts the one bits of a, CLZ the zero
bits above the highest one bit, and BREV moves bit i to bit 31 − i. R328, R330: CMP's six relations over signed and
unsigned operands of 32 and 64 bits, and PLOP's table look-up. -/
def Obligations.BitOperations : Prop :=
  (∀ i : AluIn,
     let a := BitVec.ofNat 32 i.a
     let b := BitVec.ofNat 32 i.b
     BitVec.ofNat 32 (andRes i).d = a &&& b ∧ BitVec.ofNat 32 (orRes i).d = a ||| b ∧
     BitVec.ofNat 32 (xorRes i).d = a ^^^ b ∧ BitVec.ofNat 32 (andnRes i).d = a &&& ~~~b ∧
     BitVec.ofNat 32 (shlRes i).d = a <<< b.toNat ∧ BitVec.ofNat 32 (shrRes i).d = a >>> b.toNat ∧
     BitVec.ofNat 32 (sarRes i).d = a.sshiftRight b.toNat ∧ BitVec.ofNat 32 (rotRes i).d = a.rotateLeft (b.toNat % 32)) ∧
  (∀ i : AluIn,
     let v : BitVec 64 := BitVec.ofNat 32 i.b ++ BitVec.ofNat 32 i.a
     let n := min (BitVec.ofNat 32 i.c).toNat 32
     (i.m 0 0 = 0 → BitVec.ofNat 32 (fshRes i).d = (v >>> n).setWidth 32) ∧
     (i.m 0 0 = 1 → BitVec.ofNat 32 (fshRes i).d = (v <<< n).extractLsb' 32 32) ∧
     ∀ (h : Half) (th : Thread),
       BitVec.ofNat 32 (halfRes 0x31 (halfIns h th)).d = ((th.readName h.b.toNat ++ th.readName h.a.toNat) >>>
         min (th.readName h.c.toNat).toNat 32).setWidth 32) ∧
  (∀ i : AluIn,
     let o := if i.m 1 1 = 1 then (i.imm.extractLsb' 0 6).toNat else i.b % 64
     let w := if i.m 1 1 = 1 then (i.imm.extractLsb' 8 6).toNat else i.b / 256 % 64
     let top := min (o + w) 32 - 1
     (∀ k, k < 32 → (bfxRes i).d.testBit k =
       if w = 0 then false
       else if 32 ≤ o then i.m 0 0 == 1 && i.a.testBit 31
       else if k ≤ top - o then i.a.testBit (o + k)
       else i.m 0 0 == 1 && i.a.testBit top) ∧
     ∀ k, (bfiRes i).d.testBit k =
       if w ≠ 0 ∧ o < 32 ∧ o ≤ k ∧ k ≤ top then i.a.testBit (k - o) else i.old.testBit k) ∧
  (∀ i : AluIn,
     (pcntRes i).d = ((List.range 32).filter fun k => i.a.testBit k).length ∧
     (clzRes i).d ≤ 32 ∧ (∀ k, k < (clzRes i).d → i.a.testBit (31 - k) = false) ∧
     ((clzRes i).d < 32 → i.a.testBit (31 - (clzRes i).d) = true) ∧
     (brevRes i).d < 2 ^ 32 ∧ ∀ k, k < 32 → (brevRes i).d.testBit k = i.a.testBit (31 - k)) ∧
  ((∀ (i : AluIn) (n : Nat), n = 32 ∨ n = 64 →
     let a := BitVec.ofNat n i.a
     let b := BitVec.ofNat n i.b
     let lt := if i.m 3 3 = 1 then a.ult b else a.slt b
     let le := if i.m 3 3 = 1 then a.ule b else a.sle b
     (i.m 2 0 = 0 → (cmpRes n i).p = (a == b)) ∧ (i.m 2 0 = 1 → (cmpRes n i).p = (a != b)) ∧
     (i.m 2 0 = 2 → (cmpRes n i).p = lt) ∧ (i.m 2 0 = 3 → (cmpRes n i).p = le) ∧
     (i.m 2 0 = 4 → (cmpRes n i).p = !le) ∧ (i.m 2 0 = 5 → (cmpRes n i).p = !lt)) ∧
   ∀ i : AluIn, (plopRes i).p =
     (i.imm >>> (4 * (i.th.readPred (i.m 2 0)).toNat + 2 * (i.th.readPred (i.m 5 3)).toNat +
       (i.th.readPred (i.m 8 6)).toNat)).getLsbD 0)

/-- BRA: every active thread goes on at the target, which lies OFF words behind the branch in its overlay; a target outside
0 to 65,535 traps BAD_TARGET (R279, R282). -/
def Obligations.Branches : Prop :=
  ∀ (i : Instr) (a : Acc) (off : Int) (s : State) (r : Ready),
    ((∃ st o, i = .braBase st o ∧ a = { st := st.toNat } ∧ off = o.toInt) ∨
      (∃ f, i = .bra f ∧ a = extAcc f.x false ∧ off = f.x.imm.toInt)) → prep s a = .go r →
    let pc := (s.cohort r.id).pc
    let o : Int := (pc.toNat % 65536 : Nat) + off
    (0 ≤ o ∧ o ≤ 65535 → ∃ t, exec i s = .next t ∧
      IssuedAt s t r a (BitVec.ofNat 32 (pc.toNat / 65536 * 65536 + o.toNat)) ∧ OnlyRegisters s t r ∧
      ∀ x, t.thread x = s.thread x) ∧
    (¬(0 ≤ o ∧ o ≤ 65535) → ∃ info, exec i s = .next (takeTrap s r.id a.len .badTarget info))

/-- CALL pushes the PC behind it on the return-pin stack of every executing thread, makes the target its region head, and
goes on at the target; a thread whose stack holds 16 entries traps CALL_DEPTH, and else a target outside 0 to 65,535 traps
BAD_TARGET (R97, R279, R286, R289). RET pops the stack, and goes
on at the popped PC where it is the same for all; where the popped PCs differ the cohort is divided by them (R42), the largest
group keeping it; an empty stack traps BAD_TARGET (R288). A RET without a guard executes in every active thread. -/
def Obligations.CallsAndReturns : Prop :=
  (∀ (i : Instr) (a : Acc) (off : Int) (s : State) (r : Ready),
    ((∃ st o, i = .callBase st o ∧ a = { st := st.toNat } ∧ off = o.toInt) ∨
      (∃ f, i = .call f ∧ a = extAcc f.x false ∧ off = f.x.imm.toInt)) → prep s a = .go r → Present s r.ths →
    let pc := (s.cohort r.id).pc
    let o : Int := (pc.toNat % 65536 : Nat) + off
    let target : Word := BitVec.ofNat 32 (pc.toNat / 65536 * 65536 + o.toNat)
    ((∀ x ∈ r.ths, (s.thread x).stack.length < 16) → 0 ≤ o ∧ o ≤ 65535 →
      ∃ t, exec i s = .next t ∧ IssuedAt s t r a target ∧ OnlyRegisters s t r ∧
        ∀ x ∈ r.ths, (t.thread x).head = target ∧ (t.thread x).names = (s.thread x).names ∧
          (t.thread x).preds = (s.thread x).preds ∧
          (r.ths.count x = 1 → (t.thread x).stack = pcAdd pc a.len :: (s.thread x).stack)) ∧
    ((∃ x ∈ r.ths, 16 ≤ (s.thread x).stack.length) →
      ∃ info, exec i s = .next (takeTrap s r.id a.len .callDepth info)) ∧
    ((∀ x ∈ r.ths, (s.thread x).stack.length < 16) → ¬(0 ≤ o ∧ o ≤ 65535) →
      ∃ info, exec i s = .next (takeTrap s r.id a.len .badTarget info))) ∧
  ∀ (i : Instr) (a : Acc) (s : State) (r : Ready),
    ((∃ st, i = .retBase st ∧ a = { st := st.toNat }) ∨ (∃ f, i = .ret f ∧ a = extAcc f.x false)) → prep s a = .go r →
    Present s r.ths →
    (i.wf = true → r.ths = (s.cohort r.id).active) ∧
    ((∀ x ∈ r.ths, (s.thread x).stack ≠ []) →
      ∃ t, exec i s = .next t ∧ SameMemory s t ∧ OtherThreads s t r.ths ∧
        (∀ x ∈ r.ths, r.ths.count x = 1 → (t.thread x).stack = (s.thread x).stack.tail ∧
          (t.thread x).head = (s.thread x).stack.headD 0) ∧
        (∃ s1 : State, t = divide s1 r.id (r.ths.map fun x => (x, (s.thread x).stack.headD 0)) ∧
          IssuedAt s s1 r a (pcAdd (s.cohort r.id).pc a.len) ∧ OnlyRegisters s s1 r ∧
          ∀ x ∈ r.ths, (s1.thread x).names = (s.thread x).names ∧ (s1.thread x).preds = (s.thread x).preds ∧
            (s1.thread x).place = (s.thread x).place) ∧
        ((s.cohort? r.id).isSome → r.ths ≠ [] → r.ths.length ≤ 64 →
          let popped (x : Nat) : Word := (s.thread x).stack.headD 0
          let size (p : Word) : Nat := (r.ths.filter fun x => popped x == p).length
          (∃ x ∈ r.ths, (t.cohort r.id).pc = popped x) ∧ (∀ x ∈ r.ths, size (popped x) ≤ size (t.cohort r.id).pc) ∧
          ∀ x ∈ r.ths, popped x ≠ (t.cohort r.id).pc → x ∉ (t.cohort r.id).active) ∧
        ∀ pc, r.ths ≠ [] → (∀ x ∈ r.ths, r.ths.count x = 1 ∧ (s.thread x).stack.headD 0 = pc) → (t.cohort r.id).pc = pc) ∧
    ((∃ x ∈ r.ths, (s.thread x).stack = []) → ∃ info, exec i s = .next (takeTrap s r.id a.len .badTarget info))

/-- LOOP decrements its counter and branches while the counter is not 0 (R285); BRC and BRI divide the cohort by the
target that each executing thread takes, the others going on behind the word (R42, R283, R284). A target of LOOP or BRC
outside 0 to 65,535 traps BAD_TARGET (R279), and so does a BRI whose table the overlay does not have, with or without an
executing thread, or whose index is at or above the table's count (R284). When a cohort's threads differ in where they
go on, the largest group keeps the cohort, among equals the one with the lowest seat (R42). -/
def Obligations.LoopsAndDivides : Prop :=
  ((∀ (f : ExtForm) (s : State) (r : Ready),
     let d := f.x.d.idx.toNat
     let a : Acc := { extAcc f.x false with uregs := [d], wUregs := [d], lat := some 2 }
     prep s a = .go r →
     let pc := (s.cohort r.id).pc
     let o : Int := (pc.toNat % 65536 : Nat) + f.x.imm.toInt
     let n := (s.cohort r.id).readUreg d - 1
     (0 ≤ o ∧ o ≤ 65535 → ∃ t, exec (.loop f) s = .next t ∧ OnlyRegisters s t r ∧
       UregWrite t r.id d false (s.sched.clk + 2) n ∧
       IssuedAt s t r a (if n = 0 then pcAdd pc a.len else BitVec.ofNat 32 (pc.toNat / 65536 * 65536 + o.toNat))) ∧
     (¬(0 ≤ o ∧ o ≤ 65535) → ∃ info, exec (.loop f) s = .next (takeTrap s r.id a.len .badTarget info))) ∧
   (∀ (f : ExtForm) (s : State) (r : Ready),
     let a := extAcc f.x false
     prep s a = .go r →
     let c := s.cohort r.id
     let o : Int := (c.pc.toNat % 65536 : Nat) + f.x.imm.toInt
     let target : Word := BitVec.ofNat 32 (c.pc.toNat / 65536 * 65536 + o.toNat)
     (¬(0 ≤ o ∧ o ≤ 65535) → ∃ info, exec (.brc f) s = .next (takeTrap s r.id a.len .badTarget info)) ∧
     (0 ≤ o ∧ o ≤ 65535 → ∃ t, exec (.brc f) s = .next t ∧ SameMemory s t ∧
       t = divide (plainIssue s r a) r.id (c.active.map fun x => (x, if x ∈ r.ths then target else pcAdd c.pc a.len)) ∧
       (c.active ≠ [] → (∀ x ∈ c.active, x ∈ r.ths) → (t.cohort r.id).pc = target) ∧
       (c.active ≠ [] → r.ths = [] → (t.cohort r.id).pc = pcAdd c.pc a.len))) ∧
   ∀ (f : ExtForm) (s : State) (r : Ready) (im : Image),
     let src := opndSrc f.x.a false false 0
     let a : Acc := { (extAcc f.x false).reads [src] with marks := opndMarks f.x.a 1 false }
     prep s a = .go r →
     let c := s.cohort r.id
     let tt := f.x.mod.toNat
     let dir := (im.words.getD ((im.words.getD 2 0).toNat % 65536 + tt) 0).toNat
     let ix (x : Nat) : Nat := (srcVal s c x src).toNat % 2 ^ 32
     let known := tt < (im.words.getD 1 0).toNat % 65536
     imageAt s c c.pc = some im →
     (known → (∀ x ∈ r.ths, ix x < dir / 65536) → r.ths ≠ [] →
       exec (.bri f) s = .next (divide (plainIssue s r a) r.id (c.active.map fun x => (x,
         if x ∈ r.ths then BitVec.ofNat 32 (c.pc.toNat / 65536 * 65536 + (im.words.getD (dir % 65536 + ix x) 0).toNat % 65536)
         else pcAdd c.pc a.len)))) ∧
     (known → r.ths = [] → exec (.bri f) s = .next (plainIssue s r a)) ∧
     (¬known → ∃ info, info.i0 = BitVec.ofNat 64 (2 ^ 32 + tt) ∧
       exec (.bri f) s = .next (takeTrap s r.id a.len .badTarget info)) ∧
     (known → (∃ x ∈ r.ths, dir / 65536 ≤ ix x) → ∃ x ∈ r.ths, dir / 65536 ≤ ix x ∧ ∃ info, info.thread = some x ∧
       info.i0 = BitVec.ofNat 64 (2 * 2 ^ 32 + ix x) ∧ exec (.bri f) s = .next (takeTrap s r.id a.len .badTarget info))) ∧
  (∀ (s : State) (id : Nat) (next : List (Nat × Word)), (s.cohort? id).isSome → next ≠ [] → next.length ≤ 64 →
     let size (p : Word) := (next.filter fun x => x.2 == p).length
     let seat (p : Word) := lowestSeat s ((next.filter fun x => x.2 == p).map Prod.fst)
     let pc := ((divide s id next).cohort id).pc
     pc ∈ next.map Prod.snd ∧
     ∀ q ∈ next.map Prod.snd, size q < size pc ∨ size q = size pc ∧ seat pc ≤ seat q)

/-- EXIT does not issue while a register write or a surface write of an executing thread, or a copy of a REMOTE page under a
SYSTEM release, is outstanding; that the word waits at its PC is the model's choice (log entry 20). Then the executing threads
end: they publish every set name that they have not published, with its current value, and lose names, predicates and stack,
marked in the seating chart (R50, R290). Another active thread goes on behind the word; with none left the pending group with
the lowest seat goes on, and without one the context is freed (R43). The names, predicates and stacks of other threads, the
uniform registers of other cohorts, flash, GDDR7 unless the launch has queue records to release, and every scratchpad outside
the threads' team windows are as before. -/
def Obligations.ThreadsEnd : Prop :=
  ∀ (i : Instr) (a : Acc) (s : State) (r : Ready),
    ((∃ st, i = .exitBase st ∧ a = { st := st.toNat }) ∨ (∃ f, i = .exit f ∧ a = extAcc f.x false)) → prep s a = .go r →
    Present s r.ths →
    let c := s.cohort r.id
    let rest := without c.active r.ths
    let waits := r.ths ≠ [] ∧ c.writes ≠ [] ∨ ∃ x ∈ r.ths, (s.thread x).writes ≠ [] ∨
      (∃ q ∈ s.surf.reqs, q.thread = x ∧ (q.kind = 1 ∨ q.kind = 2)) ∨
      teamScope s x = 5 ∧ ∃ k ∈ s.mem.copies, k.thread = x ∧ k.remote = true
    (waits → exec i s = .next (stallAt s r.id .settle)) ∧
    (¬waits → ∃ t, exec i s = .next t ∧
      (∀ x ∈ r.ths, (t.thread x).place = .exited ∧ (t.thread x).names = [] ∧ (t.thread x).preds = 0 ∧
        (t.thread x).stack = [] ∧
        ((s.launchOf x).stage = 0 → ∀ k ∈ (s.planOf x).pass.map Prod.fst, k ∈ (t.thread x).published ∧
          let l := (s.thread x).launch
          let lin := (s.thread x).lin
          (k ∉ (s.thread x).published → (∀ v ∈ s.work.notes, ¬(v.launch = l ∧ v.lin = lin ∧ v.name = k)) →
            (∀ y ∈ r.ths, (s.thread y).launch = l → (s.thread y).lin = lin → y = x) →
            0 < (s.planOf x).passk → lin + 1 < (s.launchOf x).total →
            (∀ y ∈ s.work.threads, y.2.launch = l → y.2.lin = lin + 1 →
              y.1 ∉ r.ths ∧ y.2.place ≠ .exited ∧ y.2.place ≠ .lost) →
            ⟨l, lin, k, (s.thread x).readName k, (s.thread x).unit, s.sched.clk⟩ ∈ t.work.notes))) ∧
      (∀ x, x ∉ r.ths → (t.thread x).names = (s.thread x).names ∧ (t.thread x).preds = (s.thread x).preds ∧
        (t.thread x).writes = (s.thread x).writes ∧ (t.thread x).stack = (s.thread x).stack ∧
        (t.thread x).place = (s.thread x).place) ∧
      (∀ k, k ≠ r.id → (t.cohort k).uregs = (s.cohort k).uregs ∧ (t.cohort k).pc = (s.cohort k).pc ∧
        (t.cohort k).active = (s.cohort k).active) ∧
      (rest ≠ [] → (t.cohort r.id).active = rest ∧ (t.cohort r.id).pc = pcAdd c.pc a.len ∧
        (t.cohort r.id).uregs = c.uregs) ∧
      (rest = [] → c.groups = [] → t.cohort? r.id = none) ∧
      (rest = [] → c.groups ≠ [] → ∃ g ∈ c.groups, (t.cohort r.id).pc = g.pc ∧
        (t.cohort r.id).active = byLane s g.threads ∧ ∀ h ∈ c.groups, lowestSeat s g.threads ≤ lowestSeat s h.threads) ∧
      (∀ b, t.mem.flash.get b = s.mem.flash.get b) ∧
      ((∀ x ∈ r.ths, (s.launch (s.teamOf x).launch).taken = []) → SameDevice s t) ∧
      ∀ u b, (∀ x ∈ r.ths, ∀ w, (u, w) ∈ (s.teamOf x).windows →
          ¬(w ≤ b ∧ b < w + (s.plan (s.launch (s.teamOf x).launch).plan).spwin * 1024)) →
        (t.core u).scratch.get b = (s.core u).scratch.get b)

/-- WAIT holds the cohort for a number of cycles, until a cycle, or until its register writes have landed and its
threads' accesses are performed (R295); a word that waits for the last stays at its PC with every register as it was;
the expiry of the wait lets it go on. REFORM files the executing threads under the launch and the PC behind the word:
into the bin with that key and an open release, behind the threads it holds; else into the lowest empty bin, which gets
the cohort's uniform registers; with neither they become a pending group, which, as the only one, goes on behind the
word (R41, R43, R81, R291). YIELD gives up the status of current cohort with a cap mark (R296); NOP only issues (R298).
-/
def Obligations.WaitsAndHints : Prop :=
  ((∀ (f : ExtForm) (s : State) (r : Ready), prep s (extAcc f.x false) = .go r →
     ∃ t, exec (.wait f) s = .next t ∧ OnlyRegisters s t r ∧ (∀ x, t.thread x = s.thread x) ∧
       (t.cohort r.id).pc = pcAdd (s.cohort r.id).pc 3 ∧
       (t.cohort r.id).wait = if f.x.imm = 0 then .none else .clock (s.sched.clk + f.x.imm.toNat) true) ∧
   (∀ (f : ExtForm) (s : State) (r : Ready), prep s { extAcc f.x false with uregs := [f.x.a.idx.toNat] } = .go r →
     let c := ((s.cohort r.id).readUreg f.x.a.idx.toNat).toNat
     ∃ t, exec (.waitUntil f) s = .next t ∧ OnlyRegisters s t r ∧ (∀ x, t.thread x = s.thread x) ∧
       (t.cohort r.id).pc = pcAdd (s.cohort r.id).pc 3 ∧
       (t.cohort r.id).wait = if c ≤ s.sched.clk then .none else .clock c true) ∧
   (∀ (f : ExtForm) (s : State) (r : Ready), prep s (extAcc f.x false) = .go r →
     let undone := (s.cohort r.id).writes ≠ [] ∨ ∃ x ∈ (s.cohort r.id).members, (s.thread x).writes ≠ [] ∨
       ∃ q ∈ s.surf.reqs, q.thread = x ∧ (q.kind = 1 ∨ q.kind = 2)
     (undone → exec (.waitDrain f) s = .next (stallAt s r.id .drain)) ∧
     (¬undone → ∃ t, exec (.waitDrain f) s = .next t ∧ MovedOn s t r (extAcc f.x false) ∧ OnlyRegisters s t r ∧
       ∀ x, t.thread x = s.thread x)) ∧
   (∀ (s : State) (id : Nat) (w : Stall), (s.cohort? id).isSome →
     ((stallAt s id w).cohort id).wait = .stall w s.sched.clk ∧ ((stallAt s id w).cohort id).pc = (s.cohort id).pc ∧
     ((stallAt s id w).cohort id).active = (s.cohort id).active ∧ OtherCohorts s (stallAt s id w) id ∧
     (stallAt s id w).work.threads = s.work.threads ∧ (stallAt s id w).mem = s.mem ∧ (stallAt s id w).cores = s.cores) ∧
   ∀ (s : State) (c : Nat) (e : Bool), (s.cohort s.sched.arg.a).wait = .clock c e → c ≤ s.sched.clk →
     (s.cohort? s.sched.arg.a).isSome →
     ∃ t, exec .waitExpiry s = .next t ∧ (t.cohort s.sched.arg.a).wait = .none ∧
       (t.cohort s.sched.arg.a).pc = (s.cohort s.sched.arg.a).pc ∧ t.work.threads = s.work.threads ∧ SameMemory s t ∧
       OtherCohorts s t s.sched.arg.a) ∧
  ((∀ (i : Instr) (a : Acc) (s : State) (r : Ready),
     ((∃ st, i = .reformBase st ∧ a = { st := st.toNat }) ∨ (∃ f, i = .reform f ∧ a = extAcc f.x false)) →
     prep s a = .go r → Present s r.ths →
     let c := s.cohort r.id
     let behind := pcAdd c.pc a.len
     let bins := (s.core c.unit).bins
     let key (b : Bin) : Prop := b.launch = c.launch ∧ b.pc = behind ∧ b.cond = .openBin
     let filed : List Filed := r.ths.map fun x => { thread := x, time := s.sched.clk }
     ∃ t, exec i s = .next t ∧ SameMemory s t ∧ OtherThreads s t r.ths ∧ OtherCohorts s t r.id ∧
       (∀ x ∈ r.ths, (t.thread x).names = (s.thread x).names ∧ (t.thread x).preds = (s.thread x).preds) ∧
       (∀ n b, alookup bins n = some b → key b → (∀ m d, (m, d) ∈ bins → key d → m = n) → r.ths ≠ [] →
         (∀ x ∈ r.ths, (t.thread x).place = .bin c.unit n) ∧
         alookup (t.core c.unit).bins n = some { b with threads := b.threads ++ filed } ∧
         ∀ m, m ≠ n → alookup (t.core c.unit).bins m = alookup bins m) ∧
       (∀ n, (∀ m d, (m, d) ∈ bins → ¬key d) → firstFree (bins.map Prod.fst) 0 64 = some n → r.ths ≠ [] →
         (∀ x ∈ r.ths, (t.thread x).place = .bin c.unit n) ∧
         alookup (t.core c.unit).bins n = some ⟨c.launch, behind, .openBin, filed, c.uregs, c.priv, false⟩ ∧
         ∀ m, m ≠ n → alookup (t.core c.unit).bins m = alookup bins m) ∧
       ((∀ m d, (m, d) ∈ bins → ¬key d) → firstFree (bins.map Prod.fst) 0 64 = none → c.groups = [] → c.active ≠ [] →
         (∀ x ∈ c.active, x ∈ r.ths) → (t.cohort r.id).pc = behind ∧ (t.cohort r.id).active = byLane s r.ths ∧
         (t.cohort r.id).uregs = c.uregs ∧ (t.core c.unit).bins = bins)) ∧
   (∀ (i : Instr) (a : Acc) (s : State) (r : Ready),
     ((∃ st, i = .yieldBase st ∧ a = { st := st.toNat }) ∨ (∃ f, i = .yield f ∧ a = extAcc f.x false)) →
     prep s a = .go r →
     ∃ t, exec i s = .next t ∧ MovedOn s t r a ∧ OnlyRegisters s t r ∧ (∀ x, t.thread x = s.thread x) ∧
       (t.cohort r.id).capMark = true ∧
       (t.core (s.cohort r.id).unit).current =
         aerase (ainsert (s.core (s.cohort r.id).unit).current (s.cohort r.id).part r.id) (s.cohort r.id).part) ∧
   ∀ (i : Instr) (a : Acc) (s : State) (r : Ready),
     ((∃ st, i = .nopBase st ∧ a = { st := st.toNat }) ∨ (∃ f, i = .nop f ∧ a = extAcc f.x false)) →
     prep s a = .go r →
     ∃ t, exec i s = .next t ∧ MovedOn s t r a ∧ OnlyRegisters s t r ∧ (∀ x, t.thread x = s.thread x) ∧
       (t.cohort r.id).writes = (s.cohort r.id).writes)

/-- REGION makes the word behind it the region head of every executing thread and records its predicates and the values of
its live-ins, an unmapped one as unmapped, each after every earlier write to it; the cohort goes on 8 cycles after the last
such write, and the word waits for one whose time is not known (R85, R293). PASS traps where a name is outside the set or the
launch is not of stage 0, then where one is published already, waits for earlier writes to its names, and publishes the
names' values; a value that is published stands (R50, R294). -/
def Obligations.RegionsAndPasses : Prop :=
  (∀ (f : ExtForm) (s : State) (r : Ready),
    let a := extAcc f.x f.lit.isSome
    let live := sortBy id (listNames f.x f.lit)
    let head := pcAdd (s.cohort r.id).pc a.len
    let onLive (p : Pend) : Prop := ∃ n ∈ live, p.tgt = .name n
    let slow := ∃ x ∈ r.ths, ∃ p ∈ (s.thread x).writes, p.var = true ∧ onLive p
    prep s a = .go r → Present s r.ths →
    (slow → exec (.region f) s = .next (stallAt s r.id .scoreboard)) ∧
    (¬slow → ∃ t, exec (.region f) s = .next t ∧ SameMemory s t ∧ OtherThreads s t r.ths ∧ OtherCohorts s t r.id ∧
      (t.cohort r.id).pc = head ∧ (t.cohort r.id).uregs = (s.cohort r.id).uregs ∧
      (∃ w, (t.cohort r.id).wait = .clock w false ∧ s.sched.clk + 8 ≤ w ∧
        (∀ x ∈ r.ths, ∀ p ∈ (s.thread x).writes, onLive p → p.due + 8 ≤ w) ∧
        (w = s.sched.clk + 8 ∨ ∃ x ∈ r.ths, ∃ p ∈ (s.thread x).writes, onLive p ∧ w = p.due + 8)) ∧
      ∀ x ∈ r.ths, (t.thread x).head = head ∧ (t.thread x).live = live ∧ (t.thread x).restartable = true ∧
        (t.thread x).names = (s.thread x).names ∧ (t.thread x).preds = (s.thread x).preds ∧
        (t.thread x).writes = (s.thread x).writes ∧ (t.thread x).ckpt.head = head ∧
        (t.thread x).ckpt.live = live.map (fun n => (n,
          match ((s.thread x).writes.filter fun p => p.tgt == .name n).getLast? with
          | some p => if p.release then none else some (p.val.setWidth 32)
          | none => (alookup (s.thread x).names n).map NameVal.val)) ∧
        ∀ q, q < 7 → (t.thread x).ckpt.preds.getLsbD q =
          match ((s.thread x).writes.filter fun p => p.tgt == .pred q).getLast? with
          | some p => p.val.getLsbD 0
          | none => (s.thread x).preds.getLsbD q)) ∧
  ∀ (f : ExtForm) (s : State) (r : Ready),
    let n := f.x.a.idx.toNat
    let ns := if f.x.mod.getLsbD 0 then [n, n + 1] else [n]
    let a : Acc := { extAcc f.x false with marks := opndMarks f.x.a ns.length false }
    let inSet (x : Nat) : Prop := (s.launchOf x).stage = 0 ∧ ∀ k ∈ ns, k ∈ (s.planOf x).pass.map Prod.fst
    let fresh (x : Nat) : Prop := ∀ k ∈ ns, k ∉ (s.thread x).published
    let settled (x : Nat) : Prop := ∀ p ∈ (s.thread x).writes, ∀ k ∈ ns, p.tgt ≠ .name k
    prep s a = .go r → Present s r.ths →
    ((∃ x ∈ r.ths, ¬inSet x) → ∃ info, exec (.pass f) s = .next (takeTrap s r.id a.len .passbackRange info)) ∧
    ((∀ x ∈ r.ths, inSet x) → (∃ x ∈ r.ths, ¬fresh x) →
      ∃ info, exec (.pass f) s = .next (takeTrap s r.id a.len .passbackTwice info)) ∧
    ((∀ x ∈ r.ths, inSet x ∧ fresh x) → (∃ x ∈ r.ths, ¬settled x) →
      exec (.pass f) s = .next (stallAt s r.id .scoreboard)) ∧
    ((∀ x ∈ r.ths, inSet x ∧ fresh x ∧ settled x) →
      ∃ t, exec (.pass f) s = .next t ∧ MovedOn s t r a ∧ SameMemory s t ∧ OtherThreads s t r.ths ∧ OtherCohorts s t r.id ∧
        (∀ v ∈ s.work.notes, v ∈ t.work.notes) ∧
        ∀ x ∈ r.ths, (t.thread x).restartable = false ∧ ∀ k ∈ ns, k ∈ (t.thread x).published ∧
          let l := (s.thread x).launch
          let lin := (s.thread x).lin
          (∃ v ∈ t.work.notes, v.launch = l ∧ v.lin = lin ∧ v.name = k) ∧
          ((∀ v ∈ s.work.notes, ¬(v.launch = l ∧ v.lin = lin ∧ v.name = k)) →
            (∀ y ∈ r.ths, (s.thread y).launch = l → (s.thread y).lin = lin → y = x) →
            ∀ v ∈ t.work.notes, v.launch = l → v.lin = lin → v.name = k →
              v = ⟨l, lin, k, (s.thread x).readName k, (s.thread x).unit, s.sched.clk⟩))

/-- TRAP, and BKPT where breakpoints are enabled, stop the cohort behind the word when some thread executes it, with the code
and the resume PC of the trap; without an executing thread they only issue (R297, R405, R408). -/
def Obligations.SoftwareTraps : Prop :=
  ∀ (i : Instr) (a : Acc) (code : TrapCode) (v : Nat) (s : State) (r : Ready),
    ((∃ f, i = .trap f ∧ a = extAcc f.x false ∧ code = .swTrap ∧ v = f.x.imm.toNat) ∨
      (∃ st k, i = .bkptBase st k ∧ a = { st := st.toNat } ∧ code = .breakpoint ∧ v = k.toNat) ∨
      (∃ f, i = .bkpt f ∧ a = extAcc f.x false ∧ code = .breakpoint ∧ v = f.x.imm.toNat)) →
    prep s a = .go r →
    let c := s.cohort r.id
    (r.ths ≠ [] → (code = .breakpoint → (s.core c.unit).bken = true) →
      (∃ info, info.i0 = BitVec.ofNat 64 v ∧ info.thread = r.ths.head? ∧
        exec i s = .next (takeTrap s r.id a.len code info)) ∧
      ∃ t st, exec i s = .next t ∧ (t.cohort r.id).stop = some st ∧ st.code = code ∧ st.tpc = c.pc ∧
        st.rpc = pcAdd c.pc a.len ∧ st.stopno = (s.core c.unit).stopno + 1) ∧
    (r.ths = [] ∨ code = .breakpoint ∧ (s.core c.unit).bken = false →
      ∃ t, exec i s = .next t ∧ MovedOn s t r a ∧ OnlyRegisters s t r ∧ ∀ x, t.thread x = s.thread x)

/-- FREE unmaps the listed names, RSRV maps listed names that are not mapped to rows that hold 0 (R72, R303); RDSPC
reads a special register (R83, R304) and WRSPC writes OVST.LAST (R84, R305). The special registers: LIN, SEAT and STAGE,
the indices and extents of the levels, which are the digits of LIN in mixed radix, CLK, the bitmap of done tags, and
OVST's fields: the overlay of the PC, the depth of the return-pin stack, LAST, and the launch's demand loads on the
core, saturating (R29, R83, R84). -/
def Obligations.RegisterWords : Prop :=
  ((∀ (f : ExtForm) (s : State) (r : Ready),
     let a := extAcc f.x f.lit.isSome
     let ns := listNames f.x f.lit
     prep s a = .go r → Present s r.ths → (∀ x ∈ r.ths, (s.thread x).writes = []) →
     ∃ t, exec (.free f) s = .next t ∧ MovedOn s t r a ∧ OnlyRegisters s t r ∧
       ∀ x ∈ r.ths, (r.ths.count x = 1 → (t.thread x).names = ns.foldl aerase (s.thread x).names) ∧
         ∀ n, n ∉ ns → alookup (t.thread x).names n = alookup (s.thread x).names n) ∧
   (∀ (f : ExtForm) (s : State) (r : Ready),
     let ns := listNames f.x f.lit
     let a : Acc := { extAcc f.x f.lit.isSome with wNames := ns, lat := some 0 }
     prep s a = .go r → Present s r.ths → (∀ x ∈ r.ths, (s.thread x).writes = []) →
     ∃ t, exec (.rsrv f) s = .next t ∧ MovedOn s t r a ∧ OnlyRegisters s t r ∧
       ∀ x ∈ r.ths, (∀ n ∈ ns, (alookup (t.thread x).names n).isSome) ∧
         ∀ n, (t.thread x).readName n = (s.thread x).readName n) ∧
   (∀ (f : ExtForm) (s : State) (r : Ready),
     let d := f.x.d.idx.toNat
     let num := fld f.x.mod 7 0
     let words := if 0x20 ≤ num then 2 else 1
     (f.x.d.kind = true → prep s { extAcc f.x false with wUregs := [d], lat := some 2 } = .go r →
       ∃ t, exec (.rdspc f) s = .next t ∧ MovedOn s t r (extAcc f.x false) ∧ OnlyRegisters s t r ∧
         ∀ x, actingThread s r.ths = some x →
           UregWrite t r.id d false (s.sched.clk + 2) (BitVec.ofNat 64 (specialReg s (s.cohort r.id) x num))) ∧
     (f.x.d.kind = false → prep s { extAcc f.x false with wNames := (List.range words).map (d + ·), lat := some 4 } = .go r →
       Present s r.ths →
       ∃ t, exec (.rdspc f) s = .next t ∧ MovedOn s t r (extAcc f.x false) ∧ OnlyRegisters s t r ∧
         ∀ x ∈ r.ths, ∀ k, k < words → NameWrite t x (d + k) false (s.sched.clk + 4)
           ((specialReg s (s.cohort r.id) x num >>> (32 * k)) % 2 ^ 32))) ∧
   ∀ (f : ExtForm) (s : State) (r : Ready),
     let a : Acc := { extAcc f.x false with uregs := [f.x.a.idx.toNat] }
     prep s a = .go r → Present s r.ths →
     ∃ t, exec (.wrspc f) s = .next t ∧ MovedOn s t r a ∧ OnlyRegisters s t r ∧
       ∀ x ∈ r.ths, (t.thread x).last = ((s.cohort r.id).readUreg f.x.a.idx.toNat).extractLsb' 32 8 ∧
         (t.thread x).names = (s.thread x).names) ∧
  (∀ (s : State) (c : Cohort) (x : Nat),
     let th := s.thread x
     let l := s.launchOf x
     let sr (n : Nat) : Nat := specialReg s c x n
     let ext (k : Nat) : Nat := ((l.levels.drop k).head?.map Level.extent).getD 1
     let demand := (s.planOf x).demand.filter fun d => d.1 == th.launch && d.2.1 == th.unit
     sr 0x00 = th.lin ∧ sr 0x01 = th.seat ∧ sr 0x02 = l.stage ∧ sr 0x20 = s.sched.clk % 2 ^ 64 ∧
     (∀ k, k < 8 → sr (0x10 + k) = ext k ∧ (l.levels.length ≤ k → sr (0x08 + k) = 0)) ∧
     ((∀ e ∈ l.levels, 0 < e.extent) → l.levels.length ≤ 8 → th.lin < l.levels.foldl (fun p e => p * e.extent) 1 →
       (∀ k, k < l.levels.length → sr (0x08 + k) < ext k) ∧
       (List.range l.levels.length).foldl (fun m k => m * ext k + sr (0x08 + k)) 0 = th.lin) ∧
     (Rising (s.core c.unit).tags → ∀ i, (sr 0x21).testBit i = (tagAt s c.unit i).done) ∧
     (th.stack.length ≤ 16 → sr 0x22 / 2 ^ 48 = c.pc.toNat / 65536 ∧ sr 0x22 / 2 ^ 43 % 2 ^ 5 = th.stack.length) ∧
     sr 0x22 / 2 ^ 40 % 2 ^ 3 = 0 ∧ sr 0x22 / 2 ^ 32 % 2 ^ 8 = th.last.toNat ∧
     ∀ n, demand.map (·.2.2) = [n] → sr 0x22 % 2 ^ 32 = Nat.min n (2 ^ 32 - 1))

/-- OVLD, OVPIN, OVUNPIN and OVEVICT act once, on the overlay that the acting thread's plan gives the index (R299): OVLD
brings it into the view or begins a load, OVPIN and OVUNPIN count the team's explicit pins, OVEVICT takes an unpinned
overlay out of the tenant's view; OVST.LAST says what was found (R99, R300, R301). Without an executing thread the word
only issues. An entry that names the same shareable overlay as another of its tenant is in view with it, and pins on it
count together: the model's reading (log entry 26). OVQRY answers, scoreboarded, the overlay's pins, slots, the status
of the last completed load, 0xFF where none has completed, and its state, and sets OVST.LAST (R302); where the entry has
to be read and a segment of it moves, the word waits (R178). Of an overlay that only another tenant has in view SLOTS
and PINS are the acting tenant's (log entry 77). Loads of a shareable overlay are those of its tenant with its LEN and
DIGEST: the model's reading (log entry 26). -/
def Obligations.OverlayWords : Prop :=
  (∀ (f : ExtForm) (s : State) (r : Ready),
     let reg := bitOf f.x.mod 9
     let a : Acc := { extAcc f.x false with uregs := if reg then [f.x.a.idx.toNat] else [], lat := some 0 }
     let c := s.cohort r.id
     prep s a = .go r → Present s r.ths →
     (∀ i ∈ [Instr.ovld f, .ovpin f, .ovunpin f, .ovevict f],
       ∃ t, exec i s = .next t ∧ MovedOn s t r a ∧ KeepsBytes s t r ∧
         ∀ x ∈ r.ths, (t.thread x).names = (s.thread x).names ∧ (t.thread x).preds = (s.thread x).preds) ∧
     ∀ x, actingThread s r.ths = some x →
       let o := refOf (s.planOf x) (if reg then (c.readUreg f.x.a.idx.toNat).toNat % 65536 else f.x.imm.toNat)
       let s1 := bindTwin (plainIssue s r a) c.unit o c.priv
       let st := ovState s1 c.unit o
       let tm := (s.thread x).team
       let ix := pinIndex s1 (s.team tm) c.unit o
       let n := teamPins (s.team tm) c.unit ix
       (∃ t, exec (.ovld f) s = .next t ∧ (st ≠ 0 → (loadOf t c.unit o).isSome) ∧
         (st = 0 → tagAt t c.unit (fld f.x.mod 5 0) =
           ⟨(tagAt s c.unit (fld f.x.mod 5 0)).count, decide ((tagAt s c.unit (fld f.x.mod 5 0)).count = 0),
             (tagAt s c.unit (fld f.x.mod 5 0)).err && decide ((tagAt s c.unit (fld f.x.mod 5 0)).count ≠ 0)⟩) ∧
         ∀ y ∈ r.ths, (t.thread y).last = (if st = 0 then 0 else 1) ∧ (t.thread y).restartable = false) ∧
       (∃ t, exec (.ovpin f) s = .next t ∧
         ((alookup s.work.teams tm).isSome → n ≤ 65535 → teamPins (t.team tm) c.unit ix =
           if st = 2 then n else min (n + 1) 65535) ∧
         ∀ y ∈ r.ths, (t.thread y).last = BitVec.ofNat 8 st ∧ (t.thread y).restartable = false) ∧
       (∃ t, exec (.ovunpin f) s = .next t ∧
         ((alookup s.work.teams tm).isSome → teamPins (t.team tm) c.unit ix = n - 1) ∧
         ∀ y ∈ r.ths, (t.thread y).last.toNat = ovState t c.unit o ∧ (t.thread y).restartable = false) ∧
       ∃ t, exec (.ovevict f) s = .next t ∧
         (∀ y ∈ r.ths, (t.thread y).last = match inView s1 c.unit o with
           | none => if st = 1 then 0x04 else 0x02
           | some i => if pinCount s1 c.unit i.views = 0 then 0x00 else 0x03) ∧
         ∀ i, inView s1 c.unit o = some i →
           (pinCount s1 c.unit i.views ≠ 0 → (t.core c.unit).images = (s1.core c.unit).images) ∧
           (pinCount s1 c.unit i.views = 0 → ∀ k ∈ (t.core c.unit).images, k.id = i.id → ∀ v ∈ k.views, v.tenant ≠ o.tenant)) ∧
  (∀ (f : ExtForm) (s : State) (r : Ready) (x : Nat),
     let reg := bitOf f.x.mod 9
     let d := f.x.d.idx.toNat
     let a : Acc := { extAcc f.x false with uregs := if reg then [f.x.a.idx.toNat] else [], wUregs := [d] }
     let c := s.cohort r.id
     let o := refOf (s.planOf x) (if reg then (c.readUreg f.x.a.idx.toNat).toNat % 65536 else f.x.imm.toNat)
     let s1 := bindTwin (plainIssue s r a) c.unit o c.priv
     let st := ovState s1 c.unit o
     prep s a = .go r → Present s r.ths → actingThread s r.ths = some x → (∀ y ∈ (s.core c.unit).lastLoads, y.status < 256) →
     let asked := takeTurn s (.req r.id) (entrySpans s c.unit o c.priv)
     (identReads s c.unit o = true → asked.1 = false → exec (.ovqry f) s = .next (stallAt asked.2 r.id .transition)) ∧
     ((identReads s c.unit o = true → asked.1 = true) →
     ∃ t v, exec (.ovqry f) s = .next t ∧ MovedOn s t r a ∧ KeepsBytes s t r ∧
       UregWrite t r.id d true (s.sched.clk + 1) v ∧
       v.toNat % 256 = st ∧ v.toNat / 2 ^ 8 % 256 = 0 ∧ v.toNat / 2 ^ 24 % 2 ^ 16 = 0 ∧
       (∀ ident : Option (Nat × List Byte),
         ((∃ i, inView s1 c.unit o = some i ∧ ident = if i.share then some (i.len, i.digest) else none) ∨
           (inView s1 c.unit o = none ∧ ∃ l, loadOf s1 c.unit o = some l ∧
             ident = if l.share then some (l.len, l.digest) else none) ∨
           (inView s1 c.unit o = none ∧ loadOf s1 c.unit o = none ∧ ident = none ∧
             ∀ y ∈ (s.core c.unit).lastLoads, y.ident = none)) →
         let mine := (s.core c.unit).lastLoads.filter fun y =>
           decide (y.ident = ident) && (if ident.isSome then y.ref.tenant == o.tenant else y.ref == o)
         v.toNat / 2 ^ 16 % 256 = (mine.head?.map LastLoad.status).getD 0xFF) ∧
       (∀ i, inView s1 c.unit o = some i → i.len ≤ 262144 → v.toNat / 2 ^ 40 % 256 = slotsOf i.len ∧
         v.toNat / 2 ^ 48 = min (pinCount s1 c.unit i.views) 65535) ∧
       (inView s1 c.unit o = none → v.toNat / 2 ^ 40 % 256 = 0 ∧ v.toNat / 2 ^ 48 = min (pinCount s1 c.unit [o]) 65535) ∧
       ∀ y ∈ r.ths, (t.thread y).last = BitVec.ofNat 8 st))

/-- CALLO (R287): a full return-pin stack traps CALL_DEPTH; into an overlay in view every executing thread pushes the PC
behind the word and the cohort goes on at the entry, an entry beyond the table traps BAD_TARGET; for an overlay out of view
the cohort waits at the word for its load (R97). That the view is judged with another entry of the same shareable overlay
(log entry 26), and that the load begins and the word waits at its PC (log entry 54), is the model's reading. -/
def Obligations.OverlayCalls : Prop :=
  ∀ (f : ExtForm) (s : State) (r : Ready),
    let reg := bitOf f.x.mod 9
    let a : Acc := { extAcc f.x false with uregs := if reg then [f.x.a.idx.toNat] else [], lat := some 0 }
    let c := s.cohort r.id
    let v := (c.readUreg f.x.a.idx.toNat).toNat
    let entry := if reg then v / 65536 % 65536 else fld f.x.mod 8 0
    prep s a = .go r → Present s r.ths →
    ((∃ x ∈ r.ths, 16 ≤ (s.thread x).stack.length) → ∃ i, exec (.callo f) s = .next (takeTrap s r.id 3 .callDepth i)) ∧
    ∀ x, actingThread s r.ths = some x → (∀ y ∈ r.ths, (s.thread y).stack.length < 16) →
      let o := refOf (s.planOf x) (if reg then v % 65536 else f.x.imm.toNat)
      let s1 := bindTwin s c.unit o c.priv
      (∀ i, inView s1 c.unit o = some i →
        (entry < (i.words.getD 1 0).toNat / 65536 → f.x.pg = 7 → f.x.pn = false →
          let pc : Word := BitVec.ofNat 32 (o.index * 65536 + (i.words.getD (8 + entry) 0).toNat % 65536)
          ∃ t, exec (.callo f) s = .next t ∧ KeepsBytes s t r ∧ (t.cohort r.id).pc = pc ∧ (t.cohort r.id).wait = .none ∧
            ∀ y ∈ r.ths, (t.thread y).head = pc ∧ (t.thread y).names = (s.thread y).names ∧
              (r.ths.count y = 1 → (t.thread y).stack = pcAdd c.pc 3 :: (s.thread y).stack)) ∧
        ((i.words.getD 1 0).toNat / 65536 ≤ entry → ∃ k, exec (.callo f) s = .next (takeTrap s r.id 3 .badTarget k))) ∧
      (inView s1 c.unit o = none →
        ∃ t, exec (.callo f) s = .next t ∧ KeepsBytes s t r ∧ (t.cohort r.id).pc = c.pc ∧
          (t.cohort r.id).wait = .overlay o entry f.x.st.toNat ∧ (loadOf t c.unit o).isSome ∧
          ∀ y, t.thread y = s.thread y)

/-- DWRD reads and DWWR writes an 8-byte unit of a debug window in the proctor's reach: the predicate says whether the
access was accepted, a refused one reads 0 and writes nothing, a misaligned one traps (R307); the selection, the resume PC,
uniform registers, predicates and names are written in place (R413). -/
def Obligations.DebugWindows : Prop :=
  ∀ (f : ExtForm) (s : State) (r : Ready),
    let c := s.cohort r.id
    let d := f.x.d.idx.toNat
    let pd := f.x.pd.toNat
    let p := procAddr f c
    let core := p / 2 ^ 16 % 256
    let off := p % 2 ^ 16
    let refused := p / 2 ^ 24 ≠ 0 ∨ reaches (whoIs c) core = false
    let a := procAcc f [f.x.a.idx.toNat] [d] true
    let b := procAcc f (f.x.a.idx.toNat :: if f.lit.isSome then [] else [f.x.b.idx.toNat]) [] true
    let v := procValue f c
    Present s r.ths → r.ths ≠ [] →
    (prep s a = .go r →
      (p % 8 ≠ 0 → exec (.dwrd f) s = .next (takeTrap s r.id a.len .misaligned {})) ∧
      (p % 8 = 0 → ∃ t, exec (.dwrd f) s = .next t ∧ MovedOn s t r a ∧ OnlyRegisters s t r ∧
        (refused ∨ windowRead s core off = none → UregWrite t r.id d true (s.sched.clk + 1) 0 ∧
          ∀ x ∈ r.ths, pd < 7 → PredWrite t x pd true (s.sched.clk + 1) false) ∧
        ∀ u, ¬refused → windowRead s core off = some u → UregWrite t r.id d true (s.sched.clk + 1) u ∧
          ∀ x ∈ r.ths, pd < 7 → PredWrite t x pd true (s.sched.clk + 1) true)) ∧
    (prep s b = .go r →
      (p % 8 ≠ 0 → exec (.dwwr f) s = .next (takeTrap s r.id b.len .misaligned {})) ∧
      (p % 8 = 0 → refused ∨ windowWrite s core off v = none →
        ∃ t, exec (.dwwr f) s = .next t ∧ MovedOn s t r b ∧ OnlyRegisters s t r ∧
          ∀ x ∈ r.ths, pd < 7 → PredWrite t x pd true (s.sched.clk + 1) false) ∧
      (p % 8 = 0 → ¬refused → (windowWrite s core off v).isSome → handleCohort s (s.core core).dwsel ≠ some r.id →
        ∃ t, exec (.dwwr f) s = .next t ∧ MovedOn s t r b ∧ SameMemory s t ∧
          (∀ x ∈ r.ths, pd < 7 → PredWrite t x pd true (s.sched.clk + 1) true) ∧
          (off = 0 → (t.core core).dwsel = v) ∧
          ∀ id, off ≠ 0 → handleCohort s (s.core core).dwsel = some id →
            (off = 0x10 → ∀ st, (s.cohort id).stop = some st →
              (t.cohort id).stop = some { st with rpc := v.setWidth 32 }) ∧
            (0x800 ≤ off → off < 0x1000 → (t.cohort id).readUreg ((off - 0x800) / 8) = v) ∧
            ∀ lane ix y, laneThread s (s.cohort id) lane = some y → (alookup s.work.threads y).isSome →
              (windowLane off = some (0, lane, ix) → (t.thread y).preds = v.setWidth 7) ∧
              (windowLane off = some (2, lane, ix) →
                (∃ row, alookup (t.thread y).names (2 * ix) = some ⟨row, v.setWidth 32⟩) ∧
                (2 * ix + 1 < (s.planC (s.cohort id)).rowmax →
                  ∃ row, alookup (t.thread y).names (2 * ix + 1) = some ⟨row, v.extractLsb' 32 32⟩))))

/-- CFGRD reads and CFGWR writes a unit of the configuration space; the predicate says whether it was accepted, and a
refused write changes nothing (R312). -/
def Obligations.ConfigurationWords : Prop :=
  ∀ (f : ExtForm) (s : State) (r : Ready),
    let c := s.cohort r.id
    let d := f.x.d.idx.toNat
    let pd := f.x.pd.toNat
    let p := procAddr f c
    let a := procAcc f [f.x.a.idx.toNat] [d] true
    let b := procAcc f (f.x.a.idx.toNat :: if f.lit.isSome then [] else [f.x.b.idx.toNat]) [] true
    Present s r.ths → r.ths ≠ [] →
    (prep s a = .go r →
      (p % 8 ≠ 0 → exec (.cfgrd f) s = .next (takeTrap s r.id a.len .misaligned {})) ∧
      (p % 8 = 0 → ∃ t, exec (.cfgrd f) s = .next t ∧ MovedOn s t r a ∧ OnlyRegisters s t r ∧
        UregWrite t r.id d true (s.sched.clk + 1) ((cfgRead s (whoIs c) p).getD 0) ∧
        ∀ x ∈ r.ths, pd < 7 → PredWrite t x pd true (s.sched.clk + 1) (cfgRead s (whoIs c) p).isSome)) ∧
    (prep s b = .go r →
      (p % 8 ≠ 0 → exec (.cfgwr f) s = .next (takeTrap s r.id b.len .misaligned {})) ∧
      (p % 8 = 0 → cfgWrite s (whoIs c) p (procValue f c).toNat = none →
        ∃ t, exec (.cfgwr f) s = .next t ∧ MovedOn s t r b ∧ OnlyRegisters s t r ∧
          ∀ x ∈ r.ths, pd < 7 → PredWrite t x pd true (s.sched.clk + 1) false) ∧
      (p % 8 = 0 → cfgUnit p ∉ [CfgUnit.none, .bellGen, .fence] →
        (cfgWrite s (whoIs c) p (procValue f c).toNat).isSome →
        ∃ t, exec (.cfgwr f) s = .next t ∧ MovedOn s t r b ∧ SameMemory s t ∧
          (∀ x, t.thread x = { s.thread x with writes := (t.thread x).writes }) ∧
          (∀ x ∈ r.ths, pd < 7 → PredWrite t x pd true (s.sched.clk + 1) true) ∧
          cfgRead t (whoIs c) p = some (procValue f c)))

/-- CRESUME resumes the cohorts of a handle's group at their recorded resume point, behind the trapping word, or at a given
PC, and answers 0; 1 where the handle names no stopped cohort, 2 outside the proctor's reach, with no other effect (R308,
R412). A QPUSH that is tried again goes on with its first record that is not committed (log entry 59). `cresume.plan` makes the
held teams of a plan placeable; that a proctor's reach of the plan is judged by the cores of its placed teams is the model's
reading (log entry 44). -/
def Obligations.Resumptions : Prop :=
  (∀ (f : ExtForm) (s : State) (r : Ready) (i : Instr) (reads : List Nat) (pc : Stop → Word),
    let c := s.cohort r.id
    let d := f.x.d.idx.toNat
    let a := procAcc f (f.x.a.idx.toNat :: reads) [d] false
    let h := c.readUreg f.x.a.idx.toNat
    let ids := if h.toNat / 2 ^ 24 % 256 ≠ 0 then [] else groupOf s h
    let due := s.sched.clk + 1
    ((i = .cresume f ∧ reads = [] ∧ pc = fun st => st.rpc) ∨
      (i = .cresumeSkip f ∧ reads = [] ∧ pc = fun st => pcAdd st.tpc st.len) ∨
      (i = .cresumePc f ∧ reads = [f.x.b.idx.toNat] ∧ pc = fun _ => (c.readUreg f.x.b.idx.toNat).setWidth 32)) →
    prep s a = .go r → r.ths ≠ [] →
    ∃ t, exec i s = .next t ∧ SameMemory s t ∧ (∀ x, t.thread x = s.thread x) ∧
      (reaches (whoIs c) (h.toNat / 2 ^ 16 % 256) = false → MovedOn s t r a ∧ OnlyRegisters s t r ∧ UregWrite t r.id d true due 2) ∧
      (reaches (whoIs c) (h.toNat / 2 ^ 16 % 256) = true → ids = [] →
        MovedOn s t r a ∧ OnlyRegisters s t r ∧ UregWrite t r.id d true due 1) ∧
      (reaches (whoIs c) (h.toNat / 2 ^ 16 % 256) = true → ids ≠ [] → r.id ∉ ids →
        MovedOn s t r a ∧ UregWrite t r.id d true due 0 ∧
        (∀ k, k ∉ ids → k ≠ r.id → t.cohort? k = s.cohort? k) ∧
        ∀ k ∈ ids, ∀ st, (s.cohort k).stop = some st →
          t.cohort k = { s.cohort k with
            stop := none, pc := pc st, pushed := if pc st = (s.cohort k).pc then (s.cohort k).pushed else 0 })) ∧
  ∀ (f : ExtForm) (s : State) (r : Ready),
    let c := s.cohort r.id
    let d := f.x.d.idx.toNat
    let a := procAcc f [f.x.a.idx.toNat] [d] false
    let teams := (plansAt s ((c.readUreg f.x.a.idx.toNat).toNat % 2 ^ 52)).flatMap (planTeams s)
    prep s a = .go r → r.ths ≠ [] →
    ∃ t, exec (.cresumePlan f) s = .next t ∧ MovedOn s t r a ∧ OnlyRegisters s t r ∧
      ((∃ x ∈ teams, teamReach (whoIs c) x.2 = false) →
        t.work.teams = s.work.teams ∧ UregWrite t r.id d true (s.sched.clk + 1) 2) ∧
      ((∀ x ∈ teams, teamReach (whoIs c) x.2 = true) → (∀ x ∈ teams, x.2.held = false ∨ x.2.save = none) →
        t.work.teams = s.work.teams ∧ UregWrite t r.id d true (s.sched.clk + 1) 1) ∧
      ((∀ x ∈ teams, teamReach (whoIs c) x.2 = true) → (∃ x ∈ teams, x.2.held = true ∧ x.2.save.isSome) →
        UregWrite t r.id d true (s.sched.clk + 1) 0 ∧
        ∀ x ∈ teams, x.2.held = true → x.2.save.isSome → (t.team x.1).held = false)

/-- CKILL ends every thread of a stopped cohort, of its teams, or of its plan, and answers 0; 1 where the handle names no
stopped cohort, 2 outside the proctor's reach, with no other effect (R309); the handle of a record acts on every cohort of its
group (R412). An ended thread loses names, predicates and stack; every other thread keeps its place, names, predicates and
stack, and every cohort of none but such threads goes on as it stood. That the team form ends every team with a thread in
the cohort, and that a plan is in reach by the cores of its placed teams, is the model's reading (log entry 44). -/
def Obligations.Kills : Prop :=
  ∀ (f : ExtForm) (s : State) (r : Ready) (i : Instr) (inReach : Nat → Bool) (victims : Nat → List Nat),
    let c := s.cohort r.id
    let d := f.x.d.idx.toNat
    let a := procAcc f [f.x.a.idx.toNat] [d] false
    let h := c.readUreg f.x.a.idx.toNat
    let ids := if h.toNat / 2 ^ 24 % 256 ≠ 0 then [] else groupOf s h
    let reach := reaches (whoIs c) (h.toNat / 2 ^ 16 % 256) = true ∧ ∀ k ∈ ids, inReach k = true
    let due := s.sched.clk + 1
    ((i = .ckill f ∧ inReach = (fun _ => true) ∧ victims = fun k => (s.cohort k).members) ∨
      (i = .ckillTeam f ∧ (inReach = fun k => (cohortTeams s k).all fun t => teamReach (whoIs c) (s.team t)) ∧
        victims = fun k => (cohortTeams s k).flatMap fun t => (s.team t).threads) ∨
      (i = .ckillPlan f ∧ (inReach = fun k => (planTeams s (cohortPlan s k)).all fun t => teamReach (whoIs c) t.2) ∧
        victims = fun k => (s.work.threads.filter fun x => (s.launch x.2.launch).plan == cohortPlan s k).map Prod.fst)) →
    prep s a = .go r → r.ths ≠ [] →
    (¬reach → ∃ t, exec i s = .next t ∧ MovedOn s t r a ∧ OnlyRegisters s t r ∧ (∀ x, t.thread x = s.thread x) ∧
      UregWrite t r.id d true due 2) ∧
    (reach → ids = [] → ∃ t, exec i s = .next t ∧ MovedOn s t r a ∧ OnlyRegisters s t r ∧ (∀ x, t.thread x = s.thread x) ∧
      UregWrite t r.id d true due 1) ∧
    let all := ids.flatMap victims
    (reach → ids ≠ [] → (∀ x ∈ all, x ∉ c.members) →
      ∃ t, exec i s = .next t ∧ (t.cohort r.id).pc = pcAdd c.pc a.len ∧ UregWrite t r.id d true due 0 ∧
        (∀ x ∈ all, (t.thread x).place = .exited ∨ (t.thread x).place = .lost) ∧
        (∀ x ∈ all, (s.thread x).place ≠ .exited → (s.thread x).place ≠ .lost → (t.thread x).place = .exited ∧
          (t.thread x).names = [] ∧ (t.thread x).preds = 0 ∧ (t.thread x).stack = [] ∧ (t.thread x).writes = []) ∧
        (∀ x, x ∉ all → (t.thread x).place = (s.thread x).place ∧ (t.thread x).names = (s.thread x).names ∧
          (t.thread x).preds = (s.thread x).preds ∧ (t.thread x).stack = (s.thread x).stack ∧
          (t.thread x).writes = (s.thread x).writes) ∧
        ∀ k, k ≠ r.id → (∀ x ∈ (s.cohort k).members, x ∉ all) →
          (t.cohort k).pc = (s.cohort k).pc ∧ (t.cohort k).uregs = (s.cohort k).uregs ∧
          (t.cohort k).active = (s.cohort k).active ∧ (t.cohort k).groups = (s.cohort k).groups ∧
          (t.cohort k).stop = (s.cohort k).stop)

/-- CPREEMPT of a target outside the proctor's reach writes bit 63 alone; one that selects no team writes 0; else the selected
teams leave and the word waits for every one to be saved (R310). The next state is an intermediate one, which the last clause
describes, after `settleLeaving`: what can leave at once has left. A plan's reach is judged by the cores of its placed teams
(log entry 44), teams that are leaving already are waited for too, and what can stop stops at once (log entry 32): the model's
readings. -/
def Obligations.Preemptions : Prop :=
  ∀ (f : ExtForm) (s : State) (r : Ready) (i : Instr) (pick : List (Nat × Team)) (near : Bool),
    let c := s.cohort r.id
    let d := f.x.d.idx.toNat
    let a := procAcc f [f.x.a.idx.toNat] [d] false
    let v := (c.readUreg f.x.a.idx.toNat).toNat
    let teams := pick.filter fun x => x.2.save.isNone
    let go := (selectTeams s (teams.map Prod.fst)).1
    let reach := near = true ∧ ∀ x ∈ teams, teamReach (whoIs c) x.2 = true
    ((i = .cpreemptPlan f ∧ pick = (plansAt s (v % 2 ^ 52)).flatMap (planTeams s) ∧ near = true) ∨
      (i = .cpreemptCore f ∧ (pick = s.work.teams.filter fun x => !x.2.exited && x.2.units.contains (v % 256)) ∧
        near = reaches (whoIs c) (v % 256)) ∨
      (i = .cpreemptQueue f ∧ near = true ∧
        pick = ((s.work.plans.filter fun x => x.2.queue == v % 8 && !x.2.done).map Prod.fst).flatMap (planTeams s))) →
    prep s a = .go r → r.ths ≠ [] →
    (¬reach → ∃ t, exec i s = .next t ∧ MovedOn s t r a ∧ OnlyRegisters s t r ∧ t.work.teams = s.work.teams ∧
      UregWrite t r.id d true (s.sched.clk + 1) (BitVec.ofNat 64 (2 ^ 63))) ∧
    (reach → teams = [] → ∃ t, exec i s = .next t ∧ MovedOn s t r a ∧ OnlyRegisters s t r ∧
      UregWrite t r.id d true (s.sched.clk + 1) 0) ∧
    (reach → go ≠ [] → ∃ t, exec i s = .next t ∧ ∃ t0, t = settleLeaving t0 ∧
      ((∀ x ∈ c.members, (s.thread x).team ∉ go) → (∀ x ∈ s.work.cohorts, x.1 = r.id → x.2 = c) →
        (t0.cohort r.id).wait = .preempt go 0 d ∧ (t0.cohort r.id).pc = pcAdd c.pc a.len) ∧
      ∀ m ∈ go, (alookup s.work.teams m).isSome → (t0.team m).leaving.isSome ∧
        (bitOf f.x.mod 2 = true → (t0.team m).held = true))

/-- EVTRD takes the oldest record out of the proctor's event queue, `evtrd.fault` out of its fault queue, into
consecutive uniform registers, lowest bytes first; from an empty queue they read 0 and the predicate is cleared. The hub
proctor has no fault queue (R315). TLBFL invalidates, on every core and cluster, the entries that translate a page in a
context, those of a context, or all, and no others (R311). It goes on once the proctor's own surface writes are
performed and no request to a peer is under way that was translated through such an entry; until then it stays at its
PC. Of a request whose copy is gone the entry is no longer known, and it is waited for: the model's reading (log entry
85). -/
def Obligations.RecordsAndFlushes : Prop :=
  (∀ (f : ExtForm) (s : State) (r : Ready) (i : Instr) (n : Nat) (queue : State → List (List DWord)),
     let c := s.cohort r.id
     let d := f.x.d.idx.toNat
     let pd := f.x.pd.toNat
     let a := procAcc f [] ((List.range n).map (d + ·)) true
     ((i = .evtrd f ∧ n = 4 ∧ queue = fun s => ((alookup s.host.evp (whoIs c)).getD []).map EventRec.dwords) ∨
       (i = .evtrdFault f ∧ n = 8 ∧ queue = fun s => if whoIs c = 32 then []
         else ((alookup s.host.faultq (whoIs c)).getD []).map TrapRec.dwords)) →
     prep s a = .go r → Present s r.ths → r.ths ≠ [] →
     ∃ t, exec i s = .next t ∧ MovedOn s t r a ∧ SameMemory s t ∧ OtherThreads s t r.ths ∧ OtherCohorts s t r.id ∧
       queue t = (queue s).tail ∧ (∀ x ∈ r.ths, pd < 7 → PredWrite t x pd true (s.sched.clk + 1) (queue s ≠ [])) ∧
       (queue s = [] → ∀ k, k < n → UregWrite t r.id (d + k) true (s.sched.clk + 1) 0) ∧
       ∀ vs rest, queue s = vs :: rest →
         ∀ k, k < n → UregWrite t r.id (d + k) true (s.sched.clk + 1) (vs.getD k 0)) ∧
  (∀ (f : ExtForm) (s : State) (r : Ready) (i : Instr) (reads : List Nat) (gone : TlbEntry → Prop),
     let c := s.cohort r.id
     let page := (c.readUreg f.x.a.idx.toNat).toNat % 2 ^ 52 / 4096
     let ctx := (c.readUreg f.x.b.idx.toNat).toNat % 16
     let a := procAcc f reads [] false
     ((i = .tlbflPage f ∧ reads = [f.x.a.idx.toNat, f.x.b.idx.toNat] ∧
         gone = fun e => e.ctx = ctx ∧ e.page ≤ page ∧ page < e.page + e.pages) ∨
       (i = .tlbflCtx f ∧ reads = [f.x.b.idx.toNat] ∧ gone = fun e => e.ctx = ctx) ∨
       (i = .tlbflAll f ∧ reads = [] ∧ gone = fun _ => True)) →
     prep s a = .go r → r.ths ≠ [] →
     let waits := (∃ q ∈ s.surf.reqs, (q.kind = 1 ∨ q.kind = 2) ∧ (s.thread q.thread).unit = c.unit) ∨
       (∃ k ∈ s.mem.copies, ∃ w, k.await = some w ∧ gone (awaitEntry k w)) ∨ strayFlight s = true
     ∃ t, exec i s = .next t ∧ KeepsBytes s t r ∧ (∀ x, t.thread x = s.thread x) ∧
       (¬waits → MovedOn s t r a) ∧
       (waits → (t.cohort r.id).pc = c.pc ∧ (t.cohort r.id).wait = .stall .drain s.sched.clk ∧ (t.cohort r.id).uregs = c.uregs) ∧
       (∀ u e, e ∈ (t.core u).tlb ↔ e ∈ (s.core u).tlb ∧ ¬gone e) ∧
       ∀ k e, e ∈ (alookup t.mem.ctlb k).getD [] ↔ e ∈ (alookup s.mem.ctlb k).getD [] ∧ ¬gone e)

/-- The checks of a word's accesses in their order (R352): space, alignment, translation, race. In every space the first
thread outside it traps, then the first misaligned one. In the windows an access inside goes to the window's base on the unit
of the seat, a parameter access at or beyond SIZE reads zeros. A global access of one thread faults where the walk stops, at
a TIER or REMOTE leaf, without permission to write, or at a privileged page outside proctor mode (R417); then, outside proctor
mode, it raises RACE where another core holds the pass over its segment, or, a plain one, where it conflicts with a holder
that is not released for it (R183, R191); else it goes to the leaf's page. A word waits only for a segment in transition or
behind earlier requests, those that its walk reads among them (R178, R418), and as a whole: the model's choice (log entry 20).
A trap or a wait changes no byte of memory
and no directory entry. -/
def Obligations.AccessChecks : Prop :=
  ∀ (s : State) (id unit : Nat) (priv : Bool) (h : How) (ls : List Lane) (wr : State → List (Lane × Loc) → List Bool),
    let fits (l : Lane) : Prop :=
      if h.space = 0 then l.ea < 2 ^ 52
      else if h.space = 1 then l.ea + h.size ≤ windowBytes s l.thread
      else if h.space = 2 then l.sel < (s.launchOf l.thread).teamSize ∧ (seatUnit s (s.thread l.thread).team l.sel).isSome ∧
        l.ea + h.size ≤ windowBytes s l.thread
      else (alookup (s.planOf l.thread).wins l.sel).isSome
    let even (l : Lane) : Prop := l.ea % h.size = 0
    let base (l : Lane) (u : Nat) : Loc := .scratch u (windowBase s (s.thread l.thread).team u + l.ea)
    (∀ code k, checkAccess s id unit priv h ls wr = .trap code k →
      (code = .spaceBound → h.space ≠ 0 ∧ ∃ l ∈ ls, ¬fits l) ∧ (code = .misaligned → (∀ l ∈ ls, fits l) ∧ ∃ l ∈ ls, ¬even l) ∧
      (code = .pageFault → h.space ≠ 1 ∧ h.space ≠ 2 ∧ (h.space = 0 ∧ (∃ l ∈ ls, ¬fits l) ∨ ∀ l ∈ ls, fits l ∧ even l)) ∧
      (code = .protection → h.space ≠ 1 ∧ h.space ≠ 2 ∧ ∀ l ∈ ls, fits l ∧ even l) ∧
      (code = .race → h.space = 0 ∧ priv = false ∧ ∀ l ∈ ls, fits l ∧ even l) ∧
      code ∈ [TrapCode.spaceBound, .misaligned, .pageFault, .protection, .race]) ∧
    (∀ s1, checkAccess s id unit priv h ls wr = .stall s1 → SameMemory s s1 ∧ s1.work = s.work ∧ s1.mem.dir = s.mem.dir ∧
      (∀ l ∈ ls, fits l ∧ even l) ∧ ((∃ n, (segAt s n).trn = true) ∨ s.mem.waiting ≠ [])) ∧
    (∀ s1 xs, checkAccess s id unit priv h ls wr = .ok s1 xs → SameMemory s s1 ∧ s1.work = s.work ∧ xs.map Prod.fst = ls ∧
      ∀ l ∈ ls, fits l ∧ even l) ∧
    (∀ pre l post, ls = pre ++ l :: post → (∀ k ∈ pre, fits k) → ¬fits l → ∃ k, k.thread = some l.thread ∧
      checkAccess s id unit priv h ls wr = .trap (if h.space = 0 then .pageFault else .spaceBound) k) ∧
    (∀ pre l post, ls = pre ++ l :: post → (∀ k ∈ ls, fits k) → (∀ k ∈ pre, even k) → ¬even l →
      ∃ k, k.thread = some l.thread ∧ checkAccess s id unit priv h ls wr = .trap .misaligned k) ∧
    ((∀ l ∈ ls, fits l ∧ even l) →
      (h.space = 1 → checkAccess s id unit priv h ls wr = .ok (dequeueAt s id) (ls.map fun l => (l, base l unit))) ∧
      (h.space = 2 → checkAccess s id unit priv h ls wr = .ok (dequeueAt s id) (ls.map fun l =>
        (l, base l ((seatUnit s (s.thread l.thread).team l.sel).getD unit)))) ∧
      (h.space = 3 → (∀ l ∈ ls, ∃ w, alookup (s.planOf l.thread).wins l.sel = some w ∧ w.2 ≤ l.ea) →
        checkAccess s id unit priv h ls wr = .ok (dequeueAt s id) (ls.map fun l => (l, .win 0 0 0)))) ∧
    ∀ l, h.space = 0 → fits l → even l → s.mem.waiting = [] →
      let ctx := ctxOfThread s l.thread
      let check := checkAccess s id unit priv h [l] (sameWay h)
      let write := h.kind ≠ 0
      let still := ∀ m ∈ walkSegs s (some unit) ctx l.ea, (segAt s m).trn = false
      (¬still → ∃ s1, check = .stall s1) ∧
      ((ctxOf s ctx).xlen = false → ∃ k, k.cause = 1 ∧ check = .trap .pageFault k) ∧
      ((ctxOf s ctx).xlen = true → ∀ lev e, EntryAt s ctx l.ea lev e →
        (¬IsTable lev e → ¬IsLeaf lev e → tlbHeld s (some unit) ctx l.ea = none → still →
          ∃ k, k.cause = 1 ∧ k.i2 = BitVec.ofNat 64 e ∧ check = .trap .pageFault k) ∧
        (IsLeaf lev e → TlbAgrees s unit ctx l.ea lev e →
          let n := leafTarget lev e l.ea / 4096
          let denied := write ∧ nfld e 1 1 = 0 ∨ nfld e 6 6 = 1 ∧ priv = false
          let foreign := ∃ i p u, passOver s n = some (i, p) ∧ p.holder = some u ∧ u ≠ unit
          let own := ∃ i p, passOver s n = some (i, p) ∧ p.holder = some unit
          let conflict := ((segAt s n).own = true ∨ write) ∧
            ∃ q ∈ (segAt s n).holders, q.1 ≠ unit ∧ ∀ m, q.2 = some m → covers m q.1 unit = false
          (nfld e 5 5 = 1 → still → ∃ k, k.cause = 2 ∧ check = .trap .pageFault k) ∧
          (nfld e 4 4 = 1 → still → ∃ k, k.cause = 3 ∧ check = .trap .pageFault k) ∧
          (nfld e 5 4 = 0 → denied → still → ∃ k, check = .trap .protection k) ∧
          (nfld e 5 4 = 0 → ¬denied → (segAt s n).trn = true → ∃ s1, check = .stall s1) ∧
          (nfld e 5 4 = 0 → ¬denied → (∀ m, (segAt s m).trn = false) → n ∉ walkSegs s (some unit) ctx l.ea →
            (priv = false ∧ (foreign ∨ h.home = false ∧ ¬own ∧ conflict) → ∃ k, check = .trap .race k) ∧
            (¬(priv = false ∧ (foreign ∨ h.home = false ∧ ¬own ∧ conflict)) →
              ∃ s1 leaf, check = .ok s1 [(l, .pa (leafTarget lev e l.ea) leaf)]))))

/-- LD, LDA and LDU (R353 to R355): where the checks of R352 pass, every executing thread, or the acting one, gets the bytes
of its place, extended as SZ says, scoreboarded; memory stays as it is. A failed check traps before any effect. That a word on
segments in transition waits as a whole and then makes all its accesses in one step is the model's choice (log entries 20, 21). -/
def Obligations.LoadWords : Prop :=
  ∀ (f : ExtForm) (s : State) (r : Ready),
    let c := s.cohort r.id
    let dst := f.x.d.idx.toNat
    let sz := fld f.x.mod 5 3
    (∀ (i : Instr) (d : Addr) (h : How),
      let n := szNames sz
      let a := { (engAcc f 1 (if 5 ≤ fld f.x.mod 2 0 then 2 else 1) 0).reads d.srcs with wNames := (List.range n).map (dst + ·) }
      ((i = .ld f ∧ d = addrM f (fld f.x.mod 9 8) ∧
          h = { space := fld f.x.mod 9 8, size := szBytes sz, kind := 0, cp := fld f.x.mod 7 6 }) ∨
        (i = .lda f ∧ d = addrM f 0 ∧
          h = { space := 0, size := szBytes sz, kind := 0, home := decide (2 ≤ scopeFor s r c.priv (fld f.x.mod 9 6)) })) →
      prep s a = .go r → Present s r.ths →
      match checkAccess s r.id c.unit c.priv h (r.ths.map (d.lane s c)) (sameWay h) with
      | .trap code k => exec i s = .next (takeTrap s r.id a.len code k)
      | .stall s1 => exec i s = .next (stallAt s1 r.id .transition)
      | .ok _ xs => ∃ t, exec i s = .next t ∧ MovedOn s t r a ∧ KeepsBytes s t r ∧ xs.map (fun x => x.1.thread) = r.ths ∧
          ∀ x ∈ xs, ∀ k, k < n → NameResult s t x.1.thread (dst + k)
            ((extendTo 32 sz (leNat (peekLoc s h.size x.2)) >>> (32 * k)) % 2 ^ 32)) ∧
    ∀ x,
      let d := addrM f (fld f.x.mod 9 8)
      let n := if sz = 6 then 2 else 1
      let h : How := { space := fld f.x.mod 9 8, size := szBytes sz, kind := 0, cp := fld f.x.mod 7 6 }
      let a := { (engAcc f 0 0 0).reads d.srcs with wUregs := (List.range n).map (dst + ·), once := true }
      prep s a = .go r → actingThread s r.ths = some x →
      match checkAccess s r.id c.unit c.priv h [d.lane s c x] (sameWay h) with
      | .trap code k => exec (.ldu f) s = .next (takeTrap s r.id a.len code k)
      | .stall s1 => exec (.ldu f) s = .next (stallAt s1 r.id .transition)
      | .ok _ xs => ∃ t, exec (.ldu f) s = .next t ∧ MovedOn s t r a ∧ KeepsBytes s t r ∧
          ∀ y ∈ xs, ∀ k, k < n → UregResult s t r.id (dst + k)
            (BitVec.ofNat 64 (extendTo 64 sz (leNat (peekLoc s h.size y.2)) / 2 ^ (64 * k)))

/-- ST and STR (R353, R355): where the checks of R352 pass, the threads store their data in ascending home-lane order, lowest
byte first, and no byte outside the stored ones changes. A STR waits for the threads' surface writes (R199), at SYSTEM scope
for their copies of REMOTE pages too (R201). That a word on segments in transition waits as a whole and then makes all its
stores in one step is the model's choice (log entries 20, 21). -/
def Obligations.StoreWords : Prop :=
  ∀ (f : ExtForm) (s : State) (r : Ready) (i : Instr) (d : Addr) (h : How) (a : Acc),
    let c := s.cohort r.id
    let sz := fld f.x.mod 5 3
    let n := szNames sz
    let ds := storeSrcs f.x n
    let b := (engAcc f 1 (if 5 ≤ fld f.x.mod 2 0 then 2 else 1) n).reads (d.srcs ++ ds)
    let scope := scopeFor s r c.priv (fld f.x.mod 9 6)
    ((i = .st f ∧ d = addrM f (fld f.x.mod 9 8) ∧ a = wideBack b f.x n ∧
        h = { space := fld f.x.mod 9 8, size := szBytes sz, kind := 1, cp := fld f.x.mod 7 6 }) ∨
      (i = .str f ∧ d = addrM f 0 ∧ a = b ∧ h = { space := 0, size := szBytes sz, kind := 1, home := decide (2 ≤ scope) })) →
    prep s a = .go r → Present s r.ths →
    if i = .str f ∧ releaseWait s r.ths scope = true then exec i s = .next (stallAt s r.id .drain)
    else match checkAccess s r.id c.unit c.priv h (r.ths.map (d.lane s c)) (sameWay h) with
      | .trap code k => exec i s = .next (takeTrap s r.id a.len code k)
      | .stall s1 => exec i s = .next (stallAt s1 r.id .transition)
      | .ok _ xs => ∃ t, exec i s = .next t ∧ MovedOn s t r a ∧ KeepsOthers s t r ∧
          (∀ x ∈ r.ths, (t.thread x).preds = (s.thread x).preds ∧ (t.thread x).stack = (s.thread x).stack) ∧
          OnlyStored s t h.size (xs.map Prod.snd) ∧
          ∀ pre x post, xs = pre ++ x :: post → (∀ y ∈ post, ¬x.2.meets h.size y.2) → (∀ p l v, x.2 ≠ .win p l v) →
            peekLoc t h.size x.2 = leBytes h.size (storeVal s c x.1.thread ds)

/-- ATOM, ATOMR and CAS (R357, R358): where the checks of R352 pass, each executing thread in ascending home-lane order
reads the value at its place and writes the new one, CAS only where the comparison holds; ATOMR and CAS answer the value
read, CAS also whether it compared equal, scoreboarded, and are commit points (R86). Bytes of no thread's place stay. A
release among them waits for the threads' surface writes (R199), at SYSTEM scope for their copies of REMOTE pages too
(R201). That a word on segments in transition waits as a whole and then makes all its accesses in one step is the
model's choice (log entries 20, 21). The new values of the atomics (R357): the sum, the signed and unsigned minimum and
maximum, the bitwise operations and the exchange, at 32 and at 64 bits, and the F32 sum rounded to nearest (R109, R111,
R113). -/
def Obligations.AtomicWords : Prop :=
  (∀ (f : ExtForm) (s : State) (r : Ready),
     let c := s.cohort r.id
     let n := if bitOf f.x.mod 1 then 2 else 1
     let w := 32 * n
     let d := addrMA f (4 * n)
     let dst := f.x.d.idx.toNat
     let pd := f.x.pd.toNat
     let k := f.x.km1.toNat + 1
     let ci := f.x.c.idx.toNat
     let scope := scopeFor s r c.priv (fld f.x.mod 7 4)
     let h : How := { space := d.space, size := 4 * n, kind := 2, home := d.space == 0 && decide (2 ≤ scope) }
     let data := opndSrc f.x.c (n == 2) (f.x.pbs == 3) k
     let a0 := (engAcc f 1 1 n).reads (d.srcs ++ [data])
     let pair : List Src :=
       if f.x.c.kind then (if n = 2 then [.ureg ci true, .ureg (ci + 1) true] else [.ureg ci true])
       else if n = 2 then (if f.x.pbs = 3 then [.back ci k true, .back (ci + 2) k true] else [.name ci true, .name (ci + 2) true])
       else [opndSrc f.x.c true (f.x.pbs == 3) k]
     let ac := { wideBack ((engAcc f 1 1 (2 * n)).reads (d.srcs ++ pair)) f.x (2 * n) with
       wNames := (List.range n).map (dst + ·), wPreds := if pd < 7 then [pd] else [] }
     let cmp (x : Nat) : Nat := storeVal s c x pair % 2 ^ w
     let new (x : Nat) : Nat := storeVal s c x pair / 2 ^ w % 2 ^ w
     ∀ (i : Instr) (a : Acc) (wr : State → List (Lane × Loc) → List Bool) (put : Nat → Nat → Option Nat),
       ((i = .atom f ∧ a = a0 ∧ wr = sameWay h ∧
           put = fun x m => some (atomNew (fld f.x.imm 15 12) w m ((srcVal s c x data).toNat % 2 ^ w))) ∨
         (i = .atomr f ∧ a = { a0 with wNames := (List.range n).map (dst + ·) } ∧ wr = sameWay h ∧
           put = fun x m => some (atomNew (fld f.x.imm 15 12) w m ((srcVal s c x data).toNat % 2 ^ w))) ∨
         (i = .cas f ∧ a = ac ∧ wr = casWrites (4 * n) cmp new [] ∧ put = fun x m => if m = cmp x then some (new x) else none)) →
       prep s a = .go r → Present s r.ths →
       if d.space = 0 ∧ 2 ≤ fld f.x.mod 3 2 ∧ releaseWait s r.ths scope = true then exec i s = .next (stallAt s r.id .drain)
       else match checkAccess s r.id c.unit c.priv h (r.ths.map (d.lane s c)) wr with
       | .trap code e => exec i s = .next (takeTrap s r.id a.len code e)
       | .stall s1 => exec i s = .next (stallAt s1 r.id .transition)
       | .ok _ xs => ∃ t, exec i s = .next t ∧ MovedOn s t r a ∧ KeepsOthers s t r ∧
           OnlyStored s t h.size (xs.map Prod.snd) ∧ (i ≠ .atom f → ∀ x ∈ r.ths, (t.thread x).restartable = false) ∧
           ∀ pre x post, xs = pre ++ x :: post → (∀ p l v, x.2 ≠ .win p l v) →
             let m := leNat (peekLoc s h.size x.2)
             let u := x.1.thread
             ((∀ y ∈ pre, ¬x.2.meets h.size y.2) →
               (i ≠ .atom f → ∀ j, j < n → NameResult s t u (dst + j) ((m >>> (32 * j)) % 2 ^ 32)) ∧
               (i = .cas f → pd < 7 → PredResult s t u pd (m = cmp u)) ∧
               ((∀ y ∈ post, ¬x.2.meets h.size y.2) → peekLoc t h.size x.2 = match put u m with
                 | some v => leBytes h.size v
                 | none => peekLoc s h.size x.2))) ∧
  (∀ w : Nat, w = 32 ∨ w = 64 → ∀ m x : BitVec w,
     atomNew 0 w m.toNat x.toNat = (m + x).toNat ∧
     atomNew 1 w m.toNat x.toNat = (if x.slt m then x else m).toNat ∧
     atomNew 2 w m.toNat x.toNat = (if m.slt x then x else m).toNat ∧
     atomNew 3 w m.toNat x.toNat = (if x.ult m then x else m).toNat ∧
     atomNew 4 w m.toNat x.toNat = (if m.ult x then x else m).toNat ∧
     atomNew 5 w m.toNat x.toNat = (m &&& x).toNat ∧ atomNew 6 w m.toNat x.toNat = (m ||| x).toNat ∧
     atomNew 7 w m.toNat x.toNat = (m ^^^ x).toNat ∧ atomNew 8 w m.toNat x.toNat = x.toNat ∧
     (w = 32 →
       let a := m.toNat
       let b := x.toNat
       let sum := F32.units a + F32.units b
       let v := atomNew 9 32 a b
       (F32.Finite a → F32.Finite b → sum ≠ 0 → F32.IsRound 0 sum 1 v) ∧
       (F32.Finite a → F32.Finite b → sum = 0 → v = if a = b then a else 0) ∧
       (F32.IsNan a ∨ F32.IsNan b → v = F32.nan) ∧
       (F32.IsInf a → ¬F32.IsNan b → v = if F32.IsInf b ∧ a ≠ b then F32.nan else a) ∧
       (F32.IsInf b → F32.Finite a → v = b)))

/-- FENCE is a release of the core's segments at the scope (R180, R359); of a segment that is in transition or waited for, the
release waits with the rest in order of arrival (R178). PREF changes no value and no directory entry (R363).
TIERQ answers, by the page that the tables give the address, KIND, WR and PRIV, and LINES, the lines of a GDDR7 page in the
stacked cache; for an address without a page 0; it changes no directory
entry (R364, R417). Which lines the caches hold rests on the model's set function (log entry 49). -/
def Obligations.FencesAndQueries : Prop :=
  ∀ (f : ExtForm) (s : State) (r : Ready),
    let c := s.cohort r.id
    let d := addrM f 0
    let dst := f.x.d.idx.toNat
    let ctx := ctxOfCohort s c
    let b := (engAcc f 1 (if 5 ≤ fld f.x.mod 2 0 then 2 else 1) 0).reads d.srcs
    let answers (x v : Nat) : Prop :=
      let ea := (d.lane s c x).ea
      v < 2 ^ 18 ∧ v % 256 ≤ 3 ∧ (v % 256 ≠ 1 → v / 2 ^ 8 % 256 = 0) ∧
      (2 ^ 52 ≤ ea ∨ (ctxOf s ctx).xlen = false → v = 0) ∧
      (ea < 2 ^ 52 → (ctxOf s ctx).xlen = true → ∀ lev e, EntryAt s ctx ea lev e →
        (¬IsTable lev e → ¬IsLeaf lev e → tlbHeld s (some c.unit) ctx ea = none → v = 0) ∧
        (IsLeaf lev e → TlbAgrees s c.unit ctx ea lev e →
          v % 256 = (if nfld e 5 5 = 1 then 2 else if nfld e 4 4 = 1 then 3 else 1) ∧
          v / 2 ^ 16 % 2 = nfld e 1 1 ∧ v / 2 ^ 17 = nfld e 6 6))
    let lines (x v : Nat) : Prop :=
      ∀ lev e, EntryAt s ctx (d.lane s c x).ea lev e → IsLeaf lev e → TlbAgrees s c.unit ctx (d.lane s c x).ea lev e →
        v % 256 = 1 → v / 2 ^ 8 % 256 =
          (s.mem.l2.filter fun l => l.line / 16 == leafTarget lev e (d.lane s c x).ea / 4096).length
    Present s r.ths →
    (prep s (engAcc f 0 0 0) = .go r →
      let scope := scopeFor s r c.priv (fld f.x.mod 9 6)
      let waits := ∃ x ∈ r.ths, (∃ q ∈ s.surf.reqs, q.thread = x ∧ (q.kind = 1 ∨ q.kind = 2)) ∨
        scope = 5 ∧ ∃ k ∈ s.mem.copies, k.thread = x ∧ k.remote = true
      (waits → exec (.fence f) s = .next (stallAt s r.id .drain)) ∧
      (¬waits → ∃ t, exec (.fence f) s = .next t ∧ MovedOn s t r (engAcc f 0 0 0) ∧ KeepsBytes s t r ∧
        (r.ths ≠ [] → c.priv = false → 2 ≤ scope → ∀ n,
          (movingSeg s n = false → ∀ g ∈ (segAt t n).holders, g.1 = c.unit → ∃ m, g.2 = some m ∧ min scope 4 ≤ m) ∧
          (movingSeg s n = true → (segAt s n).heldBy c.unit = true → segAt t n = segAt s n ∧
            ∃ k, (Waiter.act k (.release c.unit scope), [n]) ∈ t.mem.waiting)) ∧
        ∀ n, (segAt t n).holders.map Prod.fst = (segAt s n).holders.map Prod.fst ∧ (segAt t n).own = (segAt s n).own)) ∧
    (prep s b = .go r → ∃ t, exec (.pref f) s = .next t ∧ MovedOn s t r b ∧ KeepsBytes s t r ∧ t.mem.dir = s.mem.dir) ∧
    (f.x.d.kind = false → prep s { b with wNames := [dst] } = .go r → (s.mem.l2.map Line.line).Nodup →
      ∃ t, exec (.tierq f) s = .next t ∧ MovedOn s t r b ∧ KeepsBytes s t r ∧ t.mem.dir = s.mem.dir ∧
        (∀ x ∈ r.ths, ∃ v, answers x v ∧ NameResult s t x dst v) ∧
        ∀ x, r.ths = [x] → ∃ v, answers x v ∧ lines x v ∧ NameResult s t x dst v) ∧
    ∀ x, f.x.d.kind = true → prep s { b with wUregs := [dst], once := true } = .go r → actingThread s r.ths = some x →
      (s.mem.l2.map Line.line).Nodup →
      ∃ t v, exec (.tierq f) s = .next t ∧ MovedOn s t r b ∧ KeepsBytes s t r ∧ t.mem.dir = s.mem.dir ∧
        answers x v ∧ lines x v ∧ UregResult s t r.id dst (BitVec.ofNat 64 v)

/-- The team barrier (R360): an arrival counts each executing thread and records the generation, one that is counted already in
the next generation alone; when the counted and the exited threads number the team, the generation advances by 1, the count
returns to 0 and then takes in the threads held over, and every wait for the generation ends and clears its records. `bar` and
`bar.wait` hold the cohort while the generation does not exceed its threads' records. A counted thread's BAR is a commit point at
once (log entry 83). The release of an arrival waits for the
threads' surface writes (R199), at SYSTEM scope for their copies of REMOTE pages too (R201). -/
def Obligations.TeamBarriers : Prop :=
  ∀ (f : ExtForm) (s : State) (r : Ready),
    let a := engAcc f 0 0 0
    let waits := ∃ x ∈ r.ths, (∃ q ∈ s.surf.reqs, q.thread = x ∧ (q.kind = 1 ∨ q.kind = 2)) ∨
      teamScope s x = 5 ∧ ∃ k ∈ s.mem.copies, k.thread = x ∧ k.remote = true
    prep s a = .go r → Present s r.ths →
    (∀ (i : Instr) (wait : Bool), (i = .bar f ∧ wait = true ∨ i = .barArrive f ∧ wait = false) →
      (waits → exec i s = .next (stallAt s r.id .drain)) ∧
      (¬waits → ∃ t, exec i s = .next t ∧ SameMemory s t ∧ (t.cohort r.id).pc = pcAdd (s.cohort r.id).pc a.len ∧
        (t.cohort r.id).uregs = (s.cohort r.id).uregs ∧ (∀ x ∈ r.ths, (t.thread x).restartable = false) ∧
        (∀ x, (t.thread x).names = (s.thread x).names ∧ (t.thread x).preds = (s.thread x).preds ∧
          (t.thread x).writes = (s.thread x).writes ∧ (t.thread x).place = (s.thread x).place) ∧
        ∀ tm, r.ths ≠ [] → (∀ x ∈ r.ths, (s.thread x).team = tm) → (alookup s.work.teams tm).isSome →
          let gen := (s.team tm).barGen
          let late := r.ths.filter fun x => (s.team tm).counted.contains x
          let now := r.ths.filter fun x => !(s.team tm).counted.contains x
          let all := (s.team tm).counted ++ now
          let size := (s.launch (s.team tm).launch).teamSize
          let full := all.length + (without (exitedOf s tm) all).length = size
          let apart := ∀ k, k ≠ r.id → ∀ l w ths, (s.cohort k).wait = .barrier l w ths →
            (∀ x ∈ l, (s.thread x).team ≠ tm) ∧ ∀ x ∈ ths, x ∉ r.ths
          let noneFiled := ∀ u, ∀ b ∈ (s.core u).bins, ∀ x ∈ b.2.threads, x.late = true → (s.thread x.thread).team ≠ tm
          (¬full → OtherThreads s t r.ths ∧ OtherCohorts s t r.id ∧ (t.team tm).counted = all ∧ (t.team tm).barGen = gen ∧
            (∀ x ∈ now, (t.thread x).barRec = some gen) ∧
            (t.cohort r.id).wait = if late = [] ∧ wait = false then .none else .barrier late wait r.ths) ∧
          (full → apart → noneFiled → late = [] → (t.team tm).barGen = gen + 1 ∧ (t.team tm).counted = [] ∧
            (t.cohort r.id).wait = .none ∧ (∀ x ∈ r.ths, (t.thread x).barRec = if wait then none else some gen) ∧
            ∀ k ths, k ≠ r.id → (s.cohort k).wait = .barrier [] true ths →
              (∀ x ∈ ths, (s.thread x).team = tm ∧ ∀ g, (s.thread x).barRec = some g → g ≤ gen) →
              (t.cohort k).wait = .none ∧ ∀ x ∈ ths, (t.thread x).barRec = none) ∧
          (full → apart → noneFiled → late ≠ [] → late.length + (without (exitedOf s tm) late).length ≠ size →
            (t.team tm).barGen = gen + 1 ∧ (t.team tm).counted = late ∧ (∀ x ∈ late, (t.thread x).barRec = some (gen + 1)) ∧
            (t.cohort r.id).wait = if wait then .barrier [] true r.ths else .none))) ∧
    ∃ t, exec (.barWait f) s = .next t ∧ SameMemory s t ∧ OtherThreads s t r.ths ∧ OtherCohorts s t r.id ∧
      (t.cohort r.id).pc = pcAdd (s.cohort r.id).pc a.len ∧ t.work.teams = s.work.teams ∧
      let gen (x : Nat) : Nat := (s.teamOf x).barGen
      let rest := r.ths.filter fun x => match (s.thread x).barRec with
        | some g => decide (gen x ≤ g)
        | none => true
      (∀ x ∈ r.ths, (t.thread x).names = (s.thread x).names ∧ (t.thread x).preds = (s.thread x).preds) ∧
      (r.ths.Nodup → (t.cohort r.id).wait = (if rest = [] then .none else .barrier [] true rest) ∧
        (∀ x ∈ rest, (t.thread x).barRec = some ((s.thread x).barRec.getD (gen x))) ∧
        ∀ x ∈ r.ths, x ∉ rest → (t.thread x).barRec = none)

/-- Bell lines (R197, R361): every BELL word on a disabled line traps ILLEGAL_FIELD. Arrivals count at once, and each time the
count reaches the target the generation advances by one; a wait holds threads whose record the released generations do not
exceed, and a test answers whether the generation exceeds the record. An arrival waits for its threads' surface writes (R199). -/
def Obligations.BellLines : Prop :=
  ∀ (f : ExtForm) (s : State) (r : Ready),
    let a := bellAcc f
    let line := bellLine s r.id f
    let b := bellAt s line
    let pd := f.x.pd.toNat
    let ac := { a with wPreds := if pd < 7 then [pd] else [] }
    let rec0 (x : Nat) : Nat := (alookup (s.thread x).bells line).getD b.gen.toNat
    let drawn := ∃ q ∈ s.surf.reqs, q.thread ∈ r.ths ∧ (q.kind = 1 ∨ q.kind = 2)
    Present s r.ths → r.ths ≠ [] →
    (b.target = 0 → ∀ i, (i ∈ [Instr.bell f, .bellArrive f, .bellWait f] ∧ prep s a = .go r ∨ i = .bellTest f ∧ prep s ac = .go r) →
      ∃ k, exec i s = .next (takeTrap s r.id a.len .illegalField k)) ∧
    (b.target ≠ 0 → prep s a = .go r → drawn → ∀ i, i = .bell f ∨ i = .bellArrive f →
      exec i s = .next (stallAt s r.id .drain)) ∧
    (b.target ≠ 0 → b.count < b.target.toNat → prep s a = .go r → ¬drawn →
      ∀ i, i = .bell f ∨ i = .bellArrive f →
        ∃ t, exec i s = .next t ∧ SameMemory s t ∧ OtherThreads s t r.ths ∧ OtherCohorts s t r.id ∧
          (t.cohort r.id).pc = pcAdd (s.cohort r.id).pc a.len ∧ (∀ x ∈ r.ths, (t.thread x).restartable = false) ∧
          (bellAt t line).target = b.target ∧ (bellAt t line).opened = b.opened ∧
          (bellAt t line).count = (b.count + r.ths.length) % b.target.toNat ∧
          (bellAt t line).gen = b.gen + BitVec.ofNat 32 ((b.count + r.ths.length) / b.target.toNat) ∧
          (∀ k, k ≠ line → bellAt t k = bellAt s k) ∧
          (i = .bellArrive f → (t.cohort r.id).wait = .none ∧
            (b.count + r.ths.length < b.target.toNat → ∀ x ∈ r.ths, alookup (t.thread x).bells line = some b.gen.toNat)) ∧
          (i = .bell f → b.count + r.ths.length < b.target.toNat →
            (t.cohort r.id).wait = .bell line r.ths)) ∧
    (b.target ≠ 0 → prep s a = .go r →
      ∃ t, exec (.bellWait f) s = .next t ∧ SameMemory s t ∧ OtherThreads s t r.ths ∧ OtherCohorts s t r.id ∧
        (t.cohort r.id).pc = pcAdd (s.cohort r.id).pc a.len ∧ (∀ k, bellAt t k = bellAt s k) ∧
        ((∀ x ∈ r.ths, rec0 x < min b.opened b.gen.toNat) → (t.cohort r.id).wait = .none ∧ ∀ x ∈ r.ths, alookup (t.thread x).bells line = none) ∧
        ((∀ x ∈ r.ths, min b.opened b.gen.toNat ≤ rec0 x) → (t.cohort r.id).wait = .bell line r.ths ∧
          ∀ x ∈ r.ths, alookup (t.thread x).bells line = some (rec0 x))) ∧
    (b.target ≠ 0 → prep s ac = .go r →
      ∃ t, exec (.bellTest f) s = .next t ∧ MovedOn s t r ac ∧ KeepsBytes s t r ∧ (∀ k, bellAt t k = bellAt s k) ∧
        ∀ x ∈ r.ths, (pd < 7 → PredWrite t x pd true (s.sched.clk + 1) (rec0 x < b.gen.toNat)) ∧
          (r.ths.count x = 1 → alookup (t.thread x).bells line = if rec0 x < b.gen.toNat then none else some (rec0 x)))

/-- Hall passes (R190, R362): a word on an unregistered pass traps SPACE_BOUND. Acquiring a free pass, or one the core holds,
adds the executing threads to the hold count; a pass held elsewhere makes REGACQ wait in line and REGTRY fail, which fails
also while cores wait for the pass. REGREL counts down, after its threads' surface writes (R199), and at 0 the pass goes to the
first core in line, or to nobody. -/
def Obligations.HallPasses : Prop :=
  ∀ (f : ExtForm) (s : State) (r : Ready),
    let a := passAcc f
    let pd := f.x.pd.toNat
    let ac := { a with wPreds := if pd < 7 then [pd] else [] }
    let n := passNo s r.id f
    let u := (s.cohort r.id).unit
    Present s r.ths → r.ths ≠ [] →
    ((alookup s.mem.passes n).all (fun p => !p.valid) = true →
      ∀ i, (i = .regacq f ∧ prep s a = .go r ∨ (i = .regtry f ∨ i = .regrel f) ∧ prep s ac = .go r) →
        ∃ k, exec i s = .next (takeTrap s r.id a.len .spaceBound k)) ∧
    ∀ p, alookup s.mem.passes n = some p → p.valid = true →
      let k := r.ths.length
      (prep s a = .go r →
        (p.holder = some u ∨ p.holder = none ∧ p.queue = [] →
          ∃ t, exec (.regacq f) s = .next t ∧ MovedOn s t r a ∧ KeepsBytes s t r ∧
            (∀ x ∈ r.ths, (t.thread x).restartable = false) ∧
            (p.holder = some u → alookup t.mem.passes n = some { p with count := p.count + k }) ∧
            (p.holder = none → alookup t.mem.passes n = some { p with holder := some u, count := k })) ∧
        (p.holder ≠ some u → ¬(p.holder = none ∧ p.queue = []) →
          ∃ s1, exec (.regacq f) s = .next (stallAt s1 r.id (.hallPass n)) ∧ SameMemory s s1 ∧ s1.work = s.work ∧
            ∃ q, alookup s1.mem.passes n = some q ∧ u ∈ q.queue ∧ q.holder = p.holder ∧ q.count = p.count)) ∧
      (prep s ac = .go r →
        (∃ t, exec (.regtry f) s = .next t ∧ MovedOn s t r ac ∧ KeepsBytes s t r ∧
          (p.holder = some u → p.queue = [] → alookup t.mem.passes n = some { p with count := p.count + k }) ∧
          (p.holder = none → p.queue = [] → alookup t.mem.passes n = some { p with holder := some u, count := k }) ∧
          (¬((p.holder = some u ∨ p.holder = none) ∧ p.queue = []) → alookup t.mem.passes n = some p) ∧
          ∀ x ∈ r.ths, (t.thread x).restartable = false ∧
            (pd < 7 → PredWrite t x pd true (s.sched.clk + 1) ((p.holder = some u ∨ p.holder = none) ∧ p.queue = []))) ∧
        let drawn := p.holder = some u ∧ ∃ q ∈ s.surf.reqs, q.thread ∈ r.ths ∧ (q.kind = 1 ∨ q.kind = 2)
        (drawn → exec (.regrel f) s = .next (stallAt s r.id .drain)) ∧
        (¬drawn → ∃ t, exec (.regrel f) s = .next t ∧ MovedOn s t r ac ∧ KeepsBytes s t r ∧
          (p.holder ≠ some u ∨ p.count = 0 → alookup t.mem.passes n = some p ∧
            ∀ x ∈ r.ths, pd < 7 → PredWrite t x pd true (s.sched.clk + 1) false) ∧
          (p.holder = some u → k ≤ p.count →
            (∀ x ∈ r.ths, pd < 7 → PredWrite t x pd true (s.sched.clk + 1) true) ∧
            (k < p.count → alookup t.mem.passes n = some { p with count := p.count - k }) ∧
            (k = p.count → p.queue = [] → alookup t.mem.passes n = some { p with holder := none, count := 0 }) ∧
            ∀ v q, k = p.count → p.queue = v :: q →
              alookup t.mem.passes n = some { p with holder := some v, count := 0, queue := q })))

/-- The tags of a core (R365, R366): TWAIT and TWANY wait until every, or some, tag of the mask is done; TFIND does not wait;
TSTAT answers the done or the error bits; TCLR clears the tags without an outstanding operation. Their results are
scoreboarded. -/
def Obligations.TagWords : Prop :=
  ∀ (f : ExtForm) (s : State) (r : Ready),
    let c := s.cohort r.id
    let m := tagMask c f.x
    let pd := f.x.pd.toNat
    let d := f.x.d.idx.toNat
    let due := s.sched.clk + 1
    let tag := tagAt s c.unit
    let lowest (n : Nat) : Prop := n < 64 ∧ m.getLsbD n = true ∧ (tag n).done = true ∧
      ∀ k, k < n → m.getLsbD k = true → (tag k).done = false
    Present s r.ths → r.ths ≠ [] →
    (prep s (tagAcc f false) = .go r →
      ((∀ n, n < 64 → m.getLsbD n = true → (tag n).done = true) →
        ∃ t, exec (.twait f) s = .next t ∧ MovedOn s t r (tagAcc f false) ∧ OnlyRegisters s t r ∧
          ∀ x ∈ r.ths, pd < 7 → ∃ e : Bool, (e = true ↔ ∃ n, n < 64 ∧ m.getLsbD n = true ∧ (tag n).err = true) ∧
            PredWrite t x pd true due e) ∧
      ((∃ n, n < 64 ∧ m.getLsbD n = true ∧ (tag n).done = false) →
        ∃ k, exec (.twait f) s = .next (stallAt s r.id k)) ∧
      ∃ t, exec (.tclr f) s = .next t ∧ MovedOn s t r (tagAcc f false) ∧ KeepsBytes s t r ∧
        (∀ n, n < 64 → tagAt t c.unit n = if m.getLsbD n = true ∧ (tag n).count = 0 then {} else tag n) ∧
        ∀ x ∈ r.ths, pd < 7 → ∃ e : Bool, (e = true ↔ ∀ n, n < 64 → m.getLsbD n = true → (tag n).count = 0) ∧
          PredWrite t x pd true due e) ∧
    (prep s (tagAcc f true) = .go r →
      (∀ n, lowest n →
        (∃ t, exec (.twany f) s = .next t ∧ MovedOn s t r (tagAcc f true) ∧ OnlyRegisters s t r ∧
          UregWrite t r.id d true due (BitVec.ofNat 64 n) ∧ ∀ x ∈ r.ths, pd < 7 → PredWrite t x pd true due (tag n).err) ∧
        ∃ t, exec (.tfind f) s = .next t ∧ MovedOn s t r (tagAcc f true) ∧ OnlyRegisters s t r ∧
          UregWrite t r.id d true due (BitVec.ofNat 64 n) ∧ ∀ x ∈ r.ths, pd < 7 → PredWrite t x pd true due true) ∧
      ((∀ n, n < 64 → m.getLsbD n = true → (tag n).done = false) →
        (m = 0 → ∃ t, exec (.twany f) s = .next t ∧ MovedOn s t r (tagAcc f true) ∧ OnlyRegisters s t r ∧
          UregWrite t r.id d true due 64 ∧ ∀ x ∈ r.ths, pd < 7 → PredWrite t x pd true due false) ∧
        (m ≠ 0 → ∃ k, exec (.twany f) s = .next (stallAt s r.id k)) ∧
        ∃ t, exec (.tfind f) s = .next t ∧ MovedOn s t r (tagAcc f true) ∧ OnlyRegisters s t r ∧
          UregWrite t r.id d true due 64 ∧ ∀ x ∈ r.ths, pd < 7 → PredWrite t x pd true due false)) ∧
    let a := { engAcc f 0 0 0 with wUregs := [d] }
    prep s a = .go r → ∃ t v, exec (.tstat f) s = .next t ∧ MovedOn s t r a ∧ OnlyRegisters s t r ∧
      UregWrite t r.id d true due v ∧
      ∀ n, n < 64 → v.getLsbD n = if bitOf f.x.mod 0 then (tag n).err else (tag n).done

/-- COPY and COPYM at issue (R365, R367, R368, R371): a linear copy passes its checks just when its length, its
addresses and its ranges in the team's window are legal; a failing check traps with no effect; a box copy whose record's
segments are in transition, or whose record's banks sleep, waits (R171, R178); the record is read at home (log entry
80), halo bytes of dimensions at or above NDIM are no halo (log entry 81), and an empty range beyond the window lies
outside it (log entry 82): the model's choices. A copy that passes is outstanding under its tag, whose done bit is
cleared, and the word is a commit point; COPYM moves its staged command from loaded to occupied, and traps ENGINE_FAULT
on an empty slot or a team without accumulators. As much of the copy as the model's free value says is performed at once
(R194, the model's choice, log entry 2): flash stays, and outside the destination's window bytes (R369) so does every
byte, or, for a global destination, every byte of the scratchpads and outside the bytes of the moves made, of which each
writes those of its piece alone. STAGE at issue (R376): it passes its checks just when its addresses and its length are
legal; a failing check traps with no effect. A request that passes is outstanding under its tag, one of length 0
completes at once; the word is a commit point. Operands of these words are read as 32-bit names or 64-bit uniform
registers, the model's reading (log entry 11). -/
def Obligations.CopyWords : Prop :=
  ((∀ (s : State) (x : Nat) (c : Copy), linChecks s x c = none ↔
     c.len ≤ 2 ^ 32 ∧
     (if c.ssp then c.a + c.len ≤ windowBytes s x else c.a < 2 ^ 52 ∧ (c.len = 0 ∨ c.a + c.len ≤ 2 ^ 52)) ∧
     (if c.dsp then c.b + c.len ≤ windowBytes s x else c.b < 2 ^ 52 ∧ (c.len = 0 ∨ c.b + c.len ≤ 2 ^ 52))) ∧
   (∀ (s t : State) (c c1 : Copy) (va n lev e : Nat),
     (c.lay = none ∧ c.dsp = false ∧ va = c.b + c.done ∧ n = linPiece c ∨
       ∃ l ix, c.lay = some l ∧ c.kind = 1 ∧ l.target c.origin c.done = some ix ∧ va = l.elemBit ix / 8 + c.part.length ∧
         n = inPage va (l.elemBytes - c.part.length)) →
     EntryAt s c.ctx va lev e → IsLeaf lev e → TlbAgrees s c.unit c.ctx va lev e →
     copyStep s c = .go t c1 ∨ copyStep s c = .halt t c1 →
     (∀ a, t.mem.flash.get a = s.mem.flash.get a) ∧ SameScratch s t ∧
     ∀ a, ¬(leafTarget lev e va ≤ a ∧ a < leafTarget lev e va + n) → t.mem.gddr.get a = s.mem.gddr.get a) ∧
   ∀ (f : ExtForm) (s : State) (r : Ready) (x : Nat) (i : Instr) (kind : Nat) (slot : Option Nat),
     let k := f.x.km1.toNat + 1
     let src := opndSrc f.x.a f.x.a.kind (f.x.pbs == 1) k
     let dst := opndSrc f.x.b f.x.b.kind (f.x.pbs == 2) k
     let len := opndSrc f.x.c f.x.c.kind (f.x.pbs == 3) k
     let ci := f.x.c.idx.toNat
     let a0 := (engAcc f 1 1 (if kind = 2 then 1 else 0)).reads (if kind = 2 then [src, dst, len] else [src, dst])
     let a := { a0 with once := true, uregs := if kind = 2 then a0.uregs else a0.uregs ++ [ci, ci + 1, ci + 2] }
     let c := s.cohort r.id
     let v (o : Src) : Nat := (srcVal s c x o).toNat
     let u (j : Nat) : Nat := (c.readUreg (ci + j)).toNat
     let cp : Copy := if kind = 2
       then copyOf s r x f.x 2 (if bitOf f.x.imm 0 then v src % 2 ^ 32 else v src)
         (if bitOf f.x.imm 1 then v dst % 2 ^ 32 else v dst) (v len) [] slot
       else copyOf s r x f.x kind (v src) (v dst % 2 ^ 32) 0
         ([u 0, u 0 / 2 ^ 32, u 1, u 1 / 2 ^ 32, u 2].map (toSigned 32)) slot
     let asked := takeTurn s (.req r.id) (recordSpans s cp)
     let starts (cp : Copy) : Prop := ∃ t, exec i s = .next t ∧
       (t.cohort r.id).pc = pcAdd c.pc a.len ∧ t.cfg = s.cfg ∧ t.draw = s.draw ∧
       (cp.lay.all (!·.surface) = true → OtherThreads s t r.ths) ∧
       (∀ y ∈ r.ths, (t.thread y).restartable = false ∧ (t.thread y).preds = (s.thread y).preds) ∧
       tagAt t c.unit cp.tag = ⟨(tagAt s c.unit cp.tag).count + 1, false,
         (tagAt s c.unit cp.tag).err && decide ((tagAt s c.unit cp.tag).count ≠ 0)⟩ ∧
       (∃ q, t.mem.copies = s.mem.copies ++ [q] ∧ q.kind = kind ∧ q.tag = cp.tag ∧ q.a = cp.a ∧ q.b = cp.b ∧ q.len = cp.len ∧
         q.lay = cp.lay ∧ q.origin = cp.origin ∧ q.unit = c.unit ∧ q.slot = slot ∧ q.landed = false) ∧
       (∀ n m, slot = some n → alookup (s.core c.unit).mx.slots n = some (.loaded m) →
         alookup (t.core c.unit).mx.slots n = some (.occupied m)) ∧
       (∀ b, t.mem.flash.get b = s.mem.flash.get b) ∧
       (if kind = 0 ∨ cp.dsp = true then
         let n := (cp.lay.map Layout.imageBytes).getD cp.len
         (∀ b, t.mem.gddr.get b = s.mem.gddr.get b) ∧
         ∀ y b, (y = c.unit → ∀ w, alookup (s.team cp.team).windows y = some w → ¬(w + cp.b ≤ b ∧ b < w + cp.b + n)) →
           (t.core y).scratch.get b = (s.core y).scratch.get b
       else
         SameScratch s t ∧ ∃ s0 q n, (∀ b, s0.mem.gddr.get b = s.mem.gddr.get b) ∧ q.kind = kind ∧ q.a = cp.a ∧ q.b = cp.b ∧
           q.len = cp.len ∧ q.lay = cp.lay ∧ q.done = 0 ∧ n ≤ copySize cp ∧ t.mem.gddr = (copyLoop s0 q n).1.mem.gddr)
     ((i = .copyBox f ∧ kind = 0 ∧ slot = none) ∨ (i = .copyBoxst f ∧ kind = 1 ∧ slot = none) ∨
       (i = .copyLin f ∧ kind = 2 ∧ slot = none) ∨
       (i = .copym f ∧ kind = fld f.x.mod 9 8 ∧ slot = some (fld f.x.imm 3 2))) →
     prep s a = .go r → Present s r.ths → actingThread s r.ths = some x →
     (kind = 2 → linChecks s x cp ≠ none → ∃ code e, exec i s = .next (takeTrap s r.id a.len code e)) ∧
     (kind = 2 → linChecks s x cp = none → copymChecks s x cp ≠ none →
       ∃ e, exec i s = .next (takeTrap s r.id a.len .engineFault e)) ∧
     (kind = 2 → linChecks s x cp = none → copymChecks s x cp = none → starts cp) ∧
     (kind ≠ 2 → asked.1 = false → exec i s = .next (stallAt asked.2 r.id .transition)) ∧
     (kind ≠ 2 → asked.1 = true →
       match copyRecord asked.2 x cp with
       | (.error (.trap code e), _) => exec i s = .next (takeTrap s r.id a.len code e)
       | (.error _, _) => False
       | (.ok l, s1) =>
         (boxChecks s1 x cp l ≠ none → ∃ code e, exec i s = .next (takeTrap s r.id a.len code e)) ∧
         (boxChecks s1 x cp l = none → copymChecks s1 x cp ≠ none →
           ∃ e, exec i s = .next (takeTrap s r.id a.len .engineFault e)) ∧
         (boxChecks s1 x cp l = none → copymChecks s1 x cp = none → starts { cp with lay := some l }))) ∧
  ((∀ (x : Nat) (q : StageReq),
     let two := q.kind = 1 ∨ q.kind = 3
     let al := if two then 4096 else 256
     stageChecks x q = none ↔ q.len ≤ 2 ^ 40 ∧ q.len % al = 0 ∧
       q.src < 2 ^ 52 ∧ q.src % al = 0 ∧ (q.len = 0 ∨ q.src + q.len ≤ 2 ^ 52) ∧
       (two → q.dst < 2 ^ 52 ∧ q.dst % al = 0 ∧ (q.len = 0 ∨ q.dst + q.len ≤ 2 ^ 52))) ∧
   ∀ (f : ExtForm) (s : State) (r : Ready) (x : Nat) (i : Instr) (kind : Nat),
     let k := f.x.km1.toNat + 1
     let src := opndSrc f.x.a f.x.a.kind (f.x.pbs == 1) k
     let dst := if kind = 1 ∨ kind = 3 then opndSrc f.x.b f.x.b.kind (f.x.pbs == 2) k else .zero
     let len := opndSrc f.x.c f.x.c.kind (f.x.pbs == 3) k
     let a := { (engAcc f 1 1 1).reads [src, dst, len] with once := true }
     let c := s.cohort r.id
     let v (o : Src) : Nat := (srcVal s c x o).toNat
     let tag := fld f.x.mod 5 0
     let old := tagAt s c.unit tag
     let q : StageReq :=
       { id := s.newId.1, unit := c.unit, ctx := ctxOfCohort s c, team := (s.thread x).team, plan := (s.launchOf x).plan,
         kind := kind, tag := tag, src := v src, dst := v dst, len := v len, pc := c.pc, lin := (s.thread x).lin,
         lane := (s.thread x).lane, priv := c.priv }
     ((i = .stageUp0 f ∧ kind = 0) ∨ (i = .stageUp1 f ∧ kind = 1) ∨ (i = .stageDown1 f ∧ kind = 2) ∨
       (i = .stageDown2 f ∧ kind = 3)) →
     prep s a = .go r → Present s r.ths → actingThread s r.ths = some x →
     (stageChecks x q ≠ none → ∃ code e, exec i s = .next (takeTrap s r.id a.len code e)) ∧
     (stageChecks x q = none → ∃ t, exec i s = .next t ∧ MovedOn s t r a ∧ KeepsBytes s t r ∧
       (∀ y ∈ r.ths, (t.thread y).restartable = false ∧ (t.thread y).preds = (s.thread y).preds) ∧
       (q.len = 0 → t.mem.stages = s.mem.stages ∧
         tagAt t c.unit tag = ⟨old.count, decide (old.count = 0), old.err && decide (old.count ≠ 0)⟩) ∧
       (q.len ≠ 0 → t.mem.stages = s.mem.stages ++ [q] ∧
         tagAt t c.unit tag = ⟨old.count + 1, false, old.err && decide (old.count ≠ 0)⟩)))

/-- The queue words at issue (R372, R374, R375): QSTAT answers the held and the unclaimed records. QAWAIT takes the next
records of the launch's claim, those of its ring first (R61), once each is filled, copies them to consecutive spans of
the team's window and answers their number. QREL releases the oldest records that the launch has taken: a ring slot is
free at once, and in memory RD advances over the released records that follow one another, whose filled bits are
cleared; no other byte changes; RD goes no further while the hub waits for its own turn at the directory (R178). A word
on segments in transition, or behind an earlier access to them, or into a sleeping bank, waits as a whole and then makes
all its accesses in one step, which is the model's choice (log entries 20, 68), as is the order in which several rings
serve (58). QPUSH (R61, R372, R373): more records than slots trap QUEUE_FAULT (after the reasons before it, in the order
of log entry 48), records outside the team's window SPACE_BOUND; a record goes to a free slot of the stage's fused ring
on the core, where its bytes then stand, else to the queue in memory: it takes WR, its slot holds its bytes and its
filled bit is set; when a record finds no place the word waits, and goes on with the next record when it is tried again.
It waits for its threads' surface writes first (R199); how records that are committed before a trap stand is the model's
choice (log entry 59). -/
def Obligations.QueueWords : Prop :=
  ((∀ (la : Launch) (held : List Nat) (n : Nat), la.claim.Nodup → (la.ring = none → held = []) →
     let ts := (nextClaim la held n).1
     ts.length = min n la.claim.length ∧ ∃ rs ms, ts = rs ++ ms ∧ ms.Sublist la.claim ∧
       (∀ q ∈ rs, ∃ i k, la.ring = some i ∧ q = .ring i k ∧ (q ∈ la.claim ∨ k ∈ held)) ∧
       ∀ m i k, .mem m ∈ ms → la.ring = some i → .ring i k ∈ la.claim ∨ k ∈ held → .ring i k ∈ rs) ∧
   ∀ (f : ExtForm) (s : State) (r : Ready) (x : Nat),
     let k := f.x.km1.toNat + 1
     let off := opndSrc f.x.b false (f.x.pbs == 2) k
     let cnt := opndSrc f.x.c false (f.x.pbs == 3) k
     let d := f.x.d.idx.toNat
     let c := s.cohort r.id
     let l := (s.thread x).launch
     let la := s.launch l
     let ctx := (s.planOf x).ctx
     let as := { engAcc f 0 0 0 with wUregs := [d], once := true }
     let ar := { (engAcc f 0 0 1).reads [cnt] with once := true }
     let aw := { (engAcc f 0 1 1).reads [off, cnt] with wUregs := [d], once := true }
     let n := (srcVal s c x cnt).toNat % 2 ^ 32
     let o := (srcVal s c x off).toNat % 2 ^ 32
     Present s r.ths → actingThread s r.ths = some x →
     (prep s as = .go r → ∀ q, queueFor s x (fld f.x.mod 2 0) false false = .ok q →
       let asked := admitQueue s (.req r.id) ctx q []
       (asked.1 = false → exec (.qstat f) s = .next (stallAt asked.2 r.id .transition)) ∧
       (asked.1 = true → ∃ t, exec (.qstat f) s = .next t ∧ MovedOn s t r as ∧ KeepsBytes s t r ∧
         UregWrite t r.id d true (s.sched.clk + 1) (BitVec.ofNat 64 (q.unclaimed * 2 ^ 32 + q.held)))) ∧
     (prep s ar = .go r → ∀ q, queueFor s x la.stage false true = .ok q → (alookup s.work.launches l).isSome →
       let ts := la.taken.take n
       let asked := admitQueue s (.req r.id) ctx q (memRecs ts)
       (asked.1 = false → exec (.qrel f) s = .next (stallAt asked.2 r.id .transition)) ∧
       (asked.1 = true → ∃ t, exec (.qrel f) s = .next t ∧ MovedOn s t r ar ∧ KeepsOthers s t r ∧
         SameScratch s t ∧ (∀ a, t.mem.flash.get a = s.mem.flash.get a) ∧ (∀ y ∈ r.ths, (t.thread y).restartable = false) ∧
         (t.launch l).taken = la.taken.filter (· ∉ ts) ∧ (t.launch l).claim = la.claim ∧
         (∀ i g, alookup s.work.rings i = some g →
           alookup t.work.rings i = some { g with out := g.out.filter fun m => .ring i m ∉ ts }) ∧
         (memRecs ts = [] → SameMemory s t) ∧
         ∀ (po : Nat) (pf : Nat → Nat), memRecs ts ≠ [] → HubAt s ctx q.addr 32 po → (∀ m, HubAt s ctx (q.bitAddr m) 1 (pf m)) →
           (∀ m, pf m < po ∨ po + 32 ≤ pf m) →
           (∀ va, (va = q.addr ∨ ∃ m, va = q.bitAddr m) →
             TablesApart s ctx va po 32 ∧ ∀ m, TablesApart s ctx va (pf m) 1) →
           ∃ j, (∀ i, i < j → (la.plan, la.stage, (q.rd + i) % 2 ^ 32) ∈ s.work.released ∨ .mem ((q.rd + i) % 2 ^ 32) ∈ ts) ∧
             ((la.plan, la.stage, (q.rd + j) % 2 ^ 32) ∉ t.work.released ∨
               ∃ i segs, (.act i (.advance la.plan la.stage), segs) ∈ t.mem.waiting) ∧
             (s.mem.waiting = [] → (∀ g, (segAt s g).trn = false ∧ (segAt s g).holders = []) →
               (∀ y d, domainAsleep s y d = false) → (la.plan, la.stage, (q.rd + j) % 2 ^ 32) ∉ t.work.released) ∧
             queueAt t ctx q.addr = some { q with rd := (q.rd + j) % 2 ^ 32 } ∧
             (∀ i, i < j → filled t ctx q ((q.rd + i) % 2 ^ 32) = false) ∧
             ((∀ m m', pf m = pf m' → m % q.slots / 8 = m' % q.slots / 8) →
               ∀ m, (∀ i, i < j → m % q.slots ≠ (q.rd + i) % 2 ^ 32 % q.slots) → filled t ctx q m = filled s ctx q m) ∧
             ∀ a, ¬(po + 20 ≤ a ∧ a < po + 24) → (∀ m, a ≠ pf m) → t.mem.gddr.get a = s.mem.gddr.get a)) ∧
     (prep s aw = .go r → ∀ q, queueFor s x la.stage false true = .ok q → (alookup s.work.launches l).isSome →
       (windowBytes s x < o + n * q.size → ∃ e, exec (.qawait f) s = .next (takeTrap s r.id aw.len .spaceBound e)) ∧
       (o + n * q.size ≤ windowBytes s x →
         let ts := (nextClaim la (ringHeld s la) n).1
         let asked := admitQueue s (.req r.id) ctx q (memRecs ts)
         let places := (memRecs ts).flatMap fun m => q.bitAddr m :: edges (q.slotAddr m) q.size
         (∀ code e, unreachable s x ctx false false places = some (.trap code e) →
           exec (.qawait f) s = .next (takeTrap s r.id aw.len code e)) ∧
         (unreachable s x ctx false false places = none →
           (asked.1 = false → exec (.qawait f) s = .next (stallAt asked.2 r.id .transition)) ∧
           (asked.1 = true → (∃ m ∈ memRecs ts, filled s ctx q m = false) →
             exec (.qawait f) s = .next (stallAt asked.2 r.id (.queueRecords x n))) ∧
           (asked.1 = true → (∀ m ∈ memRecs ts, filled s ctx q m = true) →
             ∃ t, exec (.qawait f) s = .next t ∧ MovedOn s t r aw ∧ KeepsOthers s t r ∧ SameDevice s t ∧
               (∀ y ∈ r.ths, (t.thread y).restartable = false) ∧
               UregWrite t r.id d true (s.sched.clk + 1) (BitVec.ofNat 64 ts.length) ∧
               (∀ w j g, alookup (s.team (s.thread x).team).windows c.unit = some w → ts[j]? = some g →
                 (t.core c.unit).scratch.bytes (w + o + j * q.size) q.size = match g with
                   | .ring i slot => match alookup s.work.rings i with
                     | some b => (s.core b.unit).scratch.bytes (b.base + slot * b.size) q.size
                     | none => List.replicate q.size 0
                   | .mem m => (readHome s ctx (q.slotAddr m) q.size).getD (List.replicate q.size 0)) ∧
               (∀ y b, (y = c.unit → ∀ w, alookup (s.team (s.thread x).team).windows y = some w →
                   ¬(w + o ≤ b ∧ b < w + o + ts.length * q.size)) → (t.core y).scratch.get b = (s.core y).scratch.get b) ∧
               (t.launch l).taken = la.taken ++ ts ∧ (∀ g ∈ ts, g ∉ (t.launch l).claim) ∧
               ∀ i g, alookup s.work.rings i = some g → ∃ h, alookup t.work.rings i = some h ∧
                 h.held = g.held.filter fun m => .ring i m ∉ ts))))) ∧
  (∀ (f : ExtForm) (s : State) (r : Ready) (x : Nat),
     let k := f.x.km1.toNat + 1
     let queue := fld f.x.mod 2 0
     let off := opndSrc f.x.b false (f.x.pbs == 2) k
     let cnt := opndSrc f.x.c false (f.x.pbs == 3) k
     let a := { (engAcc f 0 1 1).reads [off, cnt] with once := true }
     let c := s.cohort r.id
     let ctx := (s.planOf x).ctx
     let n := (srcVal s c x cnt).toNat % 2 ^ 32
     let o := (srcVal s c x off).toNat % 2 ^ 32
     let drawn := ∃ q ∈ s.surf.reqs, q.thread ∈ r.ths ∧ (q.kind = 1 ∨ q.kind = 2)
     prep s a = .go r → Present s r.ths → actingThread s r.ths = some x →
     ((s.planOf x).draw = true → ∃ e, exec (.qpush f) s = .next (takeTrap s r.id a.len .queueFault e)) ∧
     ((s.planOf x).draw = false → queue = 0 ∨ (s.planOf x).stages.length < queue ∨ queue ≤ (s.launchOf x).stage →
       ∃ e, exec (.qpush f) s = .next (takeTrap s r.id a.len .queueFault e)) ∧
     ∀ q, queueFor s x queue true false = .ok q →
       let bytes := winBytes s (s.thread x).team c.unit (o + c.pushed * q.size) q.size
       (q.slots < n → ∃ e, exec (.qpush f) s = .next (takeTrap s r.id a.len .queueFault e)) ∧
       (n ≤ q.slots → windowBytes s x < o + n * q.size →
         ∃ e, exec (.qpush f) s = .next (takeTrap s r.id a.len .spaceBound e)) ∧
       (n ≤ q.slots → o + n * q.size ≤ windowBytes s x → drawn → exec (.qpush f) s = .next (stallAt s r.id .drain)) ∧
       (n ≤ q.slots → o + n * q.size ≤ windowBytes s x → ¬drawn → c.pushed ≤ n →
         (n = 0 → (admitPush s r.id x true q).1 = false →
           exec (.qpush f) s = .next (stallAt (admitPush s r.id x true q).2 r.id .transition)) ∧
         (c.pushed = n → (n = 0 → (admitPush s r.id x true q).1 = true) → ∃ t, exec (.qpush f) s = .next t ∧ MovedOn s t r a ∧ KeepsBytes s t r ∧
           ∀ y ∈ r.ths, (t.thread y).restartable = false) ∧
         (∀ i slot g, c.pushed + 1 = n → freeRing s (s.launchOf x).plan queue c.unit = some (i, slot) →
           alookup s.work.rings i = some g → (admitPush s r.id x true q).1 = true →
           ∃ t, exec (.qpush f) s = .next t ∧ MovedOn s t r a ∧ KeepsOthers s t r ∧ SameDevice s t ∧
             alookup t.work.rings i = some { g with held := g.held ++ [slot] } ∧
             (t.core g.unit).scratch.bytes (g.base + slot * g.size) q.size = bytes ∧
             (∀ y b, (y = g.unit → ¬(g.base + slot * g.size ≤ b ∧ b < g.base + slot * g.size + q.size)) →
               (t.core y).scratch.get b = (s.core y).scratch.get b) ∧
             ∀ y ∈ r.ths, (t.thread y).restartable = false) ∧
         (∀ po ps pf, c.pushed + 1 = n → freeRing s (s.launchOf x).plan queue c.unit = none → q.held < q.slots →
           (admitPush s r.id x false q).1 = true → HubAt s ctx q.addr 32 po → HubAt s ctx (q.slotAddr q.wr) q.size ps →
           HubAt s ctx (q.bitAddr q.wr) 1 pf → (po + 32 ≤ ps ∨ ps + q.size ≤ po) → (pf < po ∨ po + 32 ≤ pf) →
           (pf < ps ∨ ps + q.size ≤ pf) →
           (∀ va, (va = q.addr ∨ va = q.slotAddr q.wr ∨ va = q.bitAddr q.wr) →
             TablesApart s ctx va po 32 ∧ TablesApart s ctx va ps q.size ∧ TablesApart s ctx va pf 1) →
           ∃ t, exec (.qpush f) s = .next t ∧ MovedOn s t r a ∧ KeepsOthers s t r ∧ SameScratch s t ∧
             queueAt t ctx q.addr = some { q with wr := (q.wr + 1) % 2 ^ 32 } ∧
             readHome t ctx (q.slotAddr q.wr) q.size = some bytes ∧ filled t ctx q q.wr = true ∧
             (∀ a, t.mem.flash.get a = s.mem.flash.get a) ∧
             (∀ a, ¬(po + 16 ≤ a ∧ a < po + 20) → ¬(ps ≤ a ∧ a < ps + q.size) → a ≠ pf →
               t.mem.gddr.get a = s.mem.gddr.get a) ∧
             ∀ y ∈ r.ths, (t.thread y).restartable = false) ∧
         let go := pushAll s r.id x c.unit queue q.addr (o + c.pushed * q.size) c.priv q.size (n - c.pushed)
         (∀ code e, go = .error (.trap code e) → exec (.qpush f) s = .next (takeTrap s r.id a.len code e)) ∧
         ∀ p, go = .ok p → c.pushed + p.count ≠ n →
           (∀ code e, c.pushed = 0 → p.count ≠ 0 → unpushable s x q.addr q.size = some (.trap code e) →
             exec (.qpush f) s = .next (takeTrap s r.id a.len code e)) ∧
           (c.pushed ≠ 0 ∨ p.count = 0 ∨ unpushable s x q.addr q.size = none →
             ∃ t at', exec (.qpush f) s = .next t ∧ (t.cohort r.id).pc = c.pc ∧ (t.cohort r.id).pushed = c.pushed + p.count ∧
               (t.cohort r.id).wait = .stall (if p.waits then .transition else .queueRoom x queue) at')))

/-- The matrix commands MWLD, MMA, MACC, MZERO and MDRAIN at issue (R209, R210, R379 to R384): with 16 commands waiting the
word waits; a command passes just when its operands are aligned and inside the team's window, its tiles are the team's, the
half it reads has been issued a load and its stream fits that half; one that fails traps; one that passes enters the queue behind the others, under its tag, and
changes no accumulator and no half before it runs. The order of the wait and the checks is the model's reading (log entry 46). -/
def Obligations.MatrixCommands : Prop :=
  (∀ (s : State) (unit x : Nat) (m : MCmd),
    let hf := ((mxReads m).bind fun h => alookup (s.core unit).mx.issued h).getD 0
    mxCheck s unit x m = none ↔
      (∀ p ∈ mxSpans m hf, p.off % p.align = 0 ∧ p.off + p.bytes ≤ windowBytes s x) ∧
      (s.planOf x).acct ≠ 0 ∧ (∀ k ∈ mxTiles m, k < (s.planOf x).acct) ∧
      (∀ h, mxReads m = some h → (alookup (s.core unit).mx.issued h).isSome) ∧ (m.op = 1 → mxFits m.fmt hf = true)) ∧
  ∀ (f : ExtForm) (s : State) (r : Ready) (x : Nat) (i : Instr) (op rows : Nat),
    let a := mxAcc (mxCode op) f
    let c := s.cohort r.id
    let mx := (s.core c.unit).mx
    let m := mxCmd s c x f.x op rows
    ((i = .mwld f ∧ op = 0 ∧ rows = 0) ∨ (i = .mma16 f ∧ op = 1 ∧ rows = 16) ∨ (i = .mma32 f ∧ op = 1 ∧ rows = 32) ∨
      (i = .mma64 f ∧ op = 1 ∧ rows = 64) ∨ (i = .mma128 f ∧ op = 1 ∧ rows = 128) ∨ (i = .macc f ∧ op = 2 ∧ rows = 0) ∨
      (i = .mzero f ∧ op = 3 ∧ rows = 0) ∨ (i = .mdrain f ∧ op = 4 ∧ rows = 0)) →
    prep s a = .go r → actingThread s r.ths = some x →
    (16 ≤ (mxWaiting mx).length → exec i s = .next (stallAt s r.id .matrixQueue)) ∧
    ((mxWaiting mx).length < 16 →
      (mxCheck s c.unit x m ≠ none → ∃ code e, exec i s = .next (takeTrap s r.id a.len code e)) ∧
      (mxCheck s c.unit x m = none → ∃ t n, exec i s = .next t ∧ MovedOn s t r a ∧ KeepsBytes s t r ∧
        (t.core c.unit).mx = { mx with
          queue := mx.queue ++ [{ m with id := n }]
          issued := if op = 0 then ainsert mx.issued m.half m.fmt else mx.issued } ∧
        ∀ g, m.tag = some g → tagAt t c.unit g =
          ⟨(tagAt s c.unit g).count + 1, false, (tagAt s c.unit g).err && decide ((tagAt s c.unit g).count ≠ 0)⟩))

/-- MSTAGE loads a staged-command slot, and waits while the slot is occupied (R211, R385); MSTAT answers how many commands
wait and whether an MMA or MACC runs, or first waits for the team's own commands; a team without accumulators traps ENGINE_FAULT (R210, R386). That
the wait comes before the checks is the model's reading (log entry 46). -/
def Obligations.MatrixStaging : Prop :=
  ∀ (f : ExtForm) (s : State) (r : Ready) (x : Nat),
    let a := mxAcc 0x81 f
    let c := s.cohort r.id
    let mx := (s.core c.unit).mx
    let cmd := fld f.x.imm 15 13
    let slot := fld f.x.imm 12 11
    let m := { mxCmd s c x f.x (if cmd = 0 then 0 else 1) (2 ^ (3 + cmd)) with tag := none }
    let d := f.x.d.idx.toNat
    let b := { engAcc f 0 0 0 with wUregs := [d], once := true }
    let mine := (mx.queue.filter fun q => q.team == (s.thread x).team).map MCmd.id
    actingThread s r.ths = some x →
    (prep s a = .go r →
      (∀ o, alookup mx.slots slot = some (.occupied o) → exec (.mstage f) s = .next (stallAt s r.id (.staged slot))) ∧
      ((∀ o, alookup mx.slots slot ≠ some (.occupied o)) →
        (mxCheck s c.unit x m ≠ none → ∃ code e, exec (.mstage f) s = .next (takeTrap s r.id a.len code e)) ∧
        (mxCheck s c.unit x m = none → ∃ t, exec (.mstage f) s = .next t ∧ MovedOn s t r a ∧ KeepsBytes s t r ∧
          (t.core c.unit).mx = { mx with slots := ainsert mx.slots slot (.loaded m) }))) ∧
    (prep s b = .go r →
      ((s.planOf x).acct = 0 → ∃ e, exec (.mstat f) s = .next (takeTrap s r.id b.len .engineFault e)) ∧
      ((s.planOf x).acct ≠ 0 → bitOf f.x.mod 0 = false ∨ mine = [] →
        ∃ t v, exec (.mstat f) s = .next t ∧ MovedOn s t r b ∧ OnlyRegisters s t r ∧ UregWrite t r.id d true (s.sched.clk + 1) v ∧
          ((mxWaiting mx).length ≤ 16 → v.toNat % 32 = (mxWaiting mx).length ∧ v.toNat / 64 % 4 = 0 ∧
            (v.toNat / 32 % 2 = 1 ↔ ∃ q ∈ mx.queue, (q.op = 1 ∨ q.op = 2) ∧ q.due.isSome))) ∧
      ((s.planOf x).acct ≠ 0 → bitOf f.x.mod 0 = true → mine ≠ [] →
        ∃ t, exec (.mstat f) s = .next t ∧ OnlyRegisters s t r ∧ (t.cohort r.id).pc = pcAdd c.pc b.len ∧
          (t.cohort r.id).wait = .mstat mine d))

/-- A matrix command starts when no earlier one conflicts with it and the array is free, and runs for its time (R208, R209);
when it completes, MZERO clears the 128 rows of its tile, MACC adds another tile to it, and an MMA adds to its rows one
K-block after the other (R121, R124, R206, R383); MDRAIN writes each element of its tile, scaled by its column and its row and
rounded to the destination's format, or unchanged (R126, R384); other elements and bytes stay. The command leaves the queue and
its tag. That a command reads and writes when it completes is the model's choice (log entry 28). -/
def Obligations.MatrixArray : Prop :=
  (∀ (s : State) (c : MCmd) (rest : List MCmd),
    let u := s.sched.arg.a
    let mx := (s.core u).mx
    mxWaiting mx = c :: rest →
    (mxMayStart s.sched.clk (mx.queue.filter fun e => e.due.isSome) c = true →
      ∃ t, exec .matrixCommandStart s = .next t ∧ SameMemory s t ∧ t.work = s.work ∧ (t.core u).mx.tiles = mx.tiles ∧
        (∀ q ∈ (t.core u).mx.queue, q.id = c.id → q.due = some (s.sched.clk + mxTime c)) ∧
        (t.core u).mx.queue.map MCmd.id = mx.queue.map MCmd.id) ∧
    (mxMayStart s.sched.clk (mx.queue.filter fun e => e.due.isSome) c = false → exec .matrixCommandStart s = .next s)) ∧
  ∀ (s : State) (c : MCmd) (d : Nat),
    let u := s.sched.arg.a
    let mx := (s.core u).mx
    let h := (alookup mx.halves c.half).getD ⟨0, [], [], []⟩
    (mx.queue.find? fun q => q.id == s.sched.arg.b) = some c → c.due = some d → d ≤ s.sched.clk →
    (c.op = 1 → c.row0 + c.rows ≤ 128) →
    ∃ t, exec .matrixCommandComplete s = .next t ∧ t.work.threads = s.work.threads ∧ SameDevice s t ∧
      (c.op ≤ 3 → SameScratch s t) ∧
      (c.op = 4 → c.fmt ≤ 5 →
        let b := if c.fmt = 0 ∨ c.fmt = 5 then 4 else if c.fmt ≤ 2 then 2 else 1
        (∀ y a, (y = u → ∀ w, alookup (s.team c.team).windows u = some w → ¬(w + c.pa ≤ a ∧ a < w + c.pa + 8192 * b)) →
          (t.core y).scratch.get a = (s.core y).scratch.get a) ∧
        ∀ w row col, alookup (s.team c.team).windows u = some w → row < 128 → col < 64 →
          let acc := accAt mx c.acc row col
          let x := if c.int then convert 5 0 0 acc else acc
          let cs := if c.nocs then 0x3F800000 else (h.cs.getD col 0).toNat
          let rs := if c.unit then 0x3F800000 else leNat (winBytes s c.team u (c.pb + 4 * row) 4)
          (t.core u).scratch.bytes (w + c.pa + (64 * row + col) * b) b =
            leBytes b (if c.fmt = 5 then acc else convert 0 c.fmt 0 (F32.mul 0 (F32.mul 0 x cs) rs))) ∧
      (t.core u).mx.queue = mx.queue.filter (fun q => q.id != c.id) ∧
      (∀ g, c.tag = some g → (tagAt t u g).count = (tagAt s u g).count - 1) ∧
      (c.op = 0 → ∃ k, alookup (t.core u).mx.halves c.half = some k ∧ k.fmt = c.fmt ∧
        k.tile = winBytes s c.team u c.pa 8192 ∧ (c.unit = true → k.cs = List.replicate 64 0x3F800000)) ∧
      ∀ tile row col, row < 128 → col < 64 →
        (c.op = 0 ∨ c.op = 4 ∨ tile ≠ c.acc ∨ (c.op = 1 ∧ ¬(c.row0 ≤ row ∧ row < c.row0 + c.rows)) →
          accAt (t.core u).mx tile row col = accAt mx tile row col) ∧
        (c.op = 3 → accAt (t.core u).mx c.acc row col = 0) ∧
        (c.op = 2 → accAt (t.core u).mx c.acc row col =
          (if c.int then accAt mx c.acc row col + accAt mx c.src row col
            else F32.add 0 (accAt mx c.acc row col) (accAt mx c.src row col)) % 2 ^ 32) ∧
        (c.op = 1 → c.row0 ≤ row → row < c.row0 + c.rows →
          let rb := rowBytes c.fmt (mxDepth h.fmt)
          let stream := ((winBytes s c.team u c.pa (c.rows * rb)).drop ((row - c.row0) * rb)).take rb
          let za := ((winBytes s c.team u c.pb (if 4 ≤ c.fmt then c.rows else 0)).getD (row - c.row0) 0).toNat
          accAt (t.core u).mx c.acc row col =
            (List.range (mxDepth h.fmt / 16 - c.pass)).foldl (fun v b => accStep h c.fmt stream za (c.pass + b) col v % 2 ^ 32)
              (accAt mx c.acc row col))

/-- SLD (R157, R379, R388, R389): an empty slot or level traps SPACE_BOUND, a visibility format without RAW traps
ENGINE_FAULT; else the word issues, and each thread's pixel, its channels as F32 values or its pattern, zeros outside
the level, is its scoreboarded result: at once where the tiles are resident and no earlier access waits for them, and
when the access comes to its turn at the tile otherwise. No pixel changes. That the accesses of a word are one step each
is the model's choice (log entry 20). The formats (R108, R129, R154, R227): where a pixel's channels stand; a channel as
an F32 value is exact, or e / M rounded once; an F32 value is stored rounded, bit for bit, or clamped to 0 to 1 and
scaled. STINFO answers the fields of a bound entry, 0 for an empty one, and clears DAMAGE where asked to (R392). -/
def Obligations.SurfaceLoads : Prop :=
  (∀ (f : ExtForm) (s : State) (r : Ready),
     let c := s.cohort r.id
     let ctx := ctxOfCohort s c
     let raw := bitOf f.x.mod 9
     let slot := (slotLevel c f.x).1
     let level := (slotLevel c f.x).2
     let xy := opndSrc f.x.a false (f.x.pbs == 1) (f.x.km1.toNat + 1)
     let d := f.x.d.idx.toNat
     let n := if raw then bpp (((surfSte s ctx slot level).map Ste.fmt).getD 0) / 4 else 4
     let a := { surfAcc f 1 0 [xy] with wNames := (List.range n).map (d + ·) }
     let at' (x : Nat) : Nat × Nat := coords (srcVal s c x xy)
     prep s a = .go r → Present s r.ths → r.ths ≠ [] →
     (surfSte s ctx slot level = none → ∃ e, exec (.sld f) s = .next (takeTrap s r.id a.len .spaceBound e)) ∧
     ∀ e, surfSte s ctx slot level = some e →
       let keys := (r.ths.filter fun x => e.inside level (at' x).1 (at' x).2).map fun x => tileAt ctx slot level (at' x).1 (at' x).2
       (raw = false → e.fmt = 6 → ∃ k, exec (.sld f) s = .next (takeTrap s r.id a.len .engineFault k)) ∧
       (raw = true ∨ e.fmt ≠ 6 →
         let value (x k : Nat) : Nat :=
           if e.inside level (at' x).1 (at' x).2 then
             let p := pixelAt s e ctx slot level (at' x).1 (at' x).2
             if raw then leNat p / 2 ^ (32 * k) % 2 ^ 32 else (pixelF32 e.fmt p).getD k 0 % 2 ^ 32
           else 0
         let ready (k : TileKey) : Prop := (tileOf s k).st = .resident ∧ asleep s k = false
         (servable s 0 keys = true ∨ s.surf.reqs = [] ∧ s.surf.order = [] →
           ∃ t, exec (.sld f) s = .next t ∧ MovedOn s t r a ∧ SameMemory s t ∧ t.draw = s.draw ∧ t.cfg = s.cfg ∧ t.host = s.host ∧
             OtherThreads s t r.ths ∧ OtherCohorts s t r.id ∧ t.surf.bound = s.surf.bound ∧
             (∀ k, (tileOf t k).bytes = (tileOf s k).bytes) ∧
             ∀ x ∈ r.ths,
               let key := tileAt ctx slot level (at' x).1 (at' x).2
               (e.inside level (at' x).1 (at' x).2 = false ∨ ready key →
                 ∀ k, k < n → NameWrite t x (d + k) true (s.sched.clk + 1) (value x k)) ∧
               (e.inside level (at' x).1 (at' x).2 = true → ¬ready key →
                 (tileOf t key).st ≠ .spilled ∨ (tileOf t key).wants = true) ∧
               (e.inside level (at' x).1 (at' x).2 = true → ¬ready key → ∃ q ∈ t.surf.reqs,
                 q.thread = x ∧ q.kind = 0 ∧ q.ctx = ctx ∧ q.slot = slot ∧ q.level = level ∧ (q.x, q.y) = at' x ∧ q.raw = raw ∧
                 q.d = d ∧ (q.id, [key]) ∈ t.surf.order ∧
                 ∀ k, k < n → ∃ p ∈ (t.thread x).writes, p.tgt = .name (d + k) ∧ p.var = true ∧ p.held = true ∧ p.id = q.word)))) ∧
  ((∀ (fmt c : Nat) (px : List Byte), fmt ≤ 5 → px.length = bpp fmt → c < channels fmt →
     let w := if fmt = 3 then 8 else if fmt = 0 ∨ fmt = 4 then 16 else 32
     chanBits fmt c px = leNat px / 2 ^ (w * c) % 2 ^ w ∧
     pixelF32 fmt px = (if fmt = 1 ∨ fmt = 5 then [chanF32 fmt (leNat px), 0, 0, 0x3F800000]
       else (List.range 4).map fun i => chanF32 fmt (leNat px / 2 ^ (w * i) % 2 ^ w))) ∧
   ∀ (fmt v : Nat),
     let m := if fmt = 3 then 255 else 65535
     (fmt = 1 ∨ fmt = 2 ∨ fmt = 5 → chanF32 fmt v = v ∧ chanOfF32 fmt v = v) ∧
     (fmt = 0 → chanF32 fmt v = convert 1 0 0 v ∧ chanOfF32 fmt v = convert 0 1 0 v) ∧
     (fmt = 3 ∨ fmt = 4 →
       (v ≤ m → (v = 0 → chanF32 fmt v = 0) ∧ (v ≠ 0 → F32.IsRound 0 (v * 2 ^ 149) m (chanF32 fmt v))) ∧
       (v < 2 ^ 32 → (F32.IsNan v → chanOfF32 fmt v = 0) ∧ (F32.IsInf v → chanOfF32 fmt v = if v.testBit 31 then 0 else m) ∧
         (F32.Finite v → ∃ n, IsRounded 0 F32.one (max 0 (min (F32.one : Int) (F32.units v)) * m) n ∧ chanOfF32 fmt v = n)))) ∧
  (∀ (f : ExtForm) (s : State) (r : Ready),
     let c := s.cohort r.id
     let ctx := ctxOfCohort s c
     let slot := (slotLevel c f.x).1
     let d := f.x.d.idx.toNat
     let a := { surfAcc f 0 0 [] with wUregs := [d] }
     let bound (s : State) : Option Ste := alookup s.surf.bound (256 * ctx + slot)
     prep s a = .go r → Present s r.ths → r.ths ≠ [] →
     ∃ t v, exec (.stinfo f) s = .next t ∧ MovedOn s t r a ∧ SameMemory s t ∧ OtherThreads s t r.ths ∧ OtherCohorts s t r.id ∧
       UregWrite t r.id d true (s.sched.clk + 1) v ∧ t.surf.tiles = s.surf.tiles ∧
       bound t = (if bitOf f.x.mod 0 then (bound s).map fun e => { e with damage := false } else bound s) ∧
       (bound s = none → v = 0) ∧
       ∀ e, bound s = some e →
         (e.nl = 0 → v = 0) ∧
         (1 ≤ e.nl → e.nl ≤ 16 → e.fmt ≤ 6 → e.wm1 < 65536 → e.hm1 < 65536 →
           v.toNat % 16 = e.nl - 1 ∧ v.toNat / 2 ^ 4 % 16 = e.fmt ∧ v.getLsbD 11 = e.keep ∧ v.getLsbD 12 = e.load ∧
           v.getLsbD 14 = e.damage ∧ v.getLsbD 15 = true ∧ v.toNat / 2 ^ 32 % 65536 = e.hm1 ∧ v.toNat / 2 ^ 48 = e.wm1))

/-- SST (R388, R390) and VBMIN (R228, R391): the checks are those of SLD, and the word issues without a wait (R379). At
once, or when its access comes to its turn at a tile that is not resident yet (R157), each executing thread, in
ascending home-lane order, writes the named channels of its pixel, converted to the format, or its whole pattern, or the
smaller of its value and the pixel's; pixels outside the level and bytes of no thread's pixel stay. A surface access
that comes to its turn (R157) gives its thread the loaded or sampled value that it waits for, or writes its pixel: its
channels, its pattern or the minimum (R228, R389 to R391, R395); no other pixel changes. -/
def Obligations.SurfaceStores : Prop :=
  (∀ (f : ExtForm) (s : State) (r : Ready) (i : Instr) (a : Acc) (bad : Ste → Prop),
     let c := s.cohort r.id
     let ctx := ctxOfCohort s c
     let raw := bitOf f.x.mod 9
     let slot := (slotLevel c f.x).1
     let level := (slotLevel c f.x).2
     let k := f.x.km1.toNat + 1
     let xy := opndSrc f.x.a false (f.x.pbs == 1) k
     let v := opndSrc f.x.b true (f.x.pbs == 2) k
     let fmt := ((surfSte s ctx slot level).map Ste.fmt).getD 0
     let n := if raw then bpp fmt / 4 else 4
     let ds := groupSrcs f.x.b n (f.x.pbs == 2) k
     let used := (List.range n).filter fun j => raw || ((fld f.x.mod 3 0).testBit j && decide (j < channels fmt))
     let a0 := surfAcc f 1 n (xy :: used.filterMap fun j => ds[j]?)
     let at' (x : Nat) : Nat × Nat := coords (srcVal s c x xy)
     let val (x j : Nat) : Nat := ((ds[j]?).map fun o => (srcVal s c x o).toNat).getD 0
     ((i = .sst f ∧ a = (if f.x.pbs = 2 then { a0 with back := some (f.x.b.idx.toNat, k, n) } else a0) ∧
         bad = fun e => raw = false ∧ e.fmt = 6) ∨
       (i = .vbmin f ∧ a = surfAcc f 1 2 [xy, v] ∧ bad = fun e => e.fmt ≠ 6)) →
     prep s a = .go r → Present s r.ths → r.ths ≠ [] →
     (surfSte s ctx slot level = none → ∃ e, exec i s = .next (takeTrap s r.id a.len .spaceBound e)) ∧
     ∀ e, surfSte s ctx slot level = some e →
       let inside (x : Nat) : Bool := e.inside level (at' x).1 (at' x).2
       let key (x : Nat) : TileKey := tileAt ctx slot level (at' x).1 (at' x).2
       let keys := (r.ths.filter inside).map key
       (bad e → ∃ q, exec i s = .next (takeTrap s r.id a.len .engineFault q)) ∧
       (¬bad e → s.surf.reqs = [] → s.surf.order = [] → ∃ t, exec i s = .next t ∧ MovedOn s t r a ∧ SameMemory s t ∧
         t.draw = s.draw ∧ t.cfg = s.cfg ∧ t.host = s.host ∧ OtherThreads s t r.ths ∧ OtherCohorts s t r.id ∧
         ∀ x ∈ r.ths, inside x = true → (tileOf s (key x)).st ≠ .resident ∨ asleep s (key x) = true →
           (tileOf t (key x)).bytes = (tileOf s (key x)).bytes ∧
           ((tileOf t (key x)).st ≠ .spilled ∨ (tileOf t (key x)).wants = true) ∧
           ∃ q ∈ t.surf.reqs, q.thread = x ∧ q.kind = (if i = .vbmin f then 2 else 1) ∧ q.ctx = ctx ∧ q.slot = slot ∧
             q.level = level ∧ (q.x, q.y) = at' x ∧ (q.id, [key x]) ∈ t.surf.order ∧
             (i = .sst f → q.raw = raw ∧ q.chans = used ∧ q.data = (List.range n).map fun j => BitVec.ofNat 32 (val x j)) ∧
             (i = .vbmin f → q.data = [(srcVal s c x v).setWidth 32, (srcVal s c x v >>> 32).setWidth 32])) ∧
       (¬bad e → e.fmt ≤ 6 → servable s 0 keys = true → (∀ q ∈ keys, (tileOf s q).bytes.length = tileLen e.fmt) →
         ∃ t, exec i s = .next t ∧ MovedOn s t r a ∧ SameMemory s t ∧ t.draw = s.draw ∧ t.cfg = s.cfg ∧ t.host = s.host ∧
           OtherThreads s t r.ths ∧ OtherCohorts s t r.id ∧ t.surf.bound = s.surf.bound ∧
           (∀ q, q ∉ keys → (tileOf t q).bytes = (tileOf s q).bytes) ∧
           (∀ x y, (∀ u ∈ r.ths, at' u ≠ (x, y)) → pixelAt t e ctx slot level x y = pixelAt s e ctx slot level x y) ∧
           ∀ x ∈ r.ths, inside x = true → (∀ y ∈ r.ths, at' y = at' x → y = x) → r.ths.count x = 1 →
             let old := pixelAt s e ctx slot level (at' x).1 (at' x).2
             let new := pixelAt t e ctx slot level (at' x).1 (at' x).2
             (i = .vbmin f → leNat new = min (leNat old) (srcVal s c x v).toNat) ∧
             (i = .sst f → raw = true → new = (List.range (bpp e.fmt / 4)).flatMap fun j => leBytes 4 (val x j)) ∧
             (i = .sst f → raw = false → ∀ j, j < channels e.fmt → chanBits e.fmt j new =
               if j ∈ used then chanOfF32 e.fmt (val x j) % 256 ^ chanBytes e.fmt else chanBits e.fmt j old))) ∧
  (∀ (s : State) (q : SurfReq) (e : Ste) (ks : List TileKey), surfSte s q.ctx q.slot q.level = some e → e.fmt ≤ 6 →
     (q.kind = 2 → e.fmt = 6) → (q.kind = 1 → q.raw = false → ∀ c ∈ q.chans, c < channels e.fmt) →
     let t := performReq s q ks
     let key := tileAt q.ctx q.slot q.level q.x q.y
     let old := pixelAt s e q.ctx q.slot q.level q.x q.y
     let new := pixelAt t e q.ctx q.slot q.level q.x q.y
     let w (j : Nat) : Nat := (q.data.getD j 0).toNat
     SameMemory s t ∧ t.surf.bound = s.surf.bound ∧ OtherThreads s t [q.thread] ∧ t.work.cohorts = s.work.cohorts ∧
     (∀ k, k ≠ key ∨ q.kind = 0 ∨ q.kind = 3 → (tileOf t k).bytes = (tileOf s k).bytes) ∧
     (∀ x y, (x, y) ≠ (q.x, q.y) → (tileOf s key).bytes.length = tileLen e.fmt →
       pixelAt t e q.ctx q.slot q.level x y = pixelAt s e q.ctx q.slot q.level x y) ∧
     (q.kind = 0 ∨ q.kind = 3 ∧ (parseSampler q.sampler.toNat).isSome = true → (alookup s.work.threads q.thread).isSome →
       ∀ p ∈ (s.thread q.thread).writes, ∀ j, p.held = true → p.id = q.word → p.tgt = .name (q.d + j) → j < 4 →
         ∃ v, { p with held := false, due := max p.due (s.sched.clk + 1), val := BitVec.ofNat 64 v } ∈ (t.thread q.thread).writes ∧
           (q.kind = 0 → v = if e.inside q.level q.x q.y then
             (if q.raw then leNat old / 2 ^ (32 * j) % 2 ^ 32 else (pixelF32 e.fmt old).getD j 0 % 2 ^ 32) else 0) ∧
           ∀ m, q.kind = 3 → parseSampler q.sampler.toNat = some m →
             v = (sample s e q.ctx q.slot m (w 2) (w 0) (w 1)).getD j 0 % 2 ^ 32) ∧
     (e.inside q.level q.x q.y = true → (tileOf s key).bytes.length = tileLen e.fmt →
       (q.kind = 2 → e.fmt = 6 → leNat new = min (leNat old) (w 0 + 2 ^ 32 * w 1)) ∧
       (q.kind = 1 → q.raw = true → new = (List.range (bpp e.fmt / 4)).flatMap fun j => leBytes 4 (w j)) ∧
       (q.kind = 1 → q.raw = false → ∀ j, j < channels e.fmt →
         chanBits e.fmt j new = if j ∈ q.chans then chanOfF32 e.fmt (w j) % 256 ^ chanBytes e.fmt else chanBits e.fmt j old)))

/-- SAMP and SAMPL (R236 to R239, R395): an empty slot traps SPACE_BOUND, a visibility format or an invalid state word
ENGINE_FAULT; else the word issues (R379), and each thread's four channels are its result, written no earlier than 64
cycles after issue, and when the sample has come to its turn at its tiles (R157). The level of detail is the given one,
or the quad's, plus the bias (R132). What a sample is (R127 to R133, R237, R238): the texels of a coordinate and their
weights, the legal index, the levels and their weights, the filtered value: of a normalised format the exact weighted
sum rounded once, of a float format the chain of fused products; and the level of detail of a quad. -/
def Obligations.SamplerWords : Prop :=
  (∀ (f : ExtForm) (s : State) (r : Ready) (i : Instr) (lod : Option Src),
     let c := s.cohort r.id
     let ctx := ctxOfCohort s c
     let slot := fld f.x.imm 7 0
     let k := f.x.km1.toNat + 1
     let xy := opndSrc f.x.a true (f.x.pbs == 1) k
     let d := f.x.d.idx.toNat
     let a := { (engAcc f 2 0 (if lod.isSome then 1 else 0)).reads ([xy, .ureg f.x.b.idx.toNat true] ++ lod.toList) with
       wNames := (List.range 4).map (d + ·) }
     let uv (x : Nat) : Nat × Nat := ((srcVal s c x xy).toNat % 2 ^ 32, (srcVal s c x xy).toNat / 2 ^ 32)
     let word := parseSampler (c.readUreg f.x.b.idx.toNat).toNat
     ((i = .samp f ∧ lod = none) ∨ (i = .sampl f ∧ lod = some (opndSrc f.x.c false (f.x.pbs == 3) k))) →
     prep s a = .go r → Present s r.ths → r.ths ≠ [] →
     (surfSte s ctx slot 0 = none → ∃ e, exec i s = .next (takeTrap s r.id a.len .spaceBound e)) ∧
     ∀ e, surfSte s ctx slot 0 = some e →
       (e.fmt = 6 ∨ word = none → ∃ q, exec i s = .next (takeTrap s r.id a.len .engineFault q)) ∧
       ∀ m, e.fmt ≠ 6 → word = some m →
         let lam (x : Nat) : Nat := match lod with
           | some l => F32.add 0 ((srcVal s c x l).toNat % 2 ^ 32) m.bias
           | none => if (s.thread x).quad = none then F32.add 0 0 m.bias else quadLod e m.bias (partnerUv s r.ths uv x)
         let keys := r.ths.flatMap fun x => sampleTiles e ctx slot m (lam x) (uv x).1 (uv x).2
         let ready (k : TileKey) : Prop := (tileOf s k).st = .resident ∧ asleep s k = false
         servable s 0 keys = true ∨ s.surf.reqs = [] ∧ s.surf.order = [] →
           ∃ t, exec i s = .next t ∧ MovedOn s t r a ∧ SameMemory s t ∧ t.draw = s.draw ∧ t.cfg = s.cfg ∧ t.host = s.host ∧
             OtherThreads s t r.ths ∧ OtherCohorts s t r.id ∧ (∀ q, (tileOf t q).bytes = (tileOf s q).bytes) ∧
             ((∀ k ∈ keys, ready k) → ∀ x ∈ r.ths, ∀ j, j < 4 → NameWrite t x (d + j) true (s.sched.clk + 64)
               ((sample s e ctx slot m (lam x) (uv x).1 (uv x).2).getD j 0 % 2 ^ 32)) ∧
             ∀ x ∈ r.ths, ∀ k ∈ sampleTiles e ctx slot m (lam x) (uv x).1 (uv x).2, ¬ready k →
               ((tileOf t k).st ≠ .spilled ∨ (tileOf t k).wants = true) ∧ ∃ q ∈ t.surf.reqs, q.thread = x ∧ q.kind = 3 ∧
                 q.ctx = ctx ∧ q.slot = slot ∧ q.level = 0 ∧ q.sampler = c.readUreg f.x.b.idx.toNat ∧ q.d = d ∧
                 q.data = [BitVec.ofNat 32 (uv x).1, BitVec.ofNat 32 (uv x).2, BitVec.ofNat 32 (lam x)] ∧
                 ∀ j, j < 4 → ∃ p ∈ (t.thread x).writes, p.tgt = .name (d + j) ∧ p.var = true ∧ p.held = true ∧ p.id = q.word ∧
                   p.due = s.sched.clk + 64) ∧
  (let one : Nat := 2 ^ 149
   let floorOf (p : Nat) (lo hi i : Int) : Prop :=
     let x := max (lo * one) (min (hi * one) (F32.units p));
     if F32.IsInf p then i = (if p.testBit 31 then lo else hi) else i * one ≤ x ∧ x < (i + 1) * one
   let fraction (p : Nat) (i hi q : Int) : Prop :=
     if F32.IsInf p ∨ hi * one ≤ F32.units p ∨ F32.units p ≤ i * one then q = 0 else IsRounded 0 one (256 * (F32.units p - i * one)) q
   let tenth (q : Nat) : Nat := F32.mul 0 (convert 6 0 0 q) 0x3B800000
   (∀ u extent, u < 2 ^ 32 → 1 ≤ extent → extent ≤ 65536 →
     let v := if F32.IsNan u then 0 else u
     let p := F32.mul 0 v (convert 6 0 0 extent)
     let h := F32.fma 0 v (convert 6 0 0 extent) 0xBF000000
     (∃ i, floorOf p (-2 ^ 24) (2 ^ 24) i ∧ texels false u extent = [(i, 256)]) ∧
     ∃ (i : Int) (q : Nat), floorOf h (-2 ^ 24) (2 ^ 24) i ∧ fraction h i (2 ^ 24) q ∧
       texels true u extent = if q = 0 then [(i, 256)] else if q = 256 then [(i + 1, 256)] else [(i, 256 - q), (i + 1, q)]) ∧
   (∀ (mode extent : Nat) (i : Int), mode < 3 → 1 ≤ extent →
     let j : Int := legalIndex mode extent i
     0 ≤ j ∧ j < extent ∧ (mode = 0 → (extent : Int) ∣ i - j) ∧ (mode = 1 → j = max 0 (min i (extent - 1))) ∧
       (mode = 2 → (2 * extent : Int) ∣ i - j ∨ (2 * extent : Int) ∣ i + j + 1)) ∧
   (∀ nl lam : Nat, 1 ≤ nl → lam < 2 ^ 32 →
     let c := if F32.IsNan lam then 0 else lam
     ∃ l q : Nat, floorOf c 0 ((nl : Int) - 1) l ∧ fraction c l ((nl : Int) - 1) q ∧
       let x : Nat × Nat := if q = 256 then (l + 1, 0) else (l, q)
       mipLevels 0 nl lam = [(0, 256)] ∧ mipLevels 1 nl lam = [(if x.2 < 128 then x.1 else x.1 + 1, 256)] ∧
       mipLevels 2 nl lam = if x.2 = 0 then [(x.1, 256)] else [(x.1, 256 - x.2), (x.1 + 1, x.2)]) ∧
   (∀ x y q, 0 < q → q < 256 → blendF32 [(256, x)] = F32.mul 0 0x3F800000 x ∧
     blendF32 [(256 - q, x), (q, y)] = F32.fma 0 (tenth q) y (F32.mul 0 (tenth (256 - q)) x)) ∧
   (∀ (s : State) (e : Ste) (ctx slot lam u v : Nat) (m : Sampler), e.fmt ≤ 5 →
     let r := sample s e ctx slot m lam u v
     let levels := mipLevels m.mip e.nl lam
     let bits (c l : Nat) (x y : Int) : Nat := chanBits e.fmt c
       (pixelAt s e ctx slot l (legalIndex m.addrU (e.width l) x) (legalIndex m.addrV (e.height l) y))
     r.length = 4 ∧ (channels e.fmt = 1 → r.drop 1 = [0, 0, 0x3F800000]) ∧
     ∀ c, c < channels e.fmt →
       (e.fmt = 3 ∨ e.fmt = 4 →
         let t := (levels.flatMap fun (l, wl) => (texels m.linear v (e.height l)).flatMap fun (y, wy) =>
           (texels m.linear u (e.width l)).map fun (x, wx) => wl * wy * wx * bits c l x y).sum
         (t = 0 → r.getD c 0 = 0) ∧
         (t ≠ 0 → F32.IsRound 0 (t * 2 ^ 149) (2 ^ 24 * if e.fmt = 3 then 255 else 65535) (r.getD c 0))) ∧
       (e.fmt ≠ 3 → e.fmt ≠ 4 → r.getD c 0 =
         blendF32 (levels.map fun (l, wl) => (wl, blendF32 ((texels m.linear v (e.height l)).map fun (y, wy) =>
           (wy, blendF32 ((texels m.linear u (e.width l)).map fun (x, wx) => (wx, chanF32 e.fmt (bits c l x y))))))))) ∧
   ∀ (e : Ste) (bias : Nat) (uv : Nat → Nat × Nat) (i : AluIn), e.wm1 < 65536 → e.hm1 < 65536 → (∀ k, (uv k).1 < 2 ^ 32 ∧ (uv k).2 < 2 ^ 32) →
     let a (k : Nat) : Nat := F32.mul 0 (F32.sub 0 (uv k).1 (uv 0).1) (convert 6 0 0 (e.wm1 + 1))
     let b (k : Nat) : Nat := F32.mul 0 (F32.sub 0 (uv k).2 (uv 0).2) (convert 6 0 0 (e.hm1 + 1))
     let len (k : Nat) : Nat := F32.fma 0 (a k) (a k) (F32.mul 0 (b k) (b k))
     i.rm = 0 → i.a = F32.max (len 1) (len 2) → quadLod e bias uv = F32.add 0 (F32.mul 0 (flg2Res i).d 0x3F000000) bias)

/-- BANKOP (R231, R232, R393): while the team's eight records are taken the word waits; an empty slot or level traps
SPACE_BOUND, a wrong format or pair ENGINE_FAULT; else it takes the lowest free record and issues one job for each existing
tile of its rectangle. BANKST answers a record's state, or first waits for its jobs and
frees it (R394). That the wait comes before the checks is the model's reading (log entry 46). -/
def Obligations.BankWords : Prop :=
  ∀ (f : ExtForm) (s : State) (r : Ready) (x : Nat),
    let c := s.cohort r.id
    let ctx := ctxOfCohort s c
    let slot := fld f.x.imm 7 0
    let level := fld f.x.imm 11 8
    let k := f.x.km1.toNat + 1
    let d := f.x.d.idx.toNat
    let first := opndSrc f.x.a false (f.x.pbs == 1) k
    let last := opndSrc f.x.b false (f.x.pbs == 2) k
    let ab := opndSrc f.x.c true (f.x.pbs == 3) k
    let a := { (engAcc f 1 1 2).reads [first, last, ab] with wUregs := [d], once := true }
    let team := (s.thread x).team
    let banks := (s.team team).banks
    actingThread s r.ths = some x → (alookup s.work.teams team).isSome →
    (prep s a = .go r → ∀ (i : Instr) (op : Nat),
      ((i = .bankopFill f ∧ op = 0) ∨ (i = .bankopScale f ∧ op = 1) ∨ (i = .bankopAxpby f ∧ op = 2) ∨
        (i = .bankopConvert f ∧ op = 3) ∨ (i = .bankopSumrow f ∧ op = 4) ∨ (i = .bankopDepthclear f ∧ op = 5)) →
      ((∀ n, n < 8 → n ∈ banks.map Prod.fst) → exec i s = .next (stallAt s r.id (.bankRecord team 8))) ∧
      ∀ n, n < 8 → n ∉ banks.map Prod.fst → (∀ j, j < n → j ∈ banks.map Prod.fst) →
        (surfSte s ctx slot level = none → ∃ e, exec i s = .next (takeTrap s r.id a.len .spaceBound e)) ∧
        ∀ e, surfSte s ctx slot level = some e →
          let ks := bankTiles e ctx slot level (coords (srcVal s c x first)) (coords (srcVal s c x last))
          let cause := bankCause op e (boundSte s ctx (pairedSlot slot)) ks.length
          (cause ≠ 0 → ∃ q, q.i0 = BitVec.ofNat 64 cause ∧ exec i s = .next (takeTrap s r.id a.len .engineFault q)) ∧
          (cause = 0 → ∃ t, exec i s = .next t ∧ MovedOn s t r a ∧ SameMemory s t ∧ OtherThreads s t r.ths ∧
            OtherCohorts s t r.id ∧ t.surf.tiles = s.surf.tiles ∧
            UregWrite t r.id d true (s.sched.clk + 1) (BitVec.ofNat 64 n) ∧
            alookup (t.team team).banks n = some { busy := true, jobs := ks.length } ∧
            ∃ js, t.surf.jobs = s.surf.jobs ++ js ∧ js.map Job.tile = ks ∧
              ∀ j ∈ js, j.op = op ∧ j.record = n ∧ j.team = team ∧ j.running = false)) ∧
    let wait := bitOf f.x.mod 0
    let acc := bitOf f.x.mod 1
    let b := { engAcc f 0 0 0 with
      uregs := [f.x.a.idx.toNat], wUregs := if acc then (List.range 8).map (d + ·) else [d], once := true }
    let n := (c.readUreg f.x.a.idx.toNat).toNat % 8
    let rec' := bankRec s team n
    prep s b = .go r →
      (wait = true → rec'.busy = true → rec'.jobs ≠ 0 → exec (.bankst f) s = .next (stallAt s r.id (.bankRecord team n))) ∧
      (wait = false ∨ rec'.busy = false ∨ rec'.jobs = 0 →
        ∃ t, exec (.bankst f) s = .next t ∧ MovedOn s t r b ∧ OnlyRegisters s t r ∧
          bankRec t team n = (if wait then {} else rec') ∧
          (acc = false → UregWrite t r.id d true (s.sched.clk + 1)
            (if rec'.busy then BitVec.ofNat 64 ((if rec'.jobs = 0 then 2 ^ 63 else 0) + 2 ^ 62 + rec'.jobs) else 0)) ∧
          (acc = true → ∀ j, j < 8 → UregWrite t r.id (d + j) true (s.sched.clk + 1)
            (if rec'.busy then rec'.acc.getD (2 * j + 1) 0 ++ rec'.acc.getD (2 * j) 0 else 0)))

/-- EMITV, EMITP and MESHEND (R216, R217, R396 to R399): a thread outside the mesh stage of a DRAW plan traps
ENGINE_FAULT 0x0C; threads that have arrived wait for the rasteriser; a seat, an index or a triangle count beyond its
limit traps 0x07 and a wrong pair 0x08, with no effect; else EMITV writes words of its threads' vertices, EMITP appends
triangles in seat order, and MESHEND makes its threads arrive and closes the meshlet whose team has arrived whole.
QUADRD and ATTR write each thread's own value, scoreboarded; EXPORT records its values, a target at or above NCT
recording nothing; DISCARD marks its threads; a thread outside the pixel stage of a DRAW plan traps ENGINE_FAULT 0x0C
(R396, R400 to R403). That the wait comes before the checks is the model's reading (log entries 19, 47). -/
def Obligations.DrawWords : Prop :=
  (∀ (f : ExtForm) (s : State) (r : Ready),
     let c := s.cohort r.id
     let team (x : Nat) : Nat := (s.thread x).team
     let seat (x : Nat) : Nat := (s.thread x).seat
     let first := fld f.x.mod 6 2
     let n := fld f.x.mod 1 0 + 1
     let vs := groupSrcs f.x.a n false 0
     let av := (engAcc f n 0 0).reads vs
     let p := opndSrc f.x.a false (f.x.pbs == 1) (f.x.km1.toNat + 1)
     let ap := (engAcc f 1 0 0).reads [p]
     let tri (x : Nat) : Tri :=
       let v := (srcVal s c x p).toNat
       ⟨v % 256, v / 256 % 256, v / 65536 % 256⟩
     let ae := { engAcc f 0 0 0 with uregs := [f.x.a.idx.toNat] }
     let d := (c.readUreg f.x.a.idx.toNat).toNat % 2 ^ 32
     let m := (c.readUreg f.x.a.idx.toNat).toNat / 2 ^ 32
     let outside := ∃ x ∈ r.ths.head?, (s.planOf x).draw = false ∨ (s.launchOf x).stage ≠ 0
     let waits := ∃ x ∈ r.ths, (s.thread x).meshArr = true ∨ ∃ k, (s.teamOf x).mesh = some k ∧ k.closed = true
     let pairOk (x : Nat) : Prop :=
       (∃ w, drawAt s (s.launchOf x).plan d = some w ∧ m < w.mcount) ∧
       (∀ k q, (s.teamOf x).mesh = some k → k.pair = some q → q = (d, m)) ∧
       ∀ q, (s.teamOf x).lastPair = some q → q.1 * 2 ^ 32 + q.2 < d * 2 ^ 32 + m
     r.ths.Nodup → Present s r.ths → r.ths ≠ [] →
     (∀ x ∈ r.ths, (alookup s.work.teams (team x)).isSome ∧ (s.teamOf x).launch = (s.thread x).launch ∧
       (∀ k, (s.teamOf x).mesh = some k → k.team = team x) ∧ ∀ y ∈ (s.teamOf x).threads, team y = team x) →
     (∀ i a, (i, a) ∈ [(Instr.emitv f, av), (.emitp f, ap), (.meshend f, ae)] → prep s a = .go r →
       (outside → ∃ e, e.i0 = 12 ∧ exec i s = .next (takeTrap s r.id a.len .engineFault e)) ∧
       (¬outside → waits → exec i s = .next (stallAt s r.id (.meshlet r.ths)))) ∧
     (¬outside → ¬waits →
       (prep s av = .go r → first + n ≤ 20 →
         ((∃ x ∈ r.ths, 128 ≤ seat x) → ∃ e, e.i0 = 7 ∧ exec (.emitv f) s = .next (takeTrap s r.id av.len .engineFault e)) ∧
         ((∀ x ∈ r.ths, seat x < 128) → ∃ t, exec (.emitv f) s = .next t ∧ MovedOn s t r av ∧ KeepsBytes s t r ∧
           (∀ x ∈ r.ths, (∀ y ∈ r.ths, team y = team x → seat y = seat x → y = x) → ∀ j, j < n →
             alookup (meshOf t (team x)).verts (20 * seat x + first + j) =
               some ((srcVal s c x (vs.getD j p)).setWidth 32)) ∧
           ∀ g k, (∀ x ∈ r.ths, team x = g → k < 20 * seat x + first ∨ 20 * seat x + first + n ≤ k) →
             alookup (meshOf t g).verts k = alookup (meshOf s g).verts k)) ∧
       (prep s ap = .go r →
         let fits := (∀ x ∈ r.ths, (tri x).a < 128 ∧ (tri x).b < 128 ∧ (tri x).c < 128) ∧
           ∀ x ∈ r.ths, (meshOf s (team x)).tris.length + (r.ths.filter fun y => team y = team x).length ≤ 256
         (¬fits → ∃ e, e.i0 = 7 ∧ exec (.emitp f) s = .next (takeTrap s r.id ap.len .engineFault e)) ∧
         (fits → ∃ t, exec (.emitp f) s = .next t ∧ MovedOn s t r ap ∧ KeepsBytes s t r ∧
           ∀ g, (meshOf t g).verts = (meshOf s g).verts ∧ (meshOf t g).tris = (meshOf s g).tris ++
             ((sortBy (fun x => seat x) r.ths).filter fun x => team x = g).map tri)) ∧
       (prep s ae = .go r →
         ((∃ x ∈ r.ths, ¬pairOk x) → ∃ e, e.i0 = 8 ∧ exec (.meshend f) s = .next (takeTrap s r.id ae.len .engineFault e)) ∧
         ((∀ x ∈ r.ths, pairOk x) → ∃ t, exec (.meshend f) s = .next t ∧ MovedOn s t r ae ∧ SameMemory s t ∧
           t.surf = s.surf ∧ t.cfg = s.cfg ∧ t.draw.quads = s.draw.quads ∧ OtherCohorts s t r.id ∧
           ∀ x ∈ r.ths,
             let whole := ∀ y ∈ (s.teamOf x).threads, y ∈ r.ths ∨ (s.thread y).meshArr = true ∨ y ∈ exitedOf s (team x)
             let new := ((s.launchOf x).plan, d, m) ∉ s.draw.closed ∧ ∀ w, drawAt s (s.launchOf x).plan d = some w → w.invalid = false
             (¬whole → (t.thread x).meshArr = true ∧ ∃ k, (t.team (team x)).mesh = some k ∧ k.pair = some (d, m) ∧
               k.closed = false ∧ k.verts = (meshOf s (team x)).verts ∧ k.tris = (meshOf s (team x)).tris) ∧
             (whole → (t.team (team x)).lastPair = some (d, m)) ∧
             (whole → new → (∀ y ∈ r.ths, (s.launchOf y).plan = (s.launchOf x).plan → team y = team x) →
               ∃ k, (t.team (team x)).mesh = some k ∧ k.pair = some (d, m) ∧ k.closed = true ∧
               k.verts = (meshOf s (team x)).verts ∧ k.tris = (meshOf s (team x)).tris ∧
               ((s.launchOf x).plan, d, m) ∈ t.draw.closed))))) ∧
  (∀ (f : ExtForm) (s : State) (r : Ready),
     let c := s.cohort r.id
     let d := f.x.d.idx.toNat
     let aq := { engAcc f 0 0 0 with wNames := [d] }
     let z := bitOf f.x.mod 9
     let vs := groupSrcs f.x.a (if z then 1 else 4) false 0
     let ae := (engAcc f (if z then 1 else 4) 0 0).reads vs
     let vals (x : Nat) : List Word := vs.map fun v => (srcVal s c x v).setWidth 32
     let outside := ∃ x ∈ r.ths.head?, (s.planOf x).draw = false ∨ (s.launchOf x).stage ≠ 2
     Present s r.ths → r.ths ≠ [] →
     (∀ i a, (i, a) ∈ [(Instr.quadrd f, aq), (.attr f, aq), (.exportPix f, ae), (.discard f, engAcc f 0 0 0)] → prep s a = .go r →
       (outside → ∃ e, e.i0 = 12 ∧ exec i s = .next (takeTrap s r.id a.len .engineFault e)) ∧
       (¬outside → ∃ t, exec i s = .next t ∧ MovedOn s t r a ∧ OnlyRegisters s t r)) ∧
     (¬outside →
       (prep s aq = .go r →
         (∃ t, exec (.quadrd f) s = .next t ∧ ∀ x ∈ r.ths, ∀ q, quadOf s x = some q →
           let p := pixelPos q (s.thread x).pix
           NameWrite t x d true (s.sched.clk + 1) ((match fld f.x.mod 2 0 with
             | 0 => p.1
             | 1 => p.2
             | 2 => q.cov.toNat + (if q.cov.getLsbD (s.thread x).pix ∧ (s.thread x).disc = false then 16 else 0) +
                 (if q.back then 32 else 0)
             | 3 => q.prim
             | 4 => q.d
             | 5 => q.m
             | _ => (((drawAt s q.plan q.d).bind fun w => triOf w q.verts).map fun t => t.depth p.1 p.2).getD 0) % 2 ^ 32)) ∧
         ∃ t, exec (.attr f) s = .next t ∧ ∀ x ∈ r.ths, ∀ q w t3, quadOf s x = some q → drawAt s q.plan q.d = some w →
           triOf w q.verts = some t3 →
           let p := pixelPos q (s.thread x).pix
           NameWrite t x d true (s.sched.clk + 1) ((if w.nattr ≤ fld f.x.mod 3 0 then 0
             else t3.attr q.verts (fld f.x.mod 3 0) (bitOf f.x.mod 9) p.1 p.2) % 2 ^ 32)) ∧
       (prep s ae = .go r → ∃ t, exec (.exportPix f) s = .next t ∧ ∀ x ∈ r.ths,
         let nct := (((quadOf s x).bind fun q => drawAt s q.plan q.d).map Draw.nct).getD 0
         (t.thread x).restartable = false ∧
         (t.thread x).zexp = (if z then (vals x).head? else (s.thread x).zexp) ∧
         ∀ k, alookup (t.thread x).exports k =
           if z = false ∧ k = fld f.x.mod 1 0 ∧ k < nct then some (vals x) else alookup (s.thread x).exports k) ∧
       (prep s (engAcc f 0 0 0) = .go r → ∃ t, exec (.discard f) s = .next t ∧ ∀ x ∈ r.ths,
         (t.thread x).disc = true ∧ (t.thread x).names = (s.thread x).names)))

/-- The draw pipeline (R218 to R225): a rasteriser takes the smallest closed meshlet, sends the quads of its triangles
numbered in order and one broadcast, and counts the discarded triangles; the crossbar admits a meshlet's quads in order,
smaller meshlets first; pixel launches take BATCH quads, or those that have aged, in admission order; a bank unit does
row steps first (R233), and blends the quads of a tile in their order, each pixel in turn as R226 and R227 say, on the
tiles of the draw's surfaces and no other. The free orders, a whole plan held back while it is pre-empted, and the quads
of a fenced core are the model's choices (log entries 47, 70). The depth test by its function (R226), and the blend of a
pixel (R227): a channel that the mask leaves out keeps its value; the others are the source, or the operation on source
and destination with their factors, stored as the format says. -/
def Obligations.PipelineEvents : Prop :=
  ((∀ (s : State), let u := s.sched.arg.a
     let key (m : Meshlet) : Nat := (m.pair.getD (0, 0)).1 * 2 ^ 32 + (m.pair.getD (0, 0)).2
     ((s.core u).closed = [] → exec .rasteriseMeshlet s = .next s) ∧
     ∀ m dr, m ∈ (s.core u).closed → (∀ x ∈ (s.core u).closed, x = m ∨ key m < key x) →
       drawAt s m.plan (m.pair.getD (0, 0)).1 = some dr →
       ((∃ q ∈ firstWaiting s u, admissible s q = true) → exec .rasteriseMeshlet s = .next s) ∧
       ((∀ q ∈ firstWaiting s u, admissible s q = false) →
         let ctx := (s.plan m.plan).ctx
         let w := ((boundSte s ctx dr.orderSlot).map fun e => e.width 0).getD 0
         let h := ((boundSte s ctx dr.orderSlot).map fun e => e.height 0).getD 0
         let tris := m.tris.map (setUp dr w h m)
         ∃ t qs b, exec .rasteriseMeshlet s = .next t ∧ SameMemory s t ∧ t.work.cohorts = s.work.cohorts ∧ t.surf = s.surf ∧
           t.draw.quads = s.draw.quads ++ qs ∧ t.draw.bcasts = s.draw.bcasts ++ [b] ∧
           (t.core u).closed = (s.core u).closed.erase m ∧
           (t.core u).evras.toNat = min (2 ^ 64 - 1) ((s.core u).evras.toNat + (tris.filter fun x => x.1).length) ∧
           b.plan = m.plan ∧ (b.d, b.m) = m.pair.getD (0, 0) ∧ b.arrived = [] ∧ b.marked = [] ∧
           (qs.map fun q => (q.prim, q.x, q.y, q.cov)) =
             tris.zipIdx.flatMap (fun (x, i) => x.2.2.2.map fun (px, py, cov) => (i, px, py, BitVec.ofNat 4 cov)) ∧
           (∀ q ∈ qs, q.plan = m.plan ∧ (q.d, q.m) = m.pair.getD (0, 0) ∧ q.src = u ∧ q.phase = 0 ∧
             q.tile = tileAt ctx dr.orderSlot 0 q.x q.y) ∧
           (∀ l q r, qs = l ++ q :: r → q.ordinal = (l.filter fun x => x.tile == q.tile).length) ∧
           ∀ k, ((b.counts.find? fun c => c.1 == k).map Prod.snd).getD 0 = (qs.filter fun x => x.tile == k).length)) ∧
   (∀ (s : State),
     ((∀ q ∈ s.draw.quads, q.id ≠ s.sched.arg.a) → exec .quadAdmission s = .next s) ∧
     ∀ q, (s.draw.quads.find? fun q => q.id == s.sched.arg.a) = some q →
       let turn := q ∈ firstWaiting s q.src ∧ admissible s q = true ∧
         ∀ x ∈ firstWaiting s q.src, x.seq < q.seq → admissible s x = false
       (¬turn → exec .quadAdmission s = .next s) ∧
       (turn → exec .quadAdmission s = .next { s with draw := { s.draw with quads := s.draw.quads.map fun x =>
         if x.id = q.id then { x with phase := 1, admitted := s.sched.clk, unit := homeColumn s q.tile } else x } })) ∧
   (∀ (s : State) (i : Instr), i = .pixelLaunch ∨ i = .pixelLaunchAge → let u := s.sched.arg.a
     let due (x : Nat × Stage) : Prop := x ∈ pixelPlans s u ∧
       ((i = .pixelLaunch ∧ x.2.batch ≤ (waitingQuads s u x.1).length) ∨
         (i = .pixelLaunchAge ∧ ∃ q, (waitingQuads s u x.1).head? = some q ∧ q.admitted + (s.plan x.1).age ≤ s.sched.clk))
     ((∀ x, ¬due x) → exec i s = .next s) ∧
     ((∃ x, due x) → ∃ t id l x, exec i s = .next t ∧ SameMemory s t ∧ due x ∧ alookup t.work.launches id = some l ∧
       l.plan = x.1 ∧ l.stage = 2 ∧ l.fixed = some u ∧ l.nextTeam = 0 ∧ l.total = 4 * l.quads.length ∧
       l.quads = ((waitingQuads s u x.1).take (((x.2.levels.head?.map Level.extent).getD 4) / 4)).map Quad.id ∧
       t.work.cohorts = s.work.cohorts ∧ t.work.threads = s.work.threads ∧
       t.draw.quads = s.draw.quads.map fun q => if l.quads.contains q.id then { q with phase := 2 } else q)) ∧
   (∀ (s : State), let k := s.sched.arg.tile
     ∃ t, exec .broadcastArrival s = .next t ∧ t.work = s.work ∧ t.mem = s.mem ∧ t.surf = s.surf ∧ t.draw.quads = s.draw.quads ∧
       t.draw.bcasts.length = s.draw.bcasts.length ∧
       ∀ (i : Nat) (b : Broadcast), s.draw.bcasts[i]? = some b → ∃ c : Broadcast, t.draw.bcasts[i]? = some c ∧
         (b.id ≠ s.sched.arg.a → c = b) ∧
         (b.id = s.sched.arg.a → k ∈ c.arrived ∧ (b.inside k = true → allSent s b.plan b.d b.m = true → k ∈ c.marked) ∧
           ∀ q, q ≠ k → (q ∈ c.arrived ↔ q ∈ b.arrived) ∧ (q ∈ c.marked ↔ q ∈ b.marked))) ∧
   ∀ (s : State), let k := s.sched.arg.tile
     let rival (q : Quad) : Prop := q ∈ blendable s ∧ q.tile.ctx = k.ctx ∧ bankOf s q.tile = bankOf s k
     ((∀ q, ¬rival q) → exec .quadBlend s = .next s) ∧
     ∀ q, rival q → (∀ x, rival x → x = q ∨ Quad.order s q < Quad.order s x) →
       (q.tile ≠ k → exec .quadBlend s = .next s) ∧
       ∀ d, q.tile = k → drawAt s q.plan q.d = some d →
         let keys := quadTiles d k
         let rows := ∃ j ∈ s.surf.jobs, bankOf s j.tile = bankOf s k ∧ rowReady s j = true
         (rows → exec .quadBlend s = .next s) ∧
         (¬rows → servable s q.id keys = false → exec .quadBlend s = .next (enqueueTiles s q.id keys)) ∧
         (¬rows → servable s q.id keys = true → s.surf.reqs = [] →
           ∃ t, exec .quadBlend s = .next t ∧ SameMemory s t ∧ t.work = s.work ∧
             t.draw.quads = s.draw.quads.filter (fun x => x.id != q.id) ∧
             (⟨q.plan, k, q.d, q.m, q.ordinal + 1⟩ : Cursor) ∈ t.draw.cursors ∧
             (∀ x, x.tile ≠ k ∨ x.plan ≠ q.plan → (x ∈ t.draw.cursors ↔ x ∈ s.draw.cursors)) ∧
             (∀ x, (∀ p ∈ q.pixels, ∀ u ∈ d.uses, x ≠ tileAt k.ctx u.1 0 (pixelPos q p.1).1 (pixelPos q p.1).2) →
               (tileOf t x).bytes = (tileOf s x).bytes) ∧
             (∀ x, (tileOf t x).bytes = (tileOf (q.pixels.foldl (blendOne q d) s) x).bytes) ∧
             ∀ pix zx exps, q.pixels = [(pix, zx, exps)] →
               let p := pixelPos q pix
               let z := (zx.map BitVec.toNat).getD (quadDepth s q pix)
               let de := if d.den then boundSte s k.ctx d.dslot else none
               let pass := ∀ e, de = some e → depthPass d.dfunc z (leNat (pixelAt s e k.ctx d.dslot 0 p.1 p.2)) = true
               (¬pass → ∀ x, (tileOf t x).bytes = (tileOf s x).bytes) ∧
               (∀ e, pass → de = some e → e.fmt = 5 → e.inside 0 p.1 p.2 = true → (∀ i, i < d.nct → d.ct[i]? ≠ some d.dslot) →
                 (tileOf s (tileAt k.ctx d.dslot 0 p.1 p.2)).bytes.length = tileLen 5 →
                 pixelAt t e k.ctx d.dslot 0 p.1 p.2 =
                   if d.dwrite then leBytes 4 z else pixelAt s e k.ctx d.dslot 0 p.1 p.2) ∧
               ∀ i slot e b, pass → i < d.nct → d.ct[i]? = some slot → (∀ j, j < d.nct → d.ct[j]? = some slot → j = i) →
                 (d.den = true → slot ≠ d.dslot) → boundSte s k.ctx slot = some e → d.blend[i]? = some b → e.fmt ≤ 4 →
                 e.inside 0 p.1 p.2 = true → (tileOf s (tileAt k.ctx slot 0 p.1 p.2)).bytes.length = tileLen e.fmt →
                 pixelAt t e k.ctx slot 0 p.1 p.2 = match alookup exps i with
                   | some v => blendPixel e.fmt b (d.k.map BitVec.toNat) (v.map BitVec.toNat) (pixelAt s e k.ctx slot 0 p.1 p.2)
                   | none => pixelAt s e k.ctx slot 0 p.1 p.2)) ∧
  ((∀ z s : Nat, z < 2 ^ 32 → s < 2 ^ 32 →
     let bad := F32.IsNan z ∨ F32.IsNan s
     let u := F32.units
     depthPass 0 z s = false ∧ depthPass 7 z s = true ∧ (depthPass 1 z s = true ↔ ¬bad ∧ u z < u s) ∧
     (depthPass 2 z s = true ↔ ¬bad ∧ u z = u s) ∧ (depthPass 3 z s = true ↔ ¬bad ∧ u z ≤ u s) ∧
     (depthPass 4 z s = true ↔ ¬bad ∧ u s < u z) ∧ (depthPass 5 z s = true ↔ bad ∨ u z ≠ u s) ∧
     (depthPass 6 z s = true ↔ ¬bad ∧ u s ≤ u z)) ∧
   ∀ (fmt c : Nat) (b : Blend) (k src : List Nat) (old : List Byte), fmt ≤ 4 → old.length = bpp fmt → c < channels fmt →
     k.length = 4 → src.length = 4 →
     let g (l : List Nat) (i : Nat) : Nat := l.getD i 0
     let dst := pixelF32 fmt old
     let sc := src.map fun v => if fmt = 3 ∨ fmt = 4 then F32.min (F32.max v 0) 0x3F800000 else v
     let less (v : Nat) : Nat := F32.sub 0 0x3F800000 v
     let factors := [0, 0x3F800000, g sc c, less (g sc c), g dst c, less (g dst c), g sc 3, less (g sc 3), g dst 3, less (g dst 3),
       g k c, less (g k c), g k 3, less (g k 3), if c = 3 then 0x3F800000 else F32.min (g sc 3) (less (g dst 3))]
     let op := if c = 3 then b.opa else b.opc
     let fs := factors.getD (if c = 3 then b.srca else b.srcc) 0
     let fd := factors.getD (if c = 3 then b.dsta else b.dstc) 0
     let neg (v : Nat) : Nat := v ^^^ 2 ^ 31
     let s := g sc c
     let d := g dst c
     let r := if b.ben = false then s else
       [F32.fma 0 s fs (F32.mul 0 d fd), F32.fma 0 s fs (neg (F32.mul 0 d fd)), F32.fma 0 d fd (neg (F32.mul 0 s fs)),
         F32.min s d, F32.max s d].getD op 0
     let new := blendPixel fmt b k src old
     new.length = bpp fmt ∧ (b.wmask.getLsbD c = false → chanBits fmt c new = chanBits fmt c old) ∧
     ((if c = 3 then b.srca < 15 ∧ b.dsta < 15 else b.srcc < 15 ∧ b.dstc < 15) → op ≤ 4 → b.wmask.getLsbD c = true →
       chanBits fmt c new = chanOfF32 fmt r % 256 ^ chanBytes fmt))

/-- A write of the configuration space as an event: a refused one changes nothing, an accepted one reads back as it was
written (R312, R313); a proctor writes only what it reaches; a completion counter never falls (R312), a held hall pass stays
(R189), quotas stay within the store and above the charge (R101), fields that are deferred take a pending value (R314) and get it
at a context boundary (R147, R314), once the spill slots that it writes can be accessed (R171, R178), a bell's generation written releases those that waited for an earlier one (R313), a fence
of 0 is ignored (R427); the selection and the resume PC of a debug window are written in place (R413). The pass that a range is
judged by, and the waiters that a written generation releases, are the model's readings (log entries 27, 50). -/
def Obligations.ConfigurationEvents : Prop :=
  (∀ (s t : State) (who addr : Nat) (v : DWord), cfgWrite s who addr v.toNat = some t →
    (cfgUnit addr ∉ [CfgUnit.none, .bellGen, .fence] → cfgRead t who addr = some v) ∧
    addr % 8 = 0 ∧
    (who ≠ 32 → 0x100000 ≤ addr ∧ addr < 0x200000 ∧ (addr - 0x100000) / 0x1000 / 8 = who)) ∧
  (∀ (s : State) (i : Instr) (kinds : List CfgUnit),
    let w := s.sched.arg.cfg
    let a := w.addr.toNat
    (i, kinds) ∈ [(Instr.configWrite, [CfgUnit.core, .ctx]), (.hallPassEntryWrite, [.pass]), (.blTargetWrite, [.bellTarget]),
      (.blGenWrite, [.bellGen]), (.completionCounterWrite, [.counter]), (.ccQuotaWrite, [.quota]),
      (.deferredFieldWrite, [.deferred]), (.errorCounterClear, [.errors]), (.ccFenceWrite, [.fence])] →
    (cfgUnit a ∉ kinds ∨ cfgWrite s w.who a w.value.toNat = none → exec i s = .next s) ∧
    ∀ t, cfgUnit a ∈ kinds → cfgWrite s w.who a w.value.toNat = some t → exec i s = .next t) ∧
  (∀ (s : State) (n : Nat) (v : Nat), n < 4096 → v < 2 ^ 64 →
    (cfgWrite s 32 (0x10000 + 8 * n) v = none ↔ v < (counterAt s n).toNat)) ∧
  (∀ (s : State) (n o who v : Nat), n < 1024 → o = 0 ∨ o = 8 → (passAt s n).holder ≠ none → cfgWrite s who (16 * n + o) v = none) ∧
  (∀ (s : State) (who core x v : Nat), core < 256 → x < 16 →
    ((cfgWrite s who (0x100000 + 0x1000 * core + 0x40 + 8 * x) v).isSome ↔
      (who = 32 ∨ who = core / 8) ∧ v ≤ 64 ∧ chargeOf (s.core core) x ≤ v ∧
      ((List.range 16).map fun i => if i = x then v else quotaOf (s.core core) i).sum ≤ 64)) ∧
  (∀ (s : State) (v : Nat), v < 2 → cfgWrite s 32 0x8000 v = some { s with cfg := { s.cfg with privP := v == 1, deferred := true } }) ∧
  (∀ (s t : State) (x v : Nat), x < 16 → cfgWrite s 32 (0x200000 + 0x100 * x) v = some t →
    v < 8 ∧ t.cfg.deferred = true ∧ ctxOf t x = { ctxOf s x with stepsP := BitVec.ofNat 3 v } ∧
    ∀ y, y ≠ x → ctxOf t y = ctxOf s y) ∧
  (∀ (s : State) (who core : Nat), core < 256 → who = 32 ∨ who = core / 8 →
    cfgWrite s who (0x100120 + 0x1000 * core) 0 = some s ∧
    cfgWrite s who (0x100120 + 0x1000 * core) 1 = some (fenceColumn s core)) ∧
  (∀ (s t : State) (n v : Nat), n < 64 → cfgWrite s 32 (0x4008 + 16 * n) v = some t →
    (bellAt t n).gen.toNat = v ∧ (bellAt t n).opened = v ∧ (bellAt t n).target = (bellAt s n).target ∧
    (bellAt t n).count = (bellAt s n).count ∧
    (∀ id, (∀ ths, (s.cohort id).wait ≠ .bell n ths) → t.cohort? id = s.cohort? id) ∧
    ∀ id ths, (s.cohort id).wait = .bell n ths →
      ((∀ x ∈ ths, ∀ g, alookup (s.thread x).bells n = some g → g < v) → (t.cohort id).wait = .none) ∧
      ((∃ x ∈ ths, ∃ g, alookup (s.thread x).bells n = some g ∧ v ≤ g) → (t.cohort id).wait ≠ .none)) ∧
  (∀ (s : State),
    let ready := s.cfg.deferred = true ∧ (∀ p ∈ s.work.plans, p.2.begun = true → p.2.done = true) ∧
      s.mem.copies = [] ∧ s.mem.stages = []
    let asked := takeTurn s .boundary (s.surf.bound.flatMap fun x => unbindSpans s (x.1 / 256) (x.1 % 256))
    (¬ready → exec .contextBoundary s = .next s) ∧
    (ready → asked.1 = false → exec .contextBoundary s = .next asked.2) ∧
    (ready → asked.1 = true → ∃ t, exec .contextBoundary s = .next t ∧ t.cfg.deferred = false ∧ t.surf.bound = [] ∧ t.mem.l2 = [] ∧
      ((∀ e ∈ s.surf.bound, e.2.keep = false) → SameMemory s t ∧ t.surf.tiles = s.surf.tiles.filter fun k =>
        !s.surf.bound.any fun e => e.1 / 256 == k.key.ctx && e.1 % 256 == k.key.slot) ∧
      (∀ x, t.thread x = s.thread x) ∧ (∀ x, t.cohort? x = s.cohort? x) ∧
      (∀ x c, alookup s.cfg.ctxs x = some c → alookup t.cfg.ctxs x = some { c with steps := c.stepsP, ways := c.waysP }) ∧
      t.cfg.priv = (s.cfg.privP && decide (((List.range 16).map fun i => (ctxOf s i).waysP.toNat).sum = 16)))) ∧
  ∀ (s : State),
    let core := s.sched.arg.a
    let v := s.sched.arg.value
    (v.toNat / 2 ^ 16 % 256 ≠ core → exec .dwSelWrite s = .next s) ∧
    (v.toNat / 2 ^ 16 % 256 = core → exec .dwSelWrite s = .next (s.modCore core fun k => { k with dwsel := v })) ∧
    (handleCohort s (s.core core).dwsel = none → exec .dwRpcWrite s = .next s) ∧
    ∀ id, handleCohort s (s.core core).dwsel = some id →
      exec .dwRpcWrite s = .next (s.modCohort id fun c =>
        { c with stop := c.stop.map fun st => { st with rpc := v.setWidth 32 } })

/-- Which cohort a partition selects (R38): the current one while it has issued on fewer than 256 cycles, else the oldest that
bears no cap mark, else the oldest, with the marks cleared. ISSUE_CAP marks the current cohort after 256 cycles; a passback
wait ends once its values are published (R52); the results of a scoreboarded word are written when they arrive (R256); a bin
ages once its oldest thread has waited AGE cycles (R44); formation draws threads of distinct home lanes, of each lane the one
of the lowest number, four cycles before they may issue (R45), and a launch cohort that waits for a context comes first
(R435); a wait longer than AGE files its threads where a bin takes them, held until the barrier generation that each has recorded
completes, or the tag is set (R41). Which wait files with which PC, a barrier's late
threads, and how long one is held that does not itself wait, are the model's choices (log entries 19, 60). -/
def Obligations.CohortEvents : Prop :=
  (∀ (s s1 : State) (slot id : Nat), select s slot = some (id, s1) →
    let may (x : Nat × Cohort) : Prop := x ∈ s.work.cohorts ∧ x.2.slot = slot ∧ mayTry s x.2 = true
    let cur (x : Nat × Cohort) : Prop := alookup (s.core (slot / 4)).current (slot % 4) = some x.1 ∧ x.2.issued < 256 ∧ x.2.capMark = false
    ∃ c, may (id, c) ∧
      ((∃ x, may x ∧ cur x) → cur (id, c) ∧ s1 = s) ∧
      ((¬∃ x, may x ∧ cur x) → (∃ x, may x ∧ x.2.capMark = false) →
        s1 = s ∧ c.capMark = false ∧ ∀ x, may x → x.2.capMark = false → c.stamp ≤ x.2.stamp) ∧
      ((∀ x, may x → x.2.capMark = true) → (∀ x, may x → c.stamp ≤ x.2.stamp) ∧
        ∀ x ∈ s1.work.cohorts, x.2.slot = slot → x.2.capMark = false)) ∧
  (∀ (s : State) (c : Cohort), let id := s.sched.arg.a
    s.cohort? id = some c →
    (256 ≤ c.issued → alookup (s.core c.unit).current c.part = some id →
      exec .issueCap s = .next (s.modCohort id fun c => { c with capMark := true })) ∧
    (c.issued < 256 ∨ alookup (s.core c.unit).current c.part ≠ some id →
      ∃ t, exec .issueCap s = .next t ∧ ∀ k, t.cohort? k = s.cohort? k)) ∧
  (∀ (s : State) (n k w x : Nat), unpublished s n k w x = true ↔ k ≤ (s.thread x).lin ∧ ∃ m ∈ backNames n w,
    ∀ e ∈ s.work.notes, ¬(e.launch = (s.thread x).launch ∧ e.lin = (s.thread x).lin - k ∧ e.name = m)) ∧
  (∀ (s : State) (c : Cohort) (n k w tr : Nat) (ths : List Nat), let id := s.sched.arg.a
    s.cohort? id = some c → c.wait = .stall (.passback n k w ths) tr →
    ((∀ x ∈ ths, unpublished s n k w x = false) →
      exec .passbackPublished s = .next (s.modCohort id fun c => { c with wait := .none })) ∧
    ((∃ x ∈ ths, unpublished s n k w x = true) →
      ∃ t, exec .passbackPublished s = .next t ∧ ∀ k, t.cohort? k = s.cohort? k)) ∧
  (∀ (s : State),
    let f (p : Pend) : Bool := p.id == s.sched.arg.b && p.var && !p.held && decide (p.due ≤ s.sched.clk)
    ∃ t, exec .variableLatencyResult s = .next t ∧ SameMemory s t ∧ (∀ id, t.cohort id = (s.cohort id).settle f) ∧
      ∀ x, t.thread x = (s.thread x).settle f ∧
        ∀ p n, (s.thread x).writes = [p] → f p = true → p.tgt = .name n → p.release = false → (alookup s.work.threads x).isSome →
          (t.thread x).writes = [] ∧ (t.thread x).readName n = p.val.setWidth 32 ∧
          ∀ m, m ≠ n → (t.thread x).readName m = (s.thread x).readName m) ∧
  (∀ (s : State) (b : Bin), let u := s.sched.arg.a
    let n := s.sched.arg.b
    alookup (s.core u).bins n = some b →
    ∃ t, exec .binAging s = .next t ∧ t.work = s.work ∧ SameMemory s t ∧
      alookup (t.core u).bins n = some { b with aged := decide (oldest b.threads + ageOf s b ≤ s.sched.clk) } ∧
      ∀ m, m ≠ n → alookup (t.core u).bins m = alookup (s.core u).bins m) ∧
  (∀ (s : State), let u := s.sched.arg.a
    let p := s.sched.arg.b
    let stamp := (alookup (s.core u).stamps p).getD 0
    (freeCtx s u p = none → exec .cohortFormation s = .next s) ∧
    ∀ ctx, freeCtx s u p = some ctx →
      (∀ i l pc, waitingLcoh s u p = some (i, l, pc) →
        ∃ t id, exec .cohortFormation s = .next t ∧ SameMemory s t ∧ (t.cohort id).pc = pc ∧
          (t.cohort id).active = byLane s l.threads ∧ (t.cohort id).ctx = ctx ∧ (t.cohort id).stamp = stamp ∧
          (t.cohort id).nextIssue = s.sched.clk ∧ (t.cohort id).uregs = [] ∧
          ∀ x ∈ l.threads, (alookup s.work.threads x).isSome → (t.thread x).place = .cohort id) ∧
      (waitingLcoh s u p = none → (∃ x ∈ cohortsIn s u p, recallable s x.2 = true) → exec .cohortFormation s = .next s) ∧
      (waitingLcoh s u p = none → (∀ x ∈ cohortsIn s u p, recallable s x.2 = false) → formationBin s u p = none →
        exec .cohortFormation s = .next s) ∧
      ∀ n b, waitingLcoh s u p = none → (∀ x ∈ cohortsIn s u p, recallable s x.2 = false) → formationBin s u p = some (n, b) →
        let d := drawable s u p b
        ∃ t id, exec .cohortFormation s = .next t ∧ SameMemory s t ∧ (t.cohort id).unit = u ∧ (t.cohort id).part = p ∧
          (t.cohort id).pc = b.pc ∧ (t.cohort id).launch = b.launch ∧ (t.cohort id).ctx = ctx ∧ (t.cohort id).stamp = stamp ∧
          (t.cohort id).nextIssue = s.sched.clk + 4 ∧ (t.cohort id).wait = .none ∧
          (t.cohort id).active.length ≤ 32 ∧ (((t.cohort id).active).map fun x => (s.thread x).lane).Nodup ∧
          (∀ x ∈ (t.cohort id).active, ∃ f ∈ d, f.thread = x ∧
            ∀ g ∈ d, (s.thread g.thread).lane = (s.thread x).lane → (s.thread x).lin ≤ (s.thread g.thread).lin) ∧
          ((lanesOf s d).length ≤ 32 → ∀ g ∈ d, ∃ x ∈ (t.cohort id).active, (s.thread x).lane = (s.thread g.thread).lane) ∧
          (∀ x ∈ (t.cohort id).active, (alookup s.work.threads x).isSome → (t.thread x).place = .cohort id) ∧
          ∀ b1, alookup (t.core u).bins n = some b1 → ∀ f ∈ b1.threads, f ∈ b.threads ∧ f.thread ∉ (t.cohort id).active) ∧
  (∀ (s : State) (u : Nat) (f : Filed),
    (condHolds s u .barrier f = true ↔ ∀ g ∈ f.gens, g.2 < (s.team g.1).barGen) ∧
    (∀ n k w, condHolds s u (.passback n k w) f = true ↔ unpublished s n k w f.thread = false)) ∧
  ∀ (s : State) (c : Cohort) (pc : Word) (cond : BinCond) (fs : List Filed), let id := s.sched.arg.a
    s.cohort? id = some c → filingOf s c = some (pc, cond, fs) →
    fs.map Filed.thread = c.active ∧ (∀ f ∈ fs, f.time = s.sched.clk) ∧
    (∀ late wait ths, c.wait = .barrier late wait ths → pc = c.pc ∧ cond = .barrier ∧ ∀ f ∈ fs,
      let tm := (s.thread f.thread).team
      f.late = late.contains f.thread ∧
      (f.thread ∈ late → f.gens = [(tm, (s.team tm).barGen + wait.toNat)]) ∧
      ∀ g, f.thread ∉ late → wait = true → f.thread ∈ ths → (s.thread f.thread).barRec = some g → f.gens = [(tm, g)]) ∧
    (∀ any m pd d ths tr, c.wait = .stall (.tag any m pd d ths) tr → pc = pcAdd c.pc 3 ∧ cond = .tag any m pd d ∧
      ∀ f ∈ fs, f.waits = ths.contains f.thread) ∧
    (s.sched.clk ≤ c.waitSince + (s.planC c).age ∨ c.stop ≠ none ∨ c.cloak ≠ .no ∨ binsInUse s c.unit = false →
      exec .waitAgeFiling s = .next s) ∧
    (c.waitSince + (s.planC c).age < s.sched.clk → c.stop = none → c.cloak = .no → binsInUse s c.unit = true →
      (∃ n, n < 64 ∧ n ∉ (s.core c.unit).bins.map Prod.fst) → (∀ x ∈ c.active, (alookup s.work.threads x).isSome) →
      ∃ t n b, exec .waitAgeFiling s = .next t ∧ SameMemory s t ∧ alookup (t.core c.unit).bins n = some b ∧
        b.launch = c.launch ∧ b.pc = pc ∧ b.cond = cond ∧ (∀ f ∈ fs, f ∈ b.threads) ∧
        (∀ x ∈ c.active, (t.thread x).place = .bin c.unit n) ∧
        (c.groups = [] → t.cohort? id = none))

/-- Cloaking and recall (R76 to R80): a cloaking takes 16 cycles and half a cycle for each name with a physical row, and a
recall 16 and a quarter of one for each row; a cloaked cohort and its threads keep every value, hold no physical row and no
context; a partition cloaks only while every cohort in its contexts is blocked and one waits for a row; a cohort waits for rows in
each bank that has fewer free rows than its word needs there (R73); a recall takes a context
and rows, the oldest cohort first, and a cohort that the debug window has given a cloak row meanwhile is recalled again (R88); filed threads return to physical rows before formation draws them. The rows taken and the
corners of a wait are the model's choices (log entry 31). -/
def Obligations.Cloakroom : Prop :=
  (∀ (s : State), let u := s.sched.arg.a
    let p := s.sched.arg.b
    (cloakingNow s u p = true → exec .cloak s = .next s) ∧
    (cloakingNow s u p = false → ∀ id w c, cloakChoice s u p = some (id, w) → s.cohort? id = some c →
      (∀ x ∈ cohortsIn s u p, x.2.cloak.out = none → x.2.cloak = .no ∧ blocked s x.2 = true) ∧
      (∃ x ∈ cohortsIn s u p, x.2.cloak = .no ∧ growBanks s x.2 ≠ []) ∧
      ∃ n, (∀ k, (∃ x ∈ c.members, ∃ e ∈ (s.thread x).names, e.1 = k ∧ e.2.row < 2048) ↔
          k ∈ (physRowsOf s c.members).map Prod.snd) ∧
        n = (distinct ((physRowsOf s c.members).map Prod.snd)).length ∧
        ∃ t, exec .cloak s = .next t ∧ t.cohort id = { c with cloak := .cloaking (s.sched.clk + 16 + (n + 1) / 2) w } ∧
          t.work.threads = s.work.threads ∧ SameMemory s t ∧ OtherCohorts s t id) ∧
    (cloakingNow s u p = false → cloakChoice s u p = none → binChoice s u p = none → exec .cloak s = .next s)) ∧
  (∀ (s : State) (c : Cohort), let id := s.sched.arg.a
    let cs := cohortsIn s c.unit c.part
    let due := c.stop = none ∧ c.cloak = .no ∧ c.priv = false ∧ longWait s c = true ∧
      c.waitSince + 2 * (s.planC c).age < s.sched.clk ∧ cloakingNow s c.unit c.part = false ∧
      ((∃ x ∈ cs, growBanks s x.2 ≠ []) ∨ (∃ x ∈ cs, recallable s x.2 = true) ∨ (formationBin s c.unit c.part).isSome)
    s.cohort? id = some c →
    (¬due → exec .longWaitCloak s = .next s) ∧
    (due → ∃ t n, exec .longWaitCloak s = .next t ∧ t.work.threads = s.work.threads ∧ SameMemory s t ∧ OtherCohorts s t id ∧
      t.cohort id = { c with cloak := .cloaking n true } ∧ s.sched.clk + 16 ≤ n)) ∧
  (∀ (s : State) (c : Cohort) (due : Nat) (w : Bool), let id := s.sched.arg.a
    s.cohort? id = some c → c.cloak = .cloaking due w →
    (s.sched.clk < due → exec .cloakDone s = .next s) ∧
    (due ≤ s.sched.clk → ∃ t, exec .cloakDone s = .next t ∧ SameMemory s t ∧ OtherCohorts s t id ∧
      t.cohort id = { c with cloak := .cloaked w } ∧
      alookup (t.core c.unit).current c.part ≠ some id ∧
      (∀ x n, (t.thread x).readName n = (s.thread x).readName n) ∧ (∀ x, (t.thread x).preds = (s.thread x).preds) ∧
      (cloakRowsUsed s c.unit c.part = [] → (∀ x ∈ c.members, ∀ e ∈ (s.thread x).names, e.1 < 1024) →
        ∀ x ∈ c.members, ∀ e ∈ (t.thread x).names, 2048 ≤ e.2.row))) ∧
  (∀ (s : State), let u := s.sched.arg.a
    let p := s.sched.arg.b
    (freeCtx s u p = none ∨ (waitingLcoh s u p).isSome ∨ (∀ x ∈ cohortsIn s u p, recallable s x.2 = false) →
      exec .recall s = .next s) ∧
    ∀ ctx, freeCtx s u p = some ctx → waitingLcoh s u p = none → (∃ x ∈ cohortsIn s u p, recallable s x.2 = true) →
      Rising s.work.cohorts →
      ∃ t id c, exec .recall s = .next t ∧ (id, c) ∈ cohortsIn s u p ∧ recallable s c = true ∧
        (∀ x ∈ cohortsIn s u p, recallable s x.2 = true → c.stamp ≤ x.2.stamp) ∧ SameMemory s t ∧ OtherCohorts s t id ∧
        t.cohort id = { c with ctx := ctx, cloak := .recalling (s.sched.clk + 16 + ((cloakRowsOf s c.members).length + 3) / 4) } ∧
        (∀ x n, (t.thread x).readName n = (s.thread x).readName n) ∧
        ∀ x ∈ c.members, ∀ e ∈ (t.thread x).names, e.2.row < 2048) ∧
  (∀ (s : State) (c : Cohort) (due : Nat), let id := s.sched.arg.a
    s.cohort? id = some c → c.cloak = .recalling due →
    ∃ t, exec .recallDone s = .next t ∧ t.work.threads = s.work.threads ∧ SameMemory s t ∧ OtherCohorts s t id ∧
      (s.sched.clk < due → t.cohort id = c) ∧
      (due ≤ s.sched.clk → (∀ x ∈ c.members, ∀ e ∈ (s.thread x).names, e.2.row < 2048) → t.cohort id = { c with cloak := .no }) ∧
      (due ≤ s.sched.clk → (∃ x ∈ c.members, ∃ e ∈ (s.thread x).names, 2048 ≤ e.2.row) →
        t.cohort id = { c with cloak := .cloaked false })) ∧
  (∀ (s : State) (c : Cohort) (b : Nat), b ∈ growBanks s c ↔ c.stop = none ∧ ∃ bs tr, c.wait = .stall (.grow bs) tr ∧ b ∈ bs ∧
    rowsFit (rowsUsed s c.unit c.part) (bs.filter (· == b)) = false) ∧
  ∀ (s : State), let u := s.sched.arg.a
    ∃ t, exec .binUncloak s = .next t ∧ SameMemory s t ∧ t.work.cohorts = s.work.cohorts ∧
      (∀ x n, (t.thread x).readName n = (s.thread x).readName n) ∧
      (alookup (s.core u).bins s.sched.arg.b = none → t = s) ∧
      ∀ b f, alookup (s.core u).bins s.sched.arg.b = some b → b.threads = [f] → (s.thread f.thread).part < 4 →
        condHolds s u b.cond f = true →
        let x := f.thread
        ((uncloakThreads s u (s.thread x).part [x]).isSome → allPhysical t x = true) ∧
        (uncloakThreads s u (s.thread x).part [x] = none → t.thread x = s.thread x)

/-- The ends of operations that go on behind their word: a linear copy within a window moves its bytes and completes its tag
(R365, R369, R370), a staged command of the copy's team enters the queue once its copy has landed and there is room, and is
discarded where the copy has failed, or where it then does not fit its half (R211), a stage request completes its tag, requests to flash in issue order (R168, R169), a segment leaves
transition (R178), a bell generation's waiters are released (R198), a load ends with a status, resident just when its digest
is that of its table entry (R93), and a held record enters the fault queue once there is a place (R411). An access of one of
these to a segment in transition waits, and so does what the hub has to do there (R178); it waits too for the wake of a power
domain (R171). How a move of a copy reads and writes is stated of each kind (R163, R369), of elements of whole bytes in one page.
The moments at which they read and write, within what R194 and R93 allow, and the
record of a discarded command are the model's choices (log entries 25, 29, 71). -/
def Obligations.CompletionEvents : Prop :=
  (∀ (s : State), (s.mem.copies.find? fun c => c.id == s.sched.arg.a) = none →
    exec .copyComplete s = .next s ∧ exec .stagedCommandEntry s = .next s) ∧
  (∀ (s : State) (c : Copy) (b : Nat),
    let size := (s.plan (s.launch (s.team c.team).launch).plan).spwin * 1024
    let old := tagAt s c.unit c.tag
    (s.mem.copies.find? fun c => c.id == s.sched.arg.a) = some c →
    (c.squashed = true → exec .copyComplete s = .next s ∧ exec .stagedCommandEntry s = .next s) ∧
    (c.squashed = false → c.failed = false → c.await = none → c.lay = none → c.ssp = true → c.dsp = true → c.slot = none →
      c.done = 0 → c.bad = [] → alookup (s.team c.team).windows c.unit = some b → c.a + c.len ≤ size → c.b + c.len ≤ size →
      c.a + c.len ≤ c.b ∨ c.b + c.len ≤ c.a →
      ∃ t, exec .copyComplete s = .next t ∧ t.mem.gddr = s.mem.gddr ∧ t.mem.flash = s.mem.flash ∧ t.work = s.work ∧
        (∀ j, j < c.len → (t.core c.unit).scratch.get (b + c.b + j) = (s.core c.unit).scratch.get (b + c.a + j)) ∧
        (∀ u a, u ≠ c.unit ∨ a < b + c.b ∨ b + c.b + c.len ≤ a → (t.core u).scratch.get a = (s.core u).scratch.get a) ∧
        t.mem.copies = s.mem.copies.filter (fun x => x.id != c.id) ∧
        tagAt t c.unit c.tag = ⟨old.count - 1, old.done || decide (old.count ≤ 1), old.err || c.err⟩) ∧
    (∀ t c1, c.squashed = false → c.failed = false → c.await = none → c.done < copySize c → copyStep s c = .go t c1 →
      c1.id = c.id → c1.slot = none → c1.failed = false → c1.await = none → copySize c1 ≤ c1.done →
      let was := tagAt t c1.unit c1.tag
      ∃ t2, exec .copyComplete s = .next t2 ∧ SameMemory t t2 ∧ (∀ x ∈ t2.mem.copies, x.id ≠ c.id) ∧
        tagAt t2 c1.unit c1.tag = ⟨was.count - 1, was.done || decide (was.count ≤ 1), was.err || c1.err⟩) ∧
    ∀ n m, c.squashed = false → c.landed = true → c.slot = some n →
      alookup (s.core c.unit).mx.slots n = some (.occupied m) →
      let room := (mxWaiting (s.core c.unit).mx).length < 16
      let lost := c.failed = true ∨ c.err = true
      let bad := lost ∨ room ∧ m.op = 1 ∧ ∀ g, alookup (s.core c.unit).mx.issued m.half = some g → mxFits m.fmt g = false
      (m.team ≠ c.team → ∃ t, exec .stagedCommandEntry s = .next t ∧ SameMemory s t ∧
        (t.core c.unit).mx = (s.core c.unit).mx ∧ t.mem.copies = s.mem.copies.filter (fun x => x.id != c.id)) ∧
      (m.team = c.team → bad → ∃ t, exec .stagedCommandEntry s = .next t ∧ SameMemory s t ∧
        t.work.threads = s.work.threads ∧ (lost → t.work = s.work) ∧
        t.mem.copies = s.mem.copies.filter (fun x => x.id != c.id) ∧
        alookup (t.core c.unit).mx.slots n = some .empty ∧ (t.core c.unit).mx.queue = (s.core c.unit).mx.queue ∧
        tagAt t c.unit c.tag = ⟨old.count - 1, old.done || decide (old.count ≤ 1), true⟩) ∧
      (m.team = c.team → ¬lost → ¬room → exec .stagedCommandEntry s = .next s) ∧
      (m.team = c.team → ¬bad → room →
        ∃ t k, exec .stagedCommandEntry s = .next t ∧ SameMemory s t ∧ t.work = s.work ∧
          t.mem.copies = s.mem.copies.filter (fun x => x.id != c.id) ∧
          alookup (t.core c.unit).mx.slots n = some .empty ∧
          (t.core c.unit).mx.queue = (s.core c.unit).mx.queue ++ [{ m with id := k }] ∧
          tagAt t c.unit c.tag = ⟨old.count - 1, old.done || decide (old.count ≤ 1), old.err⟩)) ∧
  (∀ (s : State) (c : Copy) (w : Nat),
    let size := (s.plan (s.launch (s.team c.team).launch).plan).spwin * 1024
    let e := c.done
    let n := linPiece c
    let page (va pa lev x : Nat) : Prop := va < 2 ^ 52 ∧ (ctxOf s c.ctx).xlen = true ∧ EntryAt s c.ctx va lev x ∧ IsLeaf lev x ∧
      TlbAgrees s c.unit c.ctx va lev x ∧ nfld x 6 6 = 0 ∧ pa = leafTarget lev x va
    let gddr (va pa : Nat) (write : Bool) : Prop := ∃ lev x, page va pa lev x ∧ nfld x 5 4 = 0 ∧ (write = true → nfld x 1 1 = 1) ∧
      passOver s (pa / 4096) = none ∧ ∀ q ∈ (segAt s (pa / 4096)).holders, q.1 = c.unit
    let flash (va fa : Nat) : Prop := ∃ lev x, page va fa lev x ∧ nfld x 5 5 = 1
    let inWindow (off k : Nat) (v : Nat → Byte) (t : State) : Prop :=
      (∀ j, j < k → (t.core c.unit).scratch.get (w + off + j) = v j) ∧
      ∀ u a, u ≠ c.unit ∨ a < w + off ∨ w + off + k ≤ a → (t.core u).scratch.get a = (s.core u).scratch.get a
    let inMemory (pa k : Nat) (v : Nat → Byte) (t : State) : Prop :=
      (∀ j, j < k → t.mem.gddr.get (pa + j) = v j) ∧
      (∀ a, a < pa ∨ pa + k ≤ a → t.mem.gddr.get a = s.mem.gddr.get a) ∧ ∀ a, t.mem.flash.get a = s.mem.flash.get a
    s.mem.waiting = [] → (∀ m, (segAt s m).trn = false) → (∀ u k, domainAsleep s u k = false) →
    alookup (s.team c.team).windows c.unit = some w → c.bad = [] → c.part = [] → e < copySize c →
    (∀ pa, c.lay = none → c.ssp = false → c.dsp = true → gddr (c.a + e) pa false →
      ∃ t, copyStep s c = .go t { c with done := e + n } ∧ SameDevice s t ∧
        inWindow (c.b + e) n (fun j => s.mem.gddr.get (pa + j)) t) ∧
    (∀ fa, c.lay = none → c.ssp = false → c.dsp = true → flash (c.a + e) fa → s.sched.arg.list = [] →
      ∃ t, copyStep s c = .go t { c with done := e + n } ∧ SameDevice s t ∧
        inWindow (c.b + e) n (fun j => s.mem.flash.get (fa + j)) t) ∧
    (∀ pa, c.lay = none → c.ssp = true → c.dsp = false → c.a + c.len ≤ size → gddr (c.b + e) pa true →
      ∃ t, copyStep s c = .go t { c with done := e + n } ∧ SameScratch s t ∧
        inMemory pa n (fun j => (s.core c.unit).scratch.get (w + c.a + e + j)) t) ∧
    ∀ l, c.lay = some l → l.surface = false → l.planes = false → 8 ≤ elemBits l.efmt →
      let m := elemBits l.efmt / 8
      let img (j : Nat) : Nat := w + c.b + l.imageByte e (e % l.span 0 * m + j)
      let boxed (v : Nat → Byte) (t : State) : Prop := SameDevice s t ∧
        (∀ j, j < m → (t.core c.unit).scratch.get (img j) = v j) ∧
        ∀ u a, (u ≠ c.unit ∨ ∀ j, j < m → a ≠ img j) → (t.core u).scratch.get a = (s.core u).scratch.get a
      (c.kind = 0 →
        (l.source c.origin e = none → ∃ t, copyStep s c = .go t { c with done := e + 1 } ∧ boxed (fun _ => 0) t) ∧
        ∀ ix pa, l.source c.origin e = some ix → l.elemBit ix / 8 % 4096 + m ≤ 4096 → gddr (l.elemBit ix / 8) pa false →
          ∃ t, copyStep s c = .go t { c with done := e + 1 } ∧ boxed (fun j => s.mem.gddr.get (pa + j)) t) ∧
      (c.kind = 1 →
        (l.target c.origin e = none → copyStep s c = .go s { c with done := e + 1 }) ∧
        ∀ ix pa, l.target c.origin e = some ix → l.elemBit ix / 8 % 4096 + m ≤ 4096 → gddr (l.elemBit ix / 8) pa true →
          (∀ j, j < m → img j < w + size) →
          ∃ t, copyStep s c = .go t { c with done := e + 1 } ∧ SameScratch s t ∧
            inMemory pa m (fun j => (s.core c.unit).scratch.get (img j)) t)) ∧
  (∀ (l : Layout) (org : List Int) (e : Nat) (ix : List Nat),
    (l.source org e = some ix → ix.length = l.ndim ∧ ∀ d, d < l.ndim →
      let i := org.getD d 0 - l.hb.getD d 0 + ((l.place e).getD d 0 : Int)
      let ext := l.ext.getD d 1
      (0 ≤ i ∧ i < ext → (ix.getD d 0 : Int) = i) ∧
      (¬(0 ≤ i ∧ i < ext) → l.fill ≠ 0 ∧ (l.fill = 1 → ix.getD d 0 = if i < 0 then 0 else ext - 1) ∧
        (l.fill = 2 → 0 < ext → (ix.getD d 0 : Int) = if i % (2 * ext) < ext then i % (2 * ext) else 2 * ext - 1 - i % (2 * ext)))) ∧
    (l.target org e = some ix → ix.length = l.ndim ∧ ∀ d, d < l.ndim →
      (ix.getD d 0 : Int) = org.getD d 0 + ((l.place e).getD d 0 : Int) ∧ ix.getD d 0 < l.ext.getD d 1)) ∧
  (∀ (s : State) (q : StageReq),
    let old := tagAt s q.unit q.tag
    let first := ∀ x, (s.mem.stages.find? fun x => x.kind == 3 && !x.squashed) = some x → x.id = q.id
    (s.mem.stages.find? fun q => q.id == s.sched.arg.a) = some q →
    (q.squashed = true ∨ (q.kind = 3 ∧ ¬first) → exec .stageComplete s = .next s) ∧
    (q.squashed = false → q.kind ≠ 3 ∨ first → (admitStage s q).1 = false →
      exec .stageComplete s = .next (admitStage s q).2 ∧ SameMemory s (admitStage s q).2 ∧ (admitStage s q).2.work = s.work ∧
      (admitStage s q).2.mem.stages = s.mem.stages) ∧
    (q.squashed = false → (admitStage s q).1 = true → q.kind ≠ 3 ∨ first →
      ∃ t err, exec .stageComplete s = .next t ∧ t.work.threads = s.work.threads ∧ SameScratch s t ∧
        (q.kind = 0 ∨ q.kind = 2 → SameMemory s t) ∧
        t.mem.stages = s.mem.stages.filter (fun x => x.id != q.id) ∧
        tagAt t q.unit q.tag = ⟨old.count - 1, old.done || decide (old.count ≤ 1), old.err || err⟩)) ∧
  (∀ (s : State), let n := s.sched.arg.a
    let g : Segment := { segAt s n with trn := false }
    s.host.inbox = [] → ∃ t, exec .transitionEnd s = .next t ∧ SameMemory s t ∧
      (s.mem.waiting = [] → segAt t n = g ∧ (∀ k, k ≠ n → segAt t k = segAt s k) ∧ t.work = s.work) ∧
      ((segAt s n).trn = true → ∀ k u,
        (s.mem.waiting = [(.act k (.leave u), [n])] → segAt t n = g.left u ∧ t.mem.waiting = []) ∧
        ∀ scope, s.mem.waiting = [(.act k (.release u scope), [n])] → segAt t n = g.released u scope (dirtyIn s u n) ∧ t.mem.waiting = [])) ∧
  (∀ (s : State) (b : Bell), let line := s.sched.arg.a
    let due := b.releasing.filter fun x => decide (x.due ≤ s.sched.clk)
    alookup s.mem.bells line = some b →
    (due = [] → exec .bellRelease s = .next s) ∧
    (due ≠ [] → ∃ t k, exec .bellRelease s = .next t ∧ SameMemory s t ∧
      ((∀ x ∈ due, x.live = false) → k = b.opened) ∧
      (∀ before x behind, due = before ++ x :: behind → x.live = true → (∀ y ∈ behind, y.live = false) → k = x.gen) ∧
      alookup t.mem.bells line = some { b with opened := k, releasing := b.releasing.filter fun x => decide (s.sched.clk < x.due) } ∧
      (∀ id, (∀ ths, (s.cohort id).wait ≠ .bell line ths) → t.cohort? id = s.cohort? id) ∧
      ∀ id ths, (s.cohort id).wait = .bell line ths →
        (∃ x ∈ due, ∀ y ∈ ths, ∀ g, alookup (s.thread y).bells line = some g → g < x.gen) → (t.cohort id).wait = .none)) ∧
  (∀ (s : State) (l : Load), let u := s.sched.arg.a
    ((s.core u).loads.find? fun x => x.id == s.sched.arg.b && x.follows.isNone) = some l →
    let asked := takeTurn s (.req l.id) (imageSpans s u l)
    (l.unread = true → ∃ t, exec .overlayLoadComplete s = .next t ∧ SameMemory s t ∧ t.work = s.work ∧
      ∃ x ∈ (t.core u).loads, x.id = l.id ∧ x.ref = l.ref ∧ x.tags = l.tags ∧ x.disp = l.disp) ∧
    (l.unread = false → asked.1 = false → exec .overlayLoadComplete s = .next asked.2) ∧
    (l.unread = false → asked.1 = true → (∀ x ∈ (s.core u).loads, x.follows ≠ some l.id) → l.disp = [] → l.fail ≠ some 0 →
    (∀ id q e n, (s.cohort id).wait = .overlay q e n → (s.cohort id).unit ≠ u ∨ q ≠ l.ref) →
    ∃ t st, exec .overlayLoadComplete s = .next t ∧ SameMemory s t ∧ t.work = s.work ∧
      (t.core u).loads = (s.core u).loads.filter (fun x => x.id != l.id) ∧
      ((t.core u).lastLoads.head?.map fun x => (x.ref, x.status)) = some (l.ref, st) ∧
      (st = 0 → (∃ i ∈ (t.core u).images, l.ref ∈ i.views) ∧ l.fail = none ∧
        ∃ bs s1, readOverlay asked.2 u l.ref.tenant l.priv true l.image l.len 66 = (some bs, s1) ∧
          (sha3_512 bs).take 16 = l.digest ∧ imageOk (wordsOf bs) = true) ∧
      (st ≠ 0 → ((t.core u).images.map fun i => (i.id, i.views)) = (s.core u).images.map fun i => (i.id, i.views)) ∧
      ∀ n x, l.tags = [(n, x)] → tagAt t u n =
        ⟨(tagAt s u n).count - 1, (tagAt s u n).done || decide ((tagAt s u n).count ≤ 1), (tagAt s u n).err || decide (st ≠ 0)⟩)) ∧
  ∀ (s : State), let u := s.sched.arg.a
    ((s.core u).held = [] → exec .faultRecordEnqueue s = .next s) ∧
    ∀ r rest, (s.core u).held = r :: rest →
      let q := (alookup s.host.faultq (clusterOf u)).getD []
      (∀ x ∈ q, x.coalesces r = false) →
      (256 ≤ q.length → exec .faultRecordEnqueue s = .next s) ∧
      (q.length < 256 → ∃ t, exec .faultRecordEnqueue s = .next t ∧ SameMemory s t ∧ t.work.threads = s.work.threads ∧
        alookup t.host.faultq (clusterOf u) = some (q ++ [r]) ∧ (t.core u).held = rest ∧
        ∀ v, v ≠ u → (t.core v).held = (s.core v).held)

/-- Surface tiles: an access is served when its tiles are resident and awake and no earlier one waits for them (R157,
R171). A fill makes a tile resident with the bytes of its spill slot, zeros for a blank one, and serves the access that
waits (R157); a spill writes them, and the blocks whose write fails are zeros and the slot reports damage (R158); an
eviction takes the least recently used idle tile of the bank, without a write where the slot holds it already (R158); a
layer enters retention only after its threshold, layer 0 never, and wakes at its time (R146, R171). A transfer of the
eviction engine waits for its turn at the directory and for the wake of its bank (R171, R178; log entry 68); what a tile
without a spill slot keeps is the model's choice (log entries 45, 49). A bank unit takes its jobs in order, one at a
time, and makes their tiles resident first (R231); a row step waits for accesses that came before at its tiles (R157),
and changes only the pixels of its row, each channel as its operation says, SUMROW its sums (R232), and the last one
completes the job in its team's record; a promotion is timing alone (R234). That FILL and CONVERT leave a NaN's bits is
the model's choice (log entry 65). -/
def Obligations.TileAndBankEvents : Prop :=
  ((∀ (s : State) (id : Nat) (ks : List TileKey), servable s id ks = true ↔
     (∀ k ∈ ks, (tileOf s k).st = .resident ∧ asleep s k = false) ∧
     ∀ x ∈ s.surf.order.takeWhile (fun x => x.1 != id), tokenLive s x.1 = true → ∀ k ∈ x.2, k ∉ ks) ∧
   (∀ (s : State), let k := s.sched.arg.tile
     ((tileOf s k).st ≠ .filling → exec .fillComplete s = .next s) ∧
     ((tileOf s k).st ≠ .spilling → exec .spillComplete s = .next s) ∧
     ((tileOf s k).wants = false → exec .evictionRequest s = .next s)) ∧
   (∀ (s : State), let k := s.sched.arg.tile
     let o := tileOf s k
     let asked := admitTile s o
     o.key = k →
     (o.st = .filling → o.blank = false → asked.1 = false → exec .fillComplete s = .next asked.2) ∧
     (o.st = .filling → o.blank = true ∨ asked.1 = true →
       (s.surf.reqs = [] → s.surf.order = [] → ∃ t, exec .fillComplete s = .next t ∧ t.work = s.work ∧ SameMemory s t ∧
         (tileOf t k).st = .resident ∧ (tileOf t k).dirty = false ∧ (tileOf t k).bytes.length = o.bytes.length ∧
         (∀ q, q ≠ k → tileOf t q = tileOf s q) ∧
         (o.blank = true → (tileOf t k).bytes = List.replicate o.bytes.length 0) ∧
         (∀ a cp s1, o.blank = false → o.raw = true → spillPa s k false = (some (a, cp), s1) → (tileOf t k).bytes = readPa s a o.bytes.length) ∧
         ∀ s1, o.blank = false → spillPa s k false = (none, s1) → (tileOf t k).bytes = List.replicate o.bytes.length 0 ∧
           ∀ e, alookup s.surf.bound (256 * k.ctx + k.slot) = some e →
             alookup t.surf.bound (256 * k.ctx + k.slot) = some { e with damage := true }) ∧
       ∀ q, s.surf.reqs = [q] → s.surf.order = [(q.id, [k])] → asleep s k = false →
         ∃ t s1, exec .fillComplete s = .next t ∧ (tileOf s1 k).st = .resident ∧ (tileOf s1 k).bytes.length = o.bytes.length ∧
           (o.blank = true → (tileOf s1 k).bytes = List.replicate o.bytes.length 0) ∧ s1.work = s.work ∧
           t.surf.reqs = [] ∧ t.surf.order = [] ∧ t.work = (performReq s1 q [k]).work ∧
           ∀ x, (tileOf t x).bytes = (tileOf (performReq s1 q [k]) x).bytes) ∧
     (o.st = .spilling → asked.1 = false → exec .spillComplete s = .next asked.2) ∧
     (o.st = .spilling → asked.1 = true → s.surf.reqs = [] → s.surf.order = [] →
       64 ≤ o.bytes.length → o.bytes.length % 64 = 0 →
       ∃ t, exec .spillComplete s = .next t ∧ t.work = s.work ∧ (tileOf t k).st = .spilled ∧ (tileOf t k).dirty = false ∧
       SameScratch s t ∧
       let list := s.sched.arg.list
       let lost (i : Nat) : Prop := s.sched.arg.ok = false ∧ (list = [] ∨ i / 64 ∈ list)
       let damaged := ∀ e, alookup s.surf.bound (256 * k.ctx + k.slot) = some e →
         alookup t.surf.bound (256 * k.ctx + k.slot) = some { e with damage := true }
       let bytes := (tileOf t k).bytes
       bytes.length = o.bytes.length ∧
       (∀ a cp s1, spillPa s k true = (some (a, cp), s1) →
         (∀ i, i < o.bytes.length → (lost i → bytes.getD i 0 = 0) ∧ (¬lost i → bytes.getD i 0 = o.bytes.getD i 0)) ∧
         (s.sched.arg.ok = false → damaged) ∧
         let packed := Config.compress bytes
         let bs := if bytes.length ≤ packed.length then bytes else packed
         (tileOf t k).current = true ∧ (tileOf t k).raw = decide (bytes.length ≤ packed.length) ∧
         readPa t a bs.length = bs ∧ ∀ b, b < a ∨ a + bs.length ≤ b → t.mem.gddr.get b = s.mem.gddr.get b) ∧
       ∀ s1, spillPa s k true = (none, s1) →
         SameMemory s t ∧ bytes = List.replicate o.bytes.length 0 ∧ (tileOf t k).current = false ∧ damaged) ∧
     (o.wants = true → o.st = .spilled →
       (frameFree s k true = true → asleep s k = false → ∃ t, exec .evictionRequest s = .next t ∧
         tileOf t k = { o with st := .filling, wants := false } ∧ SameMemory s t ∧ t.work = s.work) ∧
       (frameFree s k true = false → frameFree s k false = true → exec .evictionRequest s = .next s) ∧
       (frameFree s k true = false → frameFree s k false = false →
         let idle (x : Tile) : Bool := x.st == .resident && x.key.ctx == k.ctx && bankOf s x.key == bankOf s k && !tileBusy s x.key
         ((∀ x ∈ s.surf.tiles, idle x = false) → exec .evictionRequest s = .next s) ∧
         ∀ v l r, s.surf.tiles = l ++ v :: r → (∀ x ∈ l, idle x = false ∧ x.key ≠ v.key) → idle v = true →
           s.surf.reqs = [] → ∃ t, exec .evictionRequest s = .next t ∧ SameMemory s t ∧ t.work = s.work ∧
             tileOf t v.key = { v with st := if v.dirty = false ∧ v.current = true then .spilled else .spilling } ∧
             ∀ q, q ≠ v.key → (∀ x ∈ s.surf.order, q ∉ x.2) → tileOf t q = tileOf s q))) ∧
   (∀ (s : State), let u := s.sched.arg.a
     let layer := s.sched.arg.b
     let k := s.core u
     let idle := layer ≠ 0 ∧ layer < 4 ∧ u < 256 ∧ k.retain ≠ 0 ∧ layer ∉ k.retained ∧ alookup k.waking layer = none ∧
       (alookup k.access layer).getD 0 + k.retain.toNat ≤ s.sched.clk
     (¬idle → exec .retentionEntry s = .next s) ∧
     (idle → exec .retentionEntry s = .next (s.setCore u { k with retained := k.retained ++ [layer] })) ∧
     (∀ due, alookup k.waking layer = some due → s.sched.clk < due → exec .wakeComplete s = .next s) ∧
     (alookup k.waking layer = none → exec .wakeComplete s = .next s) ∧
     ∀ due, alookup k.waking layer = some due → due ≤ s.sched.clk → s.surf.reqs = [] → s.surf.order = [] → ∃ t, exec .wakeComplete s = .next t ∧
       alookup (t.core u).waking layer = none ∧ alookup (t.core u).access layer = some s.sched.clk ∧ t.work = s.work ∧
       SameMemory s t ∧ t.surf = s.surf)) ∧
  ((∀ (j : Job) (fy fx c : Nat) (y x : List Byte),
     let al := j.alpha.toNat
     (j.op = 5 → rowPixel j 6 fx y x = leBytes 8 (al * 2 ^ 32 + 0xFFFFFFFF) ∧ rowPixel j 5 fx y x = leBytes 4 al) ∧
     (j.op ≤ 3 → fy ≤ 4 → y.length = bpp fy → c < channels fy →
       let yc := chanF32 fy (chanBits fy c y)
       let xc := if c < channels fx then chanF32 fx (chanBits fx c x) else if c = 3 then 0x3F800000 else 0
       chanBits fy c (rowPixel j fy fx y x) % 256 ^ chanBytes fy = chanOfF32 fy
         (if j.op = 0 then al else if j.op = 1 then F32.mul 0 al yc
           else if j.op = 2 then F32.fma 0 al xc (F32.mul 0 j.beta.toNat yc) else xc) % 256 ^ chanBytes fy)) ∧
   ∀ (s : State) (j : Job), jobOf s s.sched.arg.a = some j →
     let rival := ∃ x ∈ s.surf.jobs, x.id ≠ j.id ∧ x.running = true ∧ x.suspended = false ∧ bankOf s x.tile = bankOf s j.tile
     let blocked := ∃ x ∈ s.surf.order, (∃ k ∈ x.2, k ∈ jobTiles j) ∧ tokenLive s x.1 = true ∧ ∀ q ∈ s.draw.quads, q.id ≠ x.1
     let pend := s.surf.jobs.find? fun x => !x.suspended && bankOf s x.tile == bankOf s j.tile
     (j.suspended = true ∨ j.running = true ∨ rival ∨ pend.map Job.id ≠ some j.id → exec .bankopJobStart s = .next s) ∧
     (j.suspended = false → j.running = false → ¬rival → pend.map Job.id = some j.id →
       ∃ t, exec .bankopJobStart s = .next t ∧ t.work = s.work ∧ SameMemory s t ∧ jobOf t j.id = some { j with running := true } ∧
         ∀ k ∈ jobTiles j, (tileOf s k).key = k →
           (tileOf t k).bytes = (tileOf s k).bytes ∧ ((tileOf t k).st = .spilled → (tileOf t k).wants = true)) ∧
     (j.running = false → exec .promotion s = .next s) ∧
     (j.running = true → ∃ t, exec .promotion s = .next t ∧ t.work = s.work ∧ SameMemory s t ∧ t.surf.tiles = s.surf.tiles ∧
       jobOf t j.id = some { j with promoted := true }) ∧
     (j.running = false ∨ j.suspended = true → exec .rowStep s = .next s) ∧
     (j.running = true → j.suspended = false →
       ((∃ k ∈ jobTiles j, (tileOf s k).st ≠ .resident ∨ asleep s k = true) ∨ blocked →
         exec .rowStep s = .next (wantTiles s (jobTiles j))) ∧
       ((∀ k ∈ jobTiles j, (tileOf s k).st = .resident ∧ asleep s k = false) → ¬blocked →
         ∀ e, alookup s.surf.bound (256 * j.tile.ctx + j.tile.slot) = some e → bankFmtOk j.op e.fmt = true →
           (tileOf s j.tile).key = j.tile → (tileOf s j.tile).bytes.length = tileLen e.fmt → j.rc < bpp e.fmt →
           let k := j.tile
           let e2 := (alookup s.surf.bound (256 * k.ctx + pairedSlot k.slot)).getD (emptySte [])
           let row (p : Nat) : Prop := p / (64 / bpp e.fmt) = j.rc
           let old (p : Nat) : List Byte := pixelAt s e k.ctx k.slot k.level (8 * k.tx + p % 8) (8 * k.ty + p / 8)
           let new (t : State) (p : Nat) : List Byte := pixelAt t e k.ctx k.slot k.level (8 * k.tx + p % 8) (8 * k.ty + p / 8)
           let pair (p : Nat) : List Byte := if j.op = 2 ∨ j.op = 3
             then pixelAt s e2 k.ctx (pairedSlot k.slot) k.level (8 * k.tx + p % 8) (8 * k.ty + p / 8) else []
           ∃ t, exec .rowStep s = .next t ∧ SameMemory s t ∧ t.work.threads = s.work.threads ∧ t.work.cohorts = s.work.cohorts ∧
             (∀ q, q ≠ k → (tileOf t q).bytes = (tileOf s q).bytes) ∧
             (∀ p, p < 64 → ¬row p ∨ j.op = 4 ∨ e.inside k.level (8 * k.tx + p % 8) (8 * k.ty + p / 8) = false → new t p = old p) ∧
             (∀ p, p < 64 → row p → j.op ≠ 4 → e.inside k.level (8 * k.tx + p % 8) (8 * k.ty + p / 8) = true →
               new t p = rowPixel j e.fmt e2.fmt (old p) (pair p)) ∧
             ((j.rc + 1) * 64 < tileLen e.fmt → (jobOf t j.id).map Job.rc = some (j.rc + 1)) ∧
             (tileLen e.fmt ≤ (j.rc + 1) * 64 → t.surf.jobs = s.surf.jobs.filter fun x => x.id != j.id) ∧
             ∀ r, (alookup s.work.teams j.team).isSome → alookup (s.team j.team).banks j.record = some r →
               (bankRec t j.team j.record).jobs = (if (j.rc + 1) * 64 < tileLen e.fmt then r.jobs else r.jobs - 1) ∧
               (bankRec t j.team j.record).busy = r.busy ∧ (j.op ≠ 4 → (bankRec t j.team j.record).acc = r.acc) ∧
               let pixel (i : Nat) : List Byte := old (j.rc * (64 / bpp e.fmt) + 4 * i / bpp e.fmt)
               (j.op = 4 → (bankRec t j.team j.record).acc = (List.range 16).map fun i => BitVec.ofNat 32
                 (F32.add 0 (j.acc.getD i 0).toNat (leNat (((pixel i).drop (4 * i % bpp e.fmt)).take 4)))))))

/-- Control messages (R425): a request whose tag does not verify is dropped and counted; one that repeats an earlier one is
answered again with the stored reply and not performed; in the safe state only STATUS, EVENTS, ATTEST and a reset are served;
another is answered with its status and body, and has its effect: LAUNCH (R31), which reads its plan's first word at home and is
answered once that access has had its turn (R171, R178; log entry 68), COUNTER (R427), STATUS (R428), EVENTS (R432),
ATTEST (R430), and the management requests, from context 0 only. The layout of bodies, what is dropped while the module boots, what
a reset keeps, what ML-DSA-87 leaves open and the order of a plan's tests are the model's readings (log entries 35, 36, 37, 43, 72). -/
def Obligations.Requests : Prop :=
  (∀ (s after : State) (i : Instr) (ty st : Nat) (body : List Byte),
    let m := s.sched.arg.msg
    let w (j : Nat) : Nat := dwordAt m.body (8 * j)
    let c := m.ctx.toNat
    let sub := w 0 % 256
    let served := ty = 3 ∨ ty = 4 ∨ ty = 5 ∨ (ty = 6 ∧ sub = 7)
    let mgmt (n : Nat) : Prop := ty = 6 ∧ sub = n ∧ m.ctx = 0
    let refuse := st = 7 ∧ body = [] ∧ after = s
    ((i = .launch ∧ ty = 1 ∧ body = [] ∧
        (((ctxOf s c).xlen = false ∧ st = 3 ∧ after = s) ∨
         ((ctxOf s c).xlen = true ∧ (w 0 % 256 ≠ 0 ∨ 2 ^ 52 ≤ w 0) ∧ st = 4 ∧ after = s) ∨
         ((ctxOf s c).xlen = true ∧ w 0 % 256 = 0 ∧ w 0 < 2 ^ 52 ∧ submitPlan s c (w 0) = (st, after)))) ∨
     (i = .counter ∧ ty = 2 ∧
        (((1 < w 0 ∨ 4096 ≤ w 1) ∧ st = 5 ∧ body = [] ∧ after = s) ∨
         (w 0 = 0 ∧ w 1 < 4096 ∧ st = 0 ∧ after = s ∧ body = leBytes 8 (counterAt s (w 1)).toNat) ∨
         (w 0 = 1 ∧ w 1 < 4096 ∧ st = 0 ∧ after = advanceCounter s (w 1) (w 2) ∧ body = leBytes 8 (counterAt after (w 1)).toNat))) ∨
     (i = .status ∧ ty = 3 ∧ st = 0 ∧ after = s ∧ ∃ fenced, (∀ n, fenced.testBit n = (decide (n < 256) && (s.core n).fenced)) ∧
        body = leBytes 8 (match s.host.mode with
            | .booting => 0
            | .running => 1
            | .safe => 2) ++ leBytes 8 s.host.selftest.toNat ++ leBytes 32 fenced ++ leBytes 8 s.host.svn) ∨
     (i = .events ∧ ty = 4 ∧
        (((sub = 0 ∨ 32 < sub) ∧ st = 0x0A ∧ body = [] ∧ after = s) ∨
         (1 ≤ sub ∧ sub ≤ 32 ∧ s.host.evq = [] ∧ st = 6 ∧ body = [] ∧ after = s) ∨
         (1 ≤ sub ∧ sub ≤ 32 ∧ s.host.evq ≠ [] ∧ st = 0 ∧ body = eventBytes (s.host.evq.take sub) ∧
           after = s.modHost fun h => { h with evq := h.evq.drop sub }))) ∨
     (i = .attest ∧ ty = 5 ∧ st = 0 ∧ body = attestation s (m.body.take 32) ∧ after = s) ∨
     (i ∈ [Instr.mgmtCfgrd, .mgmtCfgwr, .qpset, .mrset, .keyset, .addrset] ∧ ty = 6 ∧ m.ctx ≠ 0 ∧ st = 8 ∧ body = [] ∧ after = s ∧
        ([Instr.mgmtCfgrd, .mgmtCfgwr, .qpset, .mrset, .keyset, .addrset])[sub - 1]? = some i ∧ sub ≠ 0) ∨
     (i = .mgmtCfgrd ∧ mgmt 1 ∧ ((cfgRead s 32 (w 1) = none ∧ refuse) ∨
        ∃ v, cfgRead s 32 (w 1) = some v ∧ st = 0 ∧ body = leBytes 8 v.toNat ∧ after = s)) ∨
     (i = .mgmtCfgwr ∧ mgmt 2 ∧ ((cfgWrite s 32 (w 1) (w 2) = none ∧ refuse) ∨
        (cfgWrite s 32 (w 1) (w 2) = some after ∧ st = 0 ∧ body = []))) ∨
     (i = .qpset ∧ mgmt 3 ∧ ((writeQp s (m.body.drop 8) = none ∧ refuse) ∨
        (writeQp s (m.body.drop 8) = some after ∧ st = 0 ∧ body = []))) ∨
     (i = .mrset ∧ mgmt 4 ∧ ((writeRegion s (m.body.drop 8) = none ∧ refuse) ∨
        (writeRegion s (m.body.drop 8) = some after ∧ st = 0 ∧ body = []))) ∨
     (i = .keyset ∧ mgmt 5 ∧ ((16 ≤ w 1 ∧ refuse) ∨
        (w 1 < 16 ∧ st = 0 ∧ body = [] ∧ after = setKey s (w 1) (leBytes 32 (leNat ((m.body.drop 16).take 32)))))) ∨
     (i = .addrset ∧ mgmt 6 ∧ ((4 ≤ w 1 ∧ refuse) ∨
        (w 1 < 4 ∧ st = 0 ∧ body = [] ∧ let a : BitVec 128 := BitVec.ofNat 128 (leNat ((m.body.drop 16).take 16))
          after = s.modHost fun h => { h with addrs := if a == 0 then aerase h.addrs (w 1) else ainsert h.addrs (w 1) a })))) →
    (i = .launch → (admitLaunch s s.sched.next m).1 = true) →
    (acceptKey s ty m = none → exec i s = .next (dropFrame s)) ∧
    ∀ key, acceptKey s ty m = some key →
      (s.host.mode = .booting → ty ≠ 3 → exec i s = .next s) ∧
      (s.host.mode ≠ .booting ∨ ty = 3 → ∀ ds, storedReply s m = some ds → exec i s = .next (sendAll s m ds)) ∧
      (storedReply s m = none → s.host.mode = .safe → ¬served →
        let ds := replyDatagrams key ty m 2 []
        exec i s = .next (keepReply (sendAll s m ds) m ds)) ∧
      (storedReply s m = none → s.host.mode = .running ∨ (s.host.mode = .safe ∧ served) ∨ (s.host.mode = .booting ∧ ty = 3) →
        let ds := replyDatagrams key ty m st body
        exec i s = .next (keepReply (sendAll after m ds) m ds))) ∧
  (∀ (s : State), let m := s.sched.arg.msg
    let (id, s1) := s.newId
    let waits := ∃ x ∈ s.host.launches, x.2.msg.ctx = m.ctx ∧ x.2.msg.src = m.src ∧ x.2.msg.seq = m.seq
    (admitLaunch s s.sched.next m).1 = false →
    (waits → exec .launch s = .next s) ∧
    (¬waits → ∃ t, exec .launch s = .next t ∧ SameMemory s t ∧ t.work = s.work ∧ t.host.outbox = s.host.outbox ∧
      t.host.launches = s.host.launches ++ [(id, s.sched.arg)] ∧ t.mem.waiting = (admitLaunch s1 id m).2.mem.waiting)) ∧
  (∀ (s : State) (id : Nat) (a : EvArg), let asked := admitLaunch s id a.msg
    (asked.1 = false → serveLaunch s (id, a) = asked.2) ∧
    (asked.1 = true →
      let s1 := (dequeueAt asked.2 id).modHost fun h => { h with launches := h.launches.filter fun y => y.1 != id }
      request (s1.modSched fun y => { y with arg := a }) 1 launchAnswer = .next (serveLaunch s (id, a)))) ∧
  (∀ (s t : State) (c a st : Nat), submitPlan s c a = (st, t) →
    (st = 9 ↔ readHome s c a 8 = none) ∧ SameMemory s t ∧
    ∀ bs, readHome s c a 8 = some bs →
      let q := leNat bs / 2 ^ 54 % 8
      let l := (alookup s.work.queues q).getD []
      (256 ≤ l.length → st = 1 ∧ t = s) ∧
      (l.length < 256 → st = 0 ∧ ∃ n, alookup t.work.queues q = some (l ++ [n]) ∧
        t.plan n = { Plan.nil with addr := a, ctx := c, queue := q })) ∧
  (∀ (s : State) (b : List Byte),
    let w (i : Nat) : Nat := dwordAt b (8 * i)
    let n := w 0 % 4096
    let ctx := w 0 / 2 ^ 20 % 16
    ((writeQp s b).isSome ↔ w 0 / 2 ^ 48 % 2 ^ 16 = 0 ∧ w 0 / 2 ^ 19 % 2 = 0 ∧ w 0 / 2 ^ 12 % 16 ≤ 2 ∧ w 1 / 2 ^ 32 % 2 ^ 32 = 0 ∧
      w 5 / 2 ^ 52 % 2 ^ 12 = 0 ∧ ∀ q, alookup s.host.qps n = some q → q.st = 1 → q.ctx = ctx) ∧
    ∀ t, writeQp s b = some t → ∃ q, t.host.qps = ainsert s.host.qps n q ∧ q.qpn = n ∧ q.ctx = ctx ∧
      q.peer = w 0 / 2 ^ 24 % 2 ^ 24 ∧ q.prio = w 0 / 2 ^ 16 % 8 ∧ q.st = w 0 / 2 ^ 12 % 16 ∧ q.rkey.toNat = w 1 % 2 ^ 32 ∧
      q.rbase.toNat = w 2 % 2 ^ 64 ∧ q.rq = w 5 % 2 ^ 52) ∧
  (∀ (s t : State) (b : List Byte), writeRegion s b = some t →
    let w (i : Nat) : Nat := dwordAt b (8 * i)
    let n := w 0 / 2 ^ 38 % 1024
    let wr := w 0 / 2 ^ 37 % 2 = 1
    let rd := w 0 / 2 ^ 36 % 2 = 1
    w 0 / 2 ^ 48 % 2 ^ 16 = 0 ∧ w 1 / 2 ^ 52 % 2 ^ 12 = 0 ∧ w 3 = 0 ∧
    (¬wr → ¬rd → alookup t.host.regions n = none) ∧
    (wr ∨ rd → alookup t.host.regions n =
        some ⟨n, decide wr, decide rd, w 0 / 2 ^ 32 % 16, BitVec.ofNat 32 (w 0), w 1, w 2⟩ ∧
      ∀ x ∈ s.host.regions, x.1 ≠ n → x.2.key ≠ BitVec.ofNat 32 (w 0)) ∧
    ∀ k, k ≠ n → alookup t.host.regions k = alookup s.host.regions k) ∧
  ∀ (s : State), let m := s.sched.arg.msg
    dwordAt m.body 0 % 256 = 7 →
    (acceptKey s 6 m = none → exec .mgmtReset s = .next (dropFrame s)) ∧
    ∀ key, acceptKey s 6 m = some key → s.host.mode ≠ .booting → storedReply s m = none →
      (m.ctx ≠ 0 → ∃ t, exec .mgmtReset s = .next t ∧ t.work = s.work ∧ t.mem = s.mem) ∧
      (m.ctx = 0 → ∃ t, exec .mgmtReset s = .next t ∧ t.host.outbox =
          s.host.outbox ++ (replyDatagrams key 6 m 0 []).map (Sent.control m.src) ∧
        t.mem.flash = s.mem.flash ∧ t.mem.gddr = [] ∧ t.work = State.reset.work ∧ t.cores = State.reset.cores ∧
        t.cfg = State.reset.cfg ∧ t.host.mode = State.reset.host.mode ∧ t.host.keys = [] ∧ t.host.counters = [])

/-- Accesses at home wait their turn (R178) and for the wake of the banks that they pass (R171): one is served just when
none of its segments is in transition or awaited by someone who came before and none of its domains sleeps; else it
waits, and begins to wake the domains once nothing else holds it. Inbound requests arrive in the order of their queue
pair (R202): one that is served is performed at once when no earlier request of its queue pair waits, and waits else; as
a segment leaves its transition, a request that waits for it is performed. In the safe state none is taken up (R429).
Which segments a request names, and that it is performed in one step, are the model's choices (log entries 40, 68). The
port: an inbound RDMA request outside its region, without its permission or on a page that it may not reach is answered
with a NAK and performs no byte (R422); else a read answers the bytes and a write writes them and no others (R202); a
SEND becomes one record, longer ones and those that find no queue are refused, a full queue answers RNR (R422). A peer's
NAK, or the end of seven retries, ends the copies of its queue pair, which enters ERROR (R422, R426), even where a copy
is already given up; an answer goes to the oldest request of its copy; the rates and pauses of R424 are kept; an address
of the hub is advertised (R421). Which answer comes when, and the interface identifier, are the model's readings (log
entries 34, 40, 41). -/
def Obligations.PortEvents : Prop :=
  ((∀ (s : State) (w : Waiter) (segs : List Nat) (ds : List (Nat × Nat)),
     let asked := admitTo s w segs ds
     let clear := (∀ n ∈ segs, (segAt s n).trn = false) ∧
       ∀ x ∈ s.mem.waiting.takeWhile (fun x => x.1 != w), stillWaits s x.1 = true → ∀ n ∈ segs, n ∉ x.2
     (asked.1 = true ↔ clear ∧ ∀ d ∈ ds, domainAsleep s d.1 d.2 = false) ∧
     (asked.1 = true → ∀ x, x ∈ asked.2.mem.waiting ↔ x ∈ s.mem.waiting ∧ x.1 ≠ w) ∧
     (asked.1 = false → (w, segs) ∈ asked.2.mem.waiting ∧ (∀ x ∈ s.mem.waiting, x.1 ≠ w → x ∈ asked.2.mem.waiting) ∧
       (clear → ∀ d ∈ ds, domainAsleep s d.1 d.2 = true →
         (alookup (asked.2.core d.1).waking d.2).isSome)) ∧
     SameMemory s asked.2 ∧ asked.2.work = s.work) ∧
   (∀ (s : State), s.host.mode ≠ .running → ∀ i ∈ [Instr.inboundRdmaRead, .inboundRdmaWrite, .rdmaWriteWithImmediate,
     .inboundSend, .sendWithImmediate], exec i s = .next s) ∧
   (∀ (s : State) (i : Instr) (kind : Nat), s.host.mode = .running →
     (i, kind) ∈ [(Instr.inboundRdmaRead, inRead), (.inboundRdmaWrite, inWrite), (.rdmaWriteWithImmediate, inWriteImm),
       (.inboundSend, inSend), (.sendWithImmediate, inSendImm)] →
     let a := s.sched.arg
     let (id, s0) := s.newId
     let s1 := enqueueAt { s0 with host := { s.host with inbox := s.host.inbox ++ [(id, kind, a)] } } id
       (spanSegs (inboundSpans s kind a))
     let asked := takeTurn s1 (.req id) (inboundSpans s1 kind a)
     let earlier := ∃ y ∈ s.host.inbox, inboundQp y.2.1 y.2.2 = inboundQp kind a
     (∀ y ∈ s.host.inbox, y.1 ≠ id) →
     (earlier → exec i s = .next s1) ∧
     (¬earlier → asked.1 = false → exec i s = .next asked.2) ∧
     (¬earlier → asked.1 = true →
       exec i s = .next (performInbound { asked.2 with host := { asked.2.host with inbox := s.host.inbox } } kind a))) ∧
   ∀ (s : State) (id kind : Nat) (a : EvArg), let g := s.sched.arg.a
     s.host.inbox = [(id, kind, a)] → (segAt s g).trn = true → (∀ w ∈ s.mem.waiting, w.1 = .req id) →
     let s1 := setSeg s g { segAt s g with trn := false }
     let asked := takeTurn s1 (.req id) (inboundSpans s1 kind a)
     (asked.1 = false → exec .transitionEnd s = .next asked.2) ∧
     (asked.1 = true →
       exec .transitionEnd s = .next (performInbound { asked.2 with host := { asked.2.host with inbox := [] } } kind a))) ∧
  ((∀ (s : State) (kind n : Nat) (write : Bool) (a : EvArg), let r := a.rdma
     let nak (k : Nat) : State := send s (.rdma r.qpn k [])
     s.host.mode = .running →
     ((kind = inRead ∧ n = r.len ∧ write = false) ∨ (kind ∈ [inWrite, inWriteImm] ∧ n = r.data.length ∧ write = true)) →
     ((∀ q, alookup s.host.qps r.qpn = some q → q.st ≠ 1) → performInbound s kind a = nak 2) ∧
     ∀ q, alookup s.host.qps r.qpn = some q → q.st = 1 →
       ((∀ g ∈ s.host.regions, g.2.key ≠ r.rkey) → performInbound s kind a = nak 1) ∧
       ∀ g, regionOf s r.rkey = some g →
         let va := r.va.toNat
         (va < g.base ∨ g.base + g.len < va + n ∨ (write = false ∧ g.rd = false) ∨ (write = true ∧ g.wr = false) →
           performInbound s kind a = nak 1) ∧
         (g.base ≤ va → va + n ≤ g.base + g.len → (write = false → g.rd = true) → (write = true → g.wr = true) →
           let s0 := (pieces s g.ctx va n write (pageCount n)).2
           ((pieces s g.ctx va n write (pageCount n)).1 = none → performInbound s kind a = send s0 (.rdma r.qpn 1 [])) ∧
           ∀ l, (pieces s g.ctx va n write (pageCount n)).1 = some l →
             let t := performInbound s kind a
             (kind = inRead → SameMemory s t ∧ t.work = s.work ∧
               t.host.outbox = s.host.outbox ++ [.rdma r.qpn 0 (l.flatMap fun p => readPa s p.1 p.2.1)]) ∧
             (kind = inWrite → t.work = s.work ∧ SameScratch s t ∧
               t.mem.flash = s.mem.flash ∧ t.host.outbox = s.host.outbox ++ [.rdma r.qpn 0 []] ∧
               (∀ a, (∀ p ∈ l, a < p.1 ∨ p.1 + p.2.1 ≤ a) → t.mem.gddr.get a = s.mem.gddr.get a) ∧
               ∀ pa cp, l = [(pa, n, cp)] → readPa t pa n = r.data) ∧
             (kind = inWriteImm → let imm := leBytes 4 a.value.toNat
               (∀ k, placeSend s0 r.qpn imm = .error k → t = send s0 (.rdma r.qpn k [])) ∧
               ∀ s1 s2, placeSend s0 r.qpn imm = .ok s1 → placeSend (inboundWrite g.ctx s0 l r.data) r.qpn imm = .ok s2 →
                 t = send s2 (.rdma r.qpn 0 []))) ∧
         ∀ pa cp, s.mem.passes.find? (fun (_, p) => p.valid && decide (p.base ≤ pa / 4096) && decide (pa / 4096 < p.base + p.nseg)) = none →
           (segAt s (pa / 4096)).holders ≠ [] → 0 < n → n ≤ 4096 - pa % 4096 →
           segAt (inboundWrite g.ctx s [(pa, n, cp)] r.data) (pa / 4096) = { segAt s (pa / 4096) with
             own := false, holders := [], trn := true,
             rel := (segAt (inboundWrite g.ctx s [(pa, n, cp)] r.data) (pa / 4096)).rel }) ∧
   (∀ (s : State) (kind : Nat) (bs : List Byte) (a : EvArg), let n := a.a
     s.host.mode = .running →
     ((kind = inSend ∧ bs = a.data) ∨ (kind = inSendImm ∧ bs = leBytes 4 a.value.toNat ++ a.data)) →
     let nak (k : Nat) : State := send s (.rdma n k [])
     ((∀ q, alookup s.host.qps n = some q → q.st ≠ 1 ∨ q.rq = 0) → performInbound s kind a = nak 2) ∧
     ∀ q o, alookup s.host.qps n = some q → q.st = 1 → q.rq ≠ 0 → q.rq % 32 = 0 → queueAt s q.ctx q.rq = some o →
       (o.size < bs.length → performInbound s kind a = nak 2) ∧
       let open' (va k : Nat) : Prop := (pieces s q.ctx va k true (pageCount k)).1.isSome
       (bs.length ≤ o.size → open' o.addr 32 → open' (o.slotAddr o.wr) bs.length → open' (o.bitAddr o.wr) 1 →
         (o.slots ≤ o.held → performInbound s kind a = nak 3) ∧
         (o.held < o.slots → let t := performInbound s kind a
           ∃ s1, pushRecord s q.ctx o bs = some s1 ∧ t.mem = s1.mem ∧ t.work.threads = s.work.threads ∧
           t.work.launches = s.work.launches ∧ t.host.outbox = s.host.outbox ++ [.rdma n 0 []]))) ∧
   (∀ (s : State), exec .unsupportedRequest s = .next (send s (.rdma s.sched.arg.a 2 []))) ∧
   (∀ (s : State), ((∀ f ∈ s.host.flights, f.2.1 ≠ s.sched.arg.a) → exec .remoteResponse s = .next s) ∧
     ∀ f, (s.host.flights.find? fun x => x.2.1 == s.sched.arg.a) = some f →
       let ended (t : State) : Prop := t.host.flights = s.host.flights.filter (fun x => x.2.2 != f.2.2) ∧
         ∀ q, alookup s.host.qps f.1 = some q → alookup t.host.qps f.1 = some { q with retries := 0 }
       ((∀ c, (s.mem.copies.find? fun c => c.id == s.sched.arg.a) = some c → ∀ w, c.await = some w → w.req ≠ f.2.2) →
         ∃ t, exec .remoteResponse s = .next t ∧ t.mem = s.mem ∧ t.work = s.work ∧ ended t) ∧
       ∀ c w, (s.mem.copies.find? fun c => c.id == s.sched.arg.a) = some c → c.lay = none → c.await = some w → w.req = f.2.2 →
         let moved (t : State) : Prop := ended t ∧ t.work = s.work ∧
           t.mem.copies = s.mem.copies.map fun x => if x.id == c.id then { c with await := none, done := c.done + w.n } else x
         (w.write = true → ∃ t, exec .remoteResponse s = .next t ∧ SameMemory s t ∧ moved t) ∧
         (w.write = false → s.sched.arg.data.length ≠ w.n → exec .remoteResponse s = .next s) ∧
         ∀ b, w.write = false → s.sched.arg.data.length = w.n → c.dsp = true →
           alookup (s.team c.team).windows c.unit = some b →
           ∃ t, exec .remoteResponse s = .next t ∧ SameDevice s t ∧ moved t ∧
             (t.core c.unit).scratch.bytes (b + c.b + c.done) w.n = s.sched.arg.data ∧
             ∀ u a, u ≠ c.unit ∨ a < b + c.b + c.done ∨ b + c.b + c.done + w.n ≤ a →
               (t.core u).scratch.get a = (s.core u).scratch.get a) ∧
   (∀ (s : State) (i : Instr), let n := s.sched.arg.a
     i = .peerNak ∨ (i = .retryExhausted ∧ ∃ q, alookup s.host.qps n = some q ∧ 7 ≤ q.retries) →
     (inFlight s n = false → exec i s = .next s) ∧
     (inFlight s n = true → ∀ q, alookup s.host.qps n = some q →
       (awaiting s n = [] → ∃ t, exec i s = .next t ∧ t.mem = s.mem ∧ t.work = s.work ∧
         (alookup t.host.qps n).map Qp.st = some 2 ∧ ∀ x ∈ t.host.flights, x.1 ≠ n) ∧
       ∀ c, awaiting s n = [c] → ∃ t x, exec i s = .next t ∧ SameMemory s t ∧ t.work.threads = s.work.threads ∧
         x ∈ t.mem.copies ∧ x.id = c.id ∧ x.failed = true ∧ x.await = none ∧ (alookup t.host.qps n).map Qp.st = some 2 ∧
         ∀ x ∈ t.host.flights, x.1 ≠ n)) ∧
   (∀ (s : State), let n := s.sched.arg.a
     ((alookup s.host.qps n = none) → exec .transportRetry s = .next s ∧ exec .retryExhausted s = .next s) ∧
     ∀ q, alookup s.host.qps n = some q →
       (q.retries < 7 → exec .retryExhausted s = .next s) ∧
       (inFlight s n = false ∨ 7 ≤ q.retries ∨ (alookup s.host.pauses q.prio).isSome → exec .transportRetry s = .next s) ∧
       (inFlight s n = true → q.retries < 7 → alookup s.host.pauses q.prio = none → ∃ t, exec .transportRetry s = .next t ∧ t.mem = s.mem ∧ t.work = s.work ∧
         alookup t.host.qps n = some { q with retries := q.retries + 1 } ∧ t.host.outbox = s.host.outbox ++ [.retry n]) ∧
       (∃ t, exec .cnpReceived s = .next t ∧ t.mem = s.mem ∧ t.work = s.work ∧
         alookup t.host.qps n = some { q with rate := max 1 (q.rate / 2), cnp := s.sched.clk }) ∧
       ∃ t, exec .rateIncrease s = .next t ∧ t.mem = s.mem ∧ t.work = s.work ∧
         alookup t.host.qps n = some (if q.cnp + 87500 ≤ s.sched.clk
           then { q with rate := min 256 (q.rate + 4), cnp := s.sched.clk } else q)) ∧
   ∀ (s : State), let p := s.sched.arg.a % 8
     let a := s.sched.arg.addr0
     (∃ t, exec .pfcPause s = .next t ∧ t.mem = s.mem ∧ t.work = s.work ∧
       alookup t.host.pauses p = (if s.sched.arg.b = 0 then none else some s.sched.arg.b) ∧
       ∀ k, k ≠ p → alookup t.host.pauses k = alookup s.host.pauses k) ∧
     (∃ t, exec .pfcPauseExpiry s = .next t ∧ t.mem = s.mem ∧ t.work = s.work ∧ alookup t.host.pauses p = none ∧
       ∀ k, k ≠ p → alookup t.host.pauses k = alookup s.host.pauses k) ∧
     (s.host.link = s.sched.arg.ok → exec .link s = .next s) ∧
     (s.host.link ≠ s.sched.arg.ok → ∃ t, exec .link s = .next t ∧ t.mem = s.mem ∧ t.work = s.work ∧ t.host.link = s.sched.arg.ok ∧
       (s.host.evq.length < 4096 → ∃ e, t.host.evq = s.host.evq ++ [e] ∧ e.kind = 0x60)) ∧
     (∃ t, exec .droppedFrame s = .next t ∧ t.mem = s.mem ∧ t.work = s.work ∧ t.host = s.host ∧
       (t.core 0).hubport.toNat = min (2 ^ 64 - 1) ((s.core 0).hubport.toNat + 1)) ∧
     (a ≠ linkLocal → (∀ x ∈ s.host.addrs, x.2 ≠ a) → exec .neighbourDiscovery s = .next s) ∧
     (a = linkLocal ∨ (∃ x ∈ s.host.addrs, x.2 = a) →
       exec .neighbourDiscovery s = .next (send s (.advert a s.sched.arg.addr1))))

/-- Errors, power and life: an uncorrected error reads as zeros where it lies, counts, and fences the column at its threshold
(R431); a corrected one counts; a thermal cap holds for the cores of a die (R433); the boot ROM starts the verified slot of the
higher version and goes to the safe state otherwise (R428); without supply only the flash array keeps what it holds (R429). That
an error is counted on core 0 where no column owns the place, which blocks a fence leaves unwritten, and how the proctors' cohorts
are made are the model's choices (log entries 2, 38, 49, 50). -/
def Obligations.ErrorsAndPower : Prop :=
  (∀ (s : State), let u := s.sched.arg.a
    ∃ t, exec .correctedError s = .next t ∧ t.mem = s.mem ∧ t.work = s.work ∧
      (t.core u).cecnt.toNat = min (2 ^ 64 - 1) ((s.core u).cecnt.toNat + 1) ∧ (t.core u).scratch = (s.core u).scratch ∧
      ∀ v, v ≠ u → t.core v = s.core v) ∧
  (∀ (s : State), (∀ u, (s.core u).uefence = 0) →
    let counted (t : State) (u : Nat) : Prop := exec .uncorrectedError s = .next t ∧
      (t.core u).uecnt.toNat = min (2 ^ 64 - 1) ((s.core u).uecnt.toNat + 1) ∧ ∀ v, v ≠ u → (t.core v).uecnt = (s.core v).uecnt
    (∀ b, s.sched.arg.site = .gddr b → ∃ t, counted t 0 ∧ t.work = s.work ∧ SameScratch s t ∧ b ∈ t.mem.poison ∧
      ∀ a, t.mem.gddr.get a = if 64 * b ≤ a ∧ a < 64 * b + 64 then 0 else s.mem.gddr.get a) ∧
    (∀ u b, s.sched.arg.site = .l1 u b → ∃ t, counted t u ∧ t.work = s.work ∧ SameScratch s t ∧ b ∈ t.mem.poison ∧
      ∀ a, t.mem.gddr.get a = if 64 * b ≤ a ∧ a < 64 * b + 64 then 0 else s.mem.gddr.get a) ∧
    (∀ b, s.sched.arg.site = .cache b → ∃ t, counted t (homeOf s (64 * b)) ∧ t.work = s.work ∧ SameScratch s t ∧
      b ∈ t.mem.poison ∧ ∀ a, t.mem.gddr.get a = if 64 * b ≤ a ∧ a < 64 * b + 64 then 0 else s.mem.gddr.get a) ∧
    (∀ u b, s.sched.arg.site = .scratch u b → ∃ t, counted t u ∧ t.work = s.work ∧ SameDevice s t ∧
      (∀ a, (t.core u).scratch.get a = if 64 * b ≤ a ∧ a < 64 * b + 64 then 0 else (s.core u).scratch.get a) ∧
      ∀ v, v ≠ u → t.core v = s.core v) ∧
    (∀ u p r, s.sched.arg.site = .row u p r → ∃ t, counted t u ∧ SameMemory s t ∧ t.work.cohorts = s.work.cohorts ∧
      ∀ x n row v, alookup (s.thread x).names n = some ⟨row, v⟩ → alookup (t.thread x).names n =
        some ⟨row, if (s.thread x).unit = u ∧ (s.thread x).part = p ∧ row = r then 0 else v⟩) ∧
    (∀ x, s.sched.arg.site = .checkpoint x → (alookup s.work.threads x).isSome →
      ∃ t, counted t (s.thread x).unit ∧ SameMemory s t ∧ (t.thread x).names = (s.thread x).names ∧ (t.thread x).ckpt.preds = 0 ∧
        (t.thread x).ckpt.live.map Prod.fst = (s.thread x).ckpt.live.map Prod.fst ∧
        (∀ e ∈ (t.thread x).ckpt.live, e.2 = none ∨ e.2 = some 0) ∧ OtherThreads s t [x]) ∧
    (∀ l k n, s.sched.arg.site = .note l k n → ∃ t u, counted t u ∧ SameMemory s t ∧ t.work.threads = s.work.threads ∧
      t.work.notes = s.work.notes.map fun x => if x.launch = l ∧ x.lin = k ∧ x.name = n then { x with val := 0 } else x) ∧
    (∀ k b, s.sched.arg.site = .surface k b → (tileOf s k).st ≠ .spilled → ∃ t u, counted t u ∧ SameMemory s t ∧ t.work = s.work ∧
      b ∈ (tileOf t k).poison ∧ (tileOf t k).bytes.length = (tileOf s k).bytes.length ∧
      (∀ i, i / 64 = b → ((tileOf t k).bytes[i]?).getD 0 = 0) ∧
      (∀ i, i / 64 ≠ b → (tileOf t k).bytes[i]? = (tileOf s k).bytes[i]?) ∧ ∀ q, q ≠ k → tileOf t q = tileOf s q) ∧
    (∀ u, s.sched.arg.site = .istore u → ∃ t, counted t u ∧ t.mem = s.mem ∧ t.work = s.work) ∧
    ∀ a, s.sched.arg.site = .flash a → ∃ t, counted t 0 ∧ t.mem = s.mem ∧ t.work = s.work) ∧
  (∀ (s : State) (u : Nat), s.sched.arg.site = .istore u → (s.core u).uefence ≠ 0 →
    (s.core u).uefence.toNat ≤ min (2 ^ 64 - 1) ((s.core u).uecnt.toNat + 1) →
    ∃ s1, (∀ v, v ≠ u → s1.core v = s.core v) ∧ s1.work = s.work ∧ s1.mem = s.mem ∧
      exec .uncorrectedError s = .next (fenceColumn s1 u)) ∧
  (∀ (s : State), let die := s.sched.arg.a % 2
    (∃ t, exec .thermalCap s = .next t ∧ t.work = s.work ∧ SameMemory s t ∧
      (∀ u, u / 128 = die → (t.core u).thermal = true) ∧ (∀ u, u / 128 ≠ die → t.core u = s.core u) ∧
      ∀ u, (t.core u).pcap = (s.core u).pcap) ∧
    ∃ t, exec .thermalCapLift s = .next t ∧ t.work = s.work ∧ SameMemory s t ∧
      (∀ u, u / 128 = die → (t.core u).thermal = false) ∧ (∀ u, u / 128 ≠ die → t.core u = s.core u) ∧
      ∀ u, (t.core u).pcap = (s.core u).pcap) ∧
  (∀ (s : State), ∃ t, exec .powerDown s = .next t ∧ t.mem.flash = s.mem.flash ∧ t.mem.gddr = [] ∧ t.work = State.reset.work ∧
    t.cores = State.reset.cores ∧ t.cfg = State.reset.cfg ∧ t.surf = State.reset.surf ∧ t.draw = State.reset.draw ∧
    t.host.mode = .booting ∧ t.host.provKey = s.host.provKey ∧ t.host.fwA = s.host.fwA ∧ t.host.fwB = s.host.fwB) ∧
  ∀ (s : State),
    let test := s.sched.arg.value &&& 0x1F
    (s.host.mode ≠ .booting → exec .boot s = .next s) ∧
    (s.host.mode = .booting →
      ((∀ f, s.host.fwA = some f ∨ s.host.fwB = some f → slotOk f = false) →
        exec .boot s = .next { s with host := { s.host with mode := .safe } }) ∧
      ∀ f, slotOk f = true → (s.host.fwA = some f ∨ s.host.fwB = some f) →
        (∀ g, s.host.fwA = some g → slotOk g = true → g.svn < f.svn ∨ g = f) →
        (∀ g, s.host.fwB = some g → slotOk g = true → g.svn < f.svn ∨ g = f ∨ (g.svn = f.svn ∧ s.host.fwA = some f)) →
        ∃ t id, exec .boot s = .next t ∧ SameMemory s t ∧ t.host.image = f.image ∧ t.host.svn = f.svn ∧
          t.host.digests = [sha3_512 f.image] ∧ t.host.chain = sha3_512 (List.replicate 64 0 ++ sha3_512 f.image) ∧
          t.host.selftest = test ∧ t.host.mode = (if test = 0 then .running else .safe) ∧
          (t.cohort id).priv = true ∧ (t.cohort id).unit = 288 ∧ (t.cohort id).wait = .none ∧ (t.cohort id).stop = none ∧
          (t.core 288).images.map Image.words = [imageWords f.image] ∧
          (test = 0 → 2 ≤ wordAt f.image 4 / 65536 → ∀ u, 256 ≤ u → u < 288 → ∃ k, (t.cohort k).priv = true ∧
            (t.cohort k).unit = u ∧ (t.cohort k).wait = .none ∧ (t.cohort k).stop = none ∧
            (t.cohort k).pc.toNat = ((imageWords f.image).getD 9 0).toNat % 65536 ∧
            (t.core u).images.map Image.words = [imageWords f.image]))

/-- The dispatcher: a decision reads the heads and places the first team that can be (R32 to R34), its threads numbered in seat
order (R13, R29), and counts for every queue's head (R32); a preload begins the loads that a team waits for (R35) once no word
of the core can issue in the cycle (R281); a draining core writes its L1 back and converts once it is empty, for 4,096 cycles at
most (R145); a consumer launch, once its access to the queue object has had its turn (R178), claims the records of its ring, and else those
in memory, in order (R60, R61, R374); a plan's
shares are of its own cores and of free ones, each core in one, and every active stage has one while there are enough (R62); a
complete plan advances its counter where SIGEN asks for it (R37, R427). Which ring comes first, and what a share of nothing is,
are the model's choices (log entries 42, 43, 58, 61, 64, 67). -/
def Obligations.DispatchEvents : Prop :=
  (∀ (s : State), let s1 := leaveTables (grantOwed (examineHeads s))
    (s.host.mode ≠ .running → exec .placementDecision s = .next s) ∧
    (s.host.mode = .running → itemOrder s1 = [] → exec .placementDecision s = .next s1) ∧
    ∀ it r on ring, s.host.mode = .running → itemOrder s1 = it :: r → attempt s1 it = .place on ring → it.team = none → it.again = false →
      let l := s1.launch it.launch
      let head := ((alookup s1.work.queues (s1.plan it.plan).queue).getD []).head? = some it.plan
      (alookup s1.work.launches it.launch).isSome → (on.map Prod.snd).sum = (cohortSizes l).length →
      ∃ t n, exec .placementDecision s = .next t ∧ (t.team n).launch = it.launch ∧ (t.team n).num = it.num ∧
        (t.team n).units = on.map Prod.fst ∧ (t.launch it.launch).nextTeam = l.nextTeam + 1 ∧
        (∀ q, q < 8 → sinceServed t q =
          if head ∧ q = (s1.plan it.plan).queue then 0 else sinceServed s1 q + 1) ∧
        ∀ i, i < l.teamSize → ∃ x, (t.thread x).team = n ∧ (t.thread x).launch = it.launch ∧ (t.thread x).seat = i ∧
          (t.thread x).lin = it.num * l.teamSize + i ∧ (t.thread x).unit ∈ on.map Prod.fst) ∧
  (∀ (s : State), let u := s.sched.arg.a
    let wants := (itemOrder s).filter fun it => it.plan == s.sched.arg.b && (s.launch it.launch).stage == s.sched.arg.c
    (dispatcherLast s u = false → exec .dispatcherPreload s = .next s) ∧
    (dispatcherLast s u = true → wants = [] → exec .dispatcherPreload s = .next (afterDispatcher s u)) ∧
    ∀ it us, dispatcherLast s u = true → wants = [it] → it.team = none → attempt s it = .load us →
      (u ∉ us → exec .dispatcherPreload s = .next (afterDispatcher s u)) ∧
      (u ∈ us → ∃ t, exec .dispatcherPreload s = .next t ∧ SameMemory s t ∧ t.work = s.work ∧
        ∀ r ∈ missingRefs s it u, (inView t u r).isSome ∨
          ∃ l, loadOf t u r = some l ∧ (it.plan, (s.launch it.launch).stage) ∈ l.disp)) ∧
  (∀ (s : State), let u := s.sched.arg.a
    let k := s.core u
    ((∀ m l, k.conv ≠ .draining m l) → exec .carveoutConversion s = .next s) ∧
    (coreHolds s u = true → exec .carveoutConversion s = .next s) ∧
    (∀ m l, k.conv = .draining m l → coreHolds s u = false → ∃ t, exec .carveoutConversion s = .next t ∧ SameDevice s t ∧
      t.work = s.work ∧ (t.core u).conv = .converting m l (s.sched.clk + 4096) ∧ (t.core u).scratch = [] ∧ (t.core u).l1 = [] ∧
      (t.core u).tags = [] ∧ (t.core u).carve = k.carve ∧ (∀ v, v ≠ u → t.core v = (dropL1 s u fun _ => true).core v) ∧
      ((k.l1.any fun l => l.dirty) = false → ∀ v, v ≠ u → t.core v = s.core v) ∧
      (t.core u).mx.queue = k.mx.queue.map (fun c => { c with tag := none }) ∧
      (∀ g ∈ t.mem.dir, (movingSeg s g.1 = false → ∀ h ∈ g.2.holders, h.1 ≠ u) ∧
        (movingSeg s g.1 = true → g.2.heldBy u = true → ∃ i, (.act i (.leave u), [g.1]) ∈ t.mem.waiting))) ∧
    (∃ t, exec .conversionComplete s = .next t ∧ SameMemory s t ∧ t.work = s.work ∧ (∀ v, v ≠ u → t.core v = s.core v) ∧
      (∀ m l due, k.conv = .converting m l due → t.core u = { k with carve := m, conv := .none }) ∧
      ((∀ m l due, k.conv ≠ .converting m l due) → t.core u = k)) ∧
    ∀ m l due, Rising s.cores → k.conv = .converting m l due →
      (due ≤ s.sched.clk → ((settleConversions s).core u) = { k with carve := m, conv := .none }) ∧
      (s.sched.clk < due → (settleConversions s).core u = k)) ∧
  (∀ (s : State), let p := s.sched.arg.a
    let j := s.sched.arg.b
    let n := claimable s p j
    let lower := completeUpTo s p (j - 1) = true
    let asked := admitRanges s (.plan p j) (s.plan p).ctx [(stageQueue (s.plan p) j, 32)]
    let idle (i : Instr) : Prop := ∃ t, exec i s = .next t ∧ SameMemory s t ∧ t.work = s.work ∧ t.cores = s.cores
    (consumes s p j = none → idle .consumerLaunch ∧ idle .tailLaunch) ∧
    ∀ g, consumes s p j = some g →
      (n < g.batch → idle .consumerLaunch) ∧
      (n = 0 ∨ g.batch ≤ n ∨ ¬lower → idle .tailLaunch) ∧
      ∀ i m, (i = .consumerLaunch ∧ g.batch ≤ n ∧ m = g.batch) ∨ (i = .tailLaunch ∧ n ≠ 0 ∧ n < g.batch ∧ lower ∧ m = n) →
        (asked.1 = false → exec i s = .next asked.2) ∧
        (asked.1 = true → ∃ t id l, exec i s = .next t ∧ t.work.threads = s.work.threads ∧ t.work.teams = s.work.teams ∧ SameScratch s t ∧
          alookup t.work.launches id = some l ∧ l.plan = p ∧ l.stage = j ∧ l.levels = g.levels ∧ l.nextTeam = 0 ∧
          l.claim.length = m ∧ l.ring = nextRing s p j ∧
          (stageRings s p j = [] → returnedTo s p j = [] →
            ∀ q, queueAt s (s.plan p).ctx (stageQueue (s.plan p) j) = some q →
              l.claim = (List.range m).map fun i => QRec.mem ((q.cl + i) % 2 ^ 32)) ∧
          ∀ o r, nextRing s p j = some o → Rising s.work.rings → alookup s.work.rings o = some r → r.held.Nodup →
            l.claim.take (min m r.held.length) = (r.held.take m).map (QRec.ring o) ∧
            ∃ x, alookup t.work.rings o = some x ∧ x.held = r.held.drop m ∧ x.out = r.out ++ r.held.take m ∧ x.unit = r.unit)) ∧
  (∀ (s : State) (plan j n : Nat) (g : Stage) (q : QObj),
    let c := (s.plan plan).ctx
    let a := stageQueue (s.plan plan) j
    queueAt s c a = some q → stageRings s plan j = [] → returnedTo s plan j = [] → 0 < n → n ≤ unclaimedMem s plan j →
    ∀ pa leaf, (translate s none c (a + 8) true false false).1 = .ok .gddr pa leaf → pa % 4096 + 4 ≤ 4096 →
      let t := claimLaunch s plan j n g
      readPa t pa 4 = leBytes 4 ((q.cl + n) % 2 ^ 32) ∧ t.mem.flash = s.mem.flash ∧
        ∀ x, x < pa ∨ pa + 4 ≤ x → t.mem.gddr.get x = s.mem.gddr.get x) ∧
  (∀ (s : State),
    (s.sched.clk < s.work.reassigned + 4096 → exec .stageReassignment s = .next s) ∧
    (s.work.reassigned + 4096 ≤ s.sched.clk → Rising s.work.plans →
      ∃ t, exec .stageReassignment s = .next t ∧ SameMemory s t ∧ t.work.reassigned = s.sched.clk ∧
        t.work.threads = s.work.threads ∧ t.work.teams = s.work.teams ∧
        ∀ id, let p := s.plan id
          (p.begun = false ∨ p.done = true ∨ p.stages = [] → t.plan id = p) ∧
          (t.plan id = { p with assign := (t.plan id).assign, owed := (t.plan id).owed }) ∧
          (p.begun = true → p.done = false → p.stages ≠ [] → (alookup s.work.plans id).isSome →
            ((t.plan id).assign.map Prod.fst).Nodup ∧
            ((activeStages s id).length ≤ (planCores s id).length →
              ∀ j ∈ (activeStages s id).map Prod.fst, ∃ u, (u, j) ∈ (t.plan id).assign) ∧
            ∀ x ∈ (t.plan id).assign, x.2 ∈ (activeStages s id).map Prod.fst ∧
              (x.1 ∈ planCores s id ∨ (x.1 < 256 ∧ coreHolds s x.1 = false ∧ (s.core x.1).fenced = false)))) ∧
    ∀ c k, (∀ x ∈ sharesOf c (List.replicate k (0, 0)), x.2 = 1) ∧ sharesOf 4 [(1, 1), (2, 1)] = [(1, 2), (2, 2)] ∧
      sharesOf 5 [(0, 1), (1, 1), (2, 1)] = [(0, 2), (1, 2), (2, 1)] ∧ sharesOf 3 [(0, 0), (1, 9)] = [(0, 1), (1, 3)]) ∧
  ∀ (s : State), let id := s.sched.arg.a
    let p := s.plan id
    (planComplete s id = false → exec .planComplete s = .next s) ∧
    (planComplete s id = true → (alookup s.work.plans id).isSome →
      ∃ t, exec .planComplete s = .next t ∧ SameMemory s t ∧ t.work.threads = s.work.threads ∧
        t.plan id = { p with done := true, noSlot := [], assign := [], owed := [] } ∧ (∀ k, k ≠ id → t.plan k = s.plan k) ∧
        (∀ n, n ≠ p.signal ∨ p.sigen = false ∨ p.killed = true → counterAt t n = counterAt s n) ∧
        (p.sigen = true → p.killed = false →
          (counterAt t p.signal).toNat = min (2 ^ 64 - 1) ((counterAt s p.signal).toNat + 1)))

/-- Pre-emption goes on (R310, R415, R416): a cohort of a leaving team stops at a safe point, or whole once its time is over,
unless a trap has stopped it; a team whose cohorts have stopped and whose copies and stages have ended is saved; those still in
flight on a core whose CC.DRAIN cycles have passed are squashed first: they leave their tags' counts, what they have written
stands, and they are to be replayed whole; threads saved whole have their outstanding writes performed, restartable ones what
their checkpoint holds (R87, R346), and its window is saved byte by byte; a
saved team that the next decision places leaves the save region, but not in the safe state (R429). What is stopped and counted
when, and when a DRAW plan counts as gone, are the model's readings (log entries 32, 33, 70). -/
def Obligations.PreemptionEvents : Prop :=
  (∀ (s : State) (whole : Bool) (id : Nat) (c : Cohort), s.cohort? id = some c →
    ((stopCohort s id whole).cohort id).leave = .stopped whole ∧ ((stopCohort s id whole).cohort id).writes = c.writes ∧
    ((stopCohort s id whole).cohort id).active = c.active ∧
    SameMemory s (stopCohort s id whole) ∧ OtherCohorts s (stopCohort s id whole) id ∧
    ∀ x, (stopCohort s id whole).thread x = s.thread x) ∧
  (∀ (s : State) (x : Nat), (alookup s.work.threads x).isSome →
    let th := s.thread x
    let r := (restartThread s x).thread x
    (saveThread s x).thread x = { (settleThread s x).thread x with place := .saved } ∧
    ((∀ p ∈ th.writes, p.held = false) → ((saveThread s x).thread x).writes = []) ∧
    r.place = .saved ∧ r.preds = th.ckpt.preds ∧ r.writes = [] ∧
    (∀ n v, (th.ckpt.live.map Prod.fst).Nodup → (n, some v) ∈ th.ckpt.live → (alookup r.names n).map NameVal.val = some v) ∧
    ∀ n, (∀ v, (n, some v) ∉ th.ckpt.live) → alookup r.names n = none) ∧
  (∀ (s : State) (c : Cohort), let id := s.sched.arg.a
    let safe := ∀ x ∈ c.members, (s.thread x).restartable = true
    s.cohort? id = some c →
    ((∀ n, c.leave ≠ .since n) → exec .safePointStop s = .next s ∧ exec .safelimExpiry s = .next s) ∧
    ∀ n, c.leave = .since n →
      let due := n + (s.core c.unit).safelim.toNat ≤ s.sched.clk
      (c.stop ≠ none ∨ ¬safe → exec .safePointStop s = .next s) ∧
      (c.stop = none → safe → exec .safePointStop s = .next (settleLeaving (stopCohort s id false))) ∧
      (¬due → exec .safelimExpiry s = .next s) ∧
      (due → c.stop = none → safe → exec .safelimExpiry s = .next (settleLeaving (stopCohort s id false))) ∧
      (due → c.stop = none → ¬safe → exec .safelimExpiry s = .next (settleLeaving (stopCohort s id true))) ∧
      (due → c.stop ≠ none → ∃ t, exec .safelimExpiry s = .next t ∧ SameMemory s t ∧
        ∀ x ∈ c.members, (alookup s.work.teams (s.thread x).team).isSome →
          (t.team (s.thread x).team).leaving = none)) ∧
  (∀ (s : State), let x := s.sched.arg.a
    let tm := s.team x
    let p := s.plan (s.launch tm.launch).plan
    let past (u : Nat) : Prop := ∃ n, (tm.still = some n ∨ (tm.still = none ∧ n = s.sched.clk)) ∧
      n + (s.core u).drain.toNat ≤ s.sched.clk
    let away (c : Copy) : Prop := c.team = x ∧ c.unit ∈ tm.units ∧ c.squashed = false
    (tm.leaving = none → exec .drainExpiry s = .next s) ∧
    (tm.leaving ≠ none →
      ((∀ y, (s.team y).leaving ≠ none → allStopped s y = false) →
        ∃ t, exec .drainExpiry s = .next t ∧ SameMemory s t ∧ (∀ k, t.cohort? k = s.cohort? k) ∧
          ∀ y, (t.team y).save = (s.team y).save ∧ (t.team y).leaving = (s.team y).leaving) ∧
      (leavingTeams s = [x] → leavingWith s [x] = [x] → allStopped s x = true →
        (∀ q ∈ s.surf.reqs, (s.thread q.thread).team ≠ x) → p.draw = false →
        ((∃ u ∈ tm.units, opsOn s x u = true ∧ ¬past u) →
          ∃ t, exec .drainExpiry s = .next t ∧ SameMemory s t ∧ (∀ k, t.cohort? k = s.cohort? k) ∧
            (t.team x).save = tm.save ∧ (t.team x).leaving = tm.leaving ∧
            (∀ c ∈ s.mem.copies, c.team ≠ x ∨ ¬past c.unit → c ∈ t.mem.copies) ∧
            ∀ c ∈ s.mem.copies, away c → past c.unit → c.afresh ∈ t.mem.copies) ∧
        ((∀ u ∈ tm.units, opsOn s x u = true → past u) →
          ∃ t, exec .drainExpiry s = .next t ∧ SameDevice s t ∧ (t.team x).save.isSome ∧ (t.team x).leaving = none ∧
            (t.team x).windows = [] ∧
            t.mem.copies = s.mem.copies.map (fun c => if c.team = x ∧ c.unit ∈ tm.units ∧ c.squashed = false
              then { c with squashed := true, done := 0, await := none, part := [], bad := [], failed := false, err := false,
                            landed := false } else c) ∧
            t.mem.stages = s.mem.stages.map (fun q => if q.team = x ∧ q.unit ∈ tm.units then { q with squashed := true } else q) ∧
            (∀ c, s.mem.copies.filter (fun c => c.team == x) = [c] → away c → (∀ q ∈ s.mem.stages, q.team ≠ x) → p.acct = 0 →
              (∀ u, ∀ l ∈ (s.core u).loads, ∀ g ∈ l.tags, g.2 ≠ x) →
              (tagAt t c.unit c.tag).count = (tagAt s c.unit c.tag).count - 1) ∧
            (p.acct = 0 → (tm.windows.map Prod.fst).Nodup → ∀ u b i, alookup tm.windows u = some b → i < p.spwin * 1024 →
              ∃ sv m, (t.team x).save = some sv ∧ alookup sv.wins u = some m ∧ m.get i = (s.core u).scratch.get (b + i)) ∧
            ∀ k c y whole, s.cohort? k = some c → y ∈ c.members → (s.thread y).team = x → c.leave = .stopped whole →
              (alookup s.work.threads y).isSome → (∀ j d, s.cohort? j = some d → y ∈ d.members → j = k) →
              (∀ u, ∀ b ∈ (s.core u).bins, y ∉ b.2.ids) → (∀ l ∈ s.work.lcohs, l.2.waiting.isSome → y ∉ l.2.threads) →
              (t.thread y).place = .saved ∧ (∀ j d, t.cohort? j = some d → y ∉ d.members) ∧
              (whole = true → (∀ n, (t.thread y).readName n = ((saveThread s y).thread y).readName n) ∧
                (t.thread y).preds = ((saveThread s y).thread y).preds ∧
                ((∀ p ∈ (s.thread y).writes, p.held = false) → (t.thread y).writes = [])) ∧
              (whole = false → t.thread y = (restartThread s y).thread y))))) ∧
  ∀ (s : State), let x := s.sched.arg.a
    (s.host.mode ≠ .running ∨ firstPlaceable s (itemOrder s) = none → exec .teamResume s = .next s) ∧
    ∀ it on ring, s.host.mode = .running → firstPlaceable s (itemOrder s) = some (it, on, ring) →
      (it.team ≠ some x → exec .teamResume s = .next s) ∧
      (it.team = some x → (alookup s.work.teams x).isSome →
        ∃ t, exec .teamResume s = .next t ∧ (t.team x).save = none ∧ (t.team x).units = on.map Prod.fst ∧
          (t.team x).held = false ∧ (t.team x).leaving = none ∧ (t.team x).threads = (s.team x).threads)
end

