-- ==== Sys2Proof/Laws/State.lean ====
section
/-! SUPPORT. One lemma per field of the state per update, each true by unfolding. -/

namespace Sys2Proof.Machine.State
variable (s : State)

@[simp] theorem setCore_sched (u : Nat) (c : Core) : (s.setCore u c).sched = s.sched := rfl
@[simp] theorem setCore_work (u : Nat) (c : Core) : (s.setCore u c).work = s.work := rfl
@[simp] theorem setCore_cores (u : Nat) (c : Core) : (s.setCore u c).cores = ainsert s.cores u c := rfl
@[simp] theorem setCore_mem (u : Nat) (c : Core) : (s.setCore u c).mem = s.mem := rfl
@[simp] theorem setCore_surf (u : Nat) (c : Core) : (s.setCore u c).surf = s.surf := rfl
@[simp] theorem setCore_draw (u : Nat) (c : Core) : (s.setCore u c).draw = s.draw := rfl
@[simp] theorem setCore_cfg (u : Nat) (c : Core) : (s.setCore u c).cfg = s.cfg := rfl
@[simp] theorem setCore_host (u : Nat) (c : Core) : (s.setCore u c).host = s.host := rfl

@[simp] theorem modCore_sched (u : Nat) (f : Core → Core) : (s.modCore u f).sched = s.sched := rfl
@[simp] theorem modCore_work (u : Nat) (f : Core → Core) : (s.modCore u f).work = s.work := rfl
@[simp] theorem modCore_cores (u : Nat) (f : Core → Core) : (s.modCore u f).cores = ainsert s.cores u (f (s.core u)) := rfl
@[simp] theorem modCore_mem (u : Nat) (f : Core → Core) : (s.modCore u f).mem = s.mem := rfl
@[simp] theorem modCore_surf (u : Nat) (f : Core → Core) : (s.modCore u f).surf = s.surf := rfl
@[simp] theorem modCore_draw (u : Nat) (f : Core → Core) : (s.modCore u f).draw = s.draw := rfl
@[simp] theorem modCore_cfg (u : Nat) (f : Core → Core) : (s.modCore u f).cfg = s.cfg := rfl
@[simp] theorem modCore_host (u : Nat) (f : Core → Core) : (s.modCore u f).host = s.host := rfl

@[simp] theorem modThread_sched (n : Nat) (f : Thread → Thread) : (s.modThread n f).sched = s.sched := rfl
@[simp] theorem modThread_cores (n : Nat) (f : Thread → Thread) : (s.modThread n f).cores = s.cores := rfl
@[simp] theorem modThread_mem (n : Nat) (f : Thread → Thread) : (s.modThread n f).mem = s.mem := rfl
@[simp] theorem modThread_surf (n : Nat) (f : Thread → Thread) : (s.modThread n f).surf = s.surf := rfl
@[simp] theorem modThread_draw (n : Nat) (f : Thread → Thread) : (s.modThread n f).draw = s.draw := rfl
@[simp] theorem modThread_cfg (n : Nat) (f : Thread → Thread) : (s.modThread n f).cfg = s.cfg := rfl
@[simp] theorem modThread_host (n : Nat) (f : Thread → Thread) : (s.modThread n f).host = s.host := rfl
@[simp] theorem modThread_work_threads (n : Nat) (f : Thread → Thread) : (s.modThread n f).work.threads = amodify s.work.threads n f := rfl
@[simp] theorem modThread_work_cohorts (n : Nat) (f : Thread → Thread) : (s.modThread n f).work.cohorts = s.work.cohorts := rfl
@[simp] theorem modThread_work_lcohs (n : Nat) (f : Thread → Thread) : (s.modThread n f).work.lcohs = s.work.lcohs := rfl
@[simp] theorem modThread_work_launches (n : Nat) (f : Thread → Thread) : (s.modThread n f).work.launches = s.work.launches := rfl
@[simp] theorem modThread_work_teams (n : Nat) (f : Thread → Thread) : (s.modThread n f).work.teams = s.work.teams := rfl
@[simp] theorem modThread_work_plans (n : Nat) (f : Thread → Thread) : (s.modThread n f).work.plans = s.work.plans := rfl
@[simp] theorem modThread_work_queues (n : Nat) (f : Thread → Thread) : (s.modThread n f).work.queues = s.work.queues := rfl
@[simp] theorem modThread_work_since (n : Nat) (f : Thread → Thread) : (s.modThread n f).work.since = s.work.since := rfl
@[simp] theorem modThread_work_reassigned (n : Nat) (f : Thread → Thread) : (s.modThread n f).work.reassigned = s.work.reassigned := rfl
@[simp] theorem modThread_work_notes (n : Nat) (f : Thread → Thread) : (s.modThread n f).work.notes = s.work.notes := rfl
@[simp] theorem modThread_work_released (n : Nat) (f : Thread → Thread) : (s.modThread n f).work.released = s.work.released := rfl

@[simp] theorem modCohort_sched (n : Nat) (f : Cohort → Cohort) : (s.modCohort n f).sched = s.sched := rfl
@[simp] theorem modCohort_cores (n : Nat) (f : Cohort → Cohort) : (s.modCohort n f).cores = s.cores := rfl
@[simp] theorem modCohort_mem (n : Nat) (f : Cohort → Cohort) : (s.modCohort n f).mem = s.mem := rfl
@[simp] theorem modCohort_surf (n : Nat) (f : Cohort → Cohort) : (s.modCohort n f).surf = s.surf := rfl
@[simp] theorem modCohort_draw (n : Nat) (f : Cohort → Cohort) : (s.modCohort n f).draw = s.draw := rfl
@[simp] theorem modCohort_cfg (n : Nat) (f : Cohort → Cohort) : (s.modCohort n f).cfg = s.cfg := rfl
@[simp] theorem modCohort_host (n : Nat) (f : Cohort → Cohort) : (s.modCohort n f).host = s.host := rfl
@[simp] theorem modCohort_work_threads (n : Nat) (f : Cohort → Cohort) : (s.modCohort n f).work.threads = s.work.threads := rfl
@[simp] theorem modCohort_work_cohorts (n : Nat) (f : Cohort → Cohort) : (s.modCohort n f).work.cohorts = amodify s.work.cohorts n f := rfl
@[simp] theorem modCohort_work_lcohs (n : Nat) (f : Cohort → Cohort) : (s.modCohort n f).work.lcohs = s.work.lcohs := rfl
@[simp] theorem modCohort_work_launches (n : Nat) (f : Cohort → Cohort) : (s.modCohort n f).work.launches = s.work.launches := rfl
@[simp] theorem modCohort_work_teams (n : Nat) (f : Cohort → Cohort) : (s.modCohort n f).work.teams = s.work.teams := rfl
@[simp] theorem modCohort_work_plans (n : Nat) (f : Cohort → Cohort) : (s.modCohort n f).work.plans = s.work.plans := rfl
@[simp] theorem modCohort_work_queues (n : Nat) (f : Cohort → Cohort) : (s.modCohort n f).work.queues = s.work.queues := rfl
@[simp] theorem modCohort_work_since (n : Nat) (f : Cohort → Cohort) : (s.modCohort n f).work.since = s.work.since := rfl
@[simp] theorem modCohort_work_reassigned (n : Nat) (f : Cohort → Cohort) : (s.modCohort n f).work.reassigned = s.work.reassigned := rfl
@[simp] theorem modCohort_work_notes (n : Nat) (f : Cohort → Cohort) : (s.modCohort n f).work.notes = s.work.notes := rfl
@[simp] theorem modCohort_work_released (n : Nat) (f : Cohort → Cohort) : (s.modCohort n f).work.released = s.work.released := rfl

@[simp] theorem setCohort_sched (n : Nat) (v : Cohort) : (s.setCohort n v).sched = s.sched := rfl
@[simp] theorem setCohort_cores (n : Nat) (v : Cohort) : (s.setCohort n v).cores = s.cores := rfl
@[simp] theorem setCohort_mem (n : Nat) (v : Cohort) : (s.setCohort n v).mem = s.mem := rfl
@[simp] theorem setCohort_surf (n : Nat) (v : Cohort) : (s.setCohort n v).surf = s.surf := rfl
@[simp] theorem setCohort_draw (n : Nat) (v : Cohort) : (s.setCohort n v).draw = s.draw := rfl
@[simp] theorem setCohort_cfg (n : Nat) (v : Cohort) : (s.setCohort n v).cfg = s.cfg := rfl
@[simp] theorem setCohort_host (n : Nat) (v : Cohort) : (s.setCohort n v).host = s.host := rfl
@[simp] theorem setCohort_work_threads (n : Nat) (v : Cohort) : (s.setCohort n v).work.threads = s.work.threads := rfl
@[simp] theorem setCohort_work_cohorts (n : Nat) (v : Cohort) : (s.setCohort n v).work.cohorts = ainsert s.work.cohorts n v := rfl
@[simp] theorem setCohort_work_lcohs (n : Nat) (v : Cohort) : (s.setCohort n v).work.lcohs = s.work.lcohs := rfl
@[simp] theorem setCohort_work_launches (n : Nat) (v : Cohort) : (s.setCohort n v).work.launches = s.work.launches := rfl
@[simp] theorem setCohort_work_teams (n : Nat) (v : Cohort) : (s.setCohort n v).work.teams = s.work.teams := rfl
@[simp] theorem setCohort_work_plans (n : Nat) (v : Cohort) : (s.setCohort n v).work.plans = s.work.plans := rfl
@[simp] theorem setCohort_work_queues (n : Nat) (v : Cohort) : (s.setCohort n v).work.queues = s.work.queues := rfl
@[simp] theorem setCohort_work_since (n : Nat) (v : Cohort) : (s.setCohort n v).work.since = s.work.since := rfl
@[simp] theorem setCohort_work_reassigned (n : Nat) (v : Cohort) : (s.setCohort n v).work.reassigned = s.work.reassigned := rfl
@[simp] theorem setCohort_work_notes (n : Nat) (v : Cohort) : (s.setCohort n v).work.notes = s.work.notes := rfl
@[simp] theorem setCohort_work_released (n : Nat) (v : Cohort) : (s.setCohort n v).work.released = s.work.released := rfl

@[simp] theorem dropCohort_sched (n : Nat) : (s.dropCohort n).sched = s.sched := rfl
@[simp] theorem dropCohort_cores (n : Nat) : (s.dropCohort n).cores = s.cores := rfl
@[simp] theorem dropCohort_mem (n : Nat) : (s.dropCohort n).mem = s.mem := rfl
@[simp] theorem dropCohort_surf (n : Nat) : (s.dropCohort n).surf = s.surf := rfl
@[simp] theorem dropCohort_draw (n : Nat) : (s.dropCohort n).draw = s.draw := rfl
@[simp] theorem dropCohort_cfg (n : Nat) : (s.dropCohort n).cfg = s.cfg := rfl
@[simp] theorem dropCohort_host (n : Nat) : (s.dropCohort n).host = s.host := rfl
@[simp] theorem dropCohort_work_threads (n : Nat) : (s.dropCohort n).work.threads = s.work.threads := rfl
@[simp] theorem dropCohort_work_cohorts (n : Nat) : (s.dropCohort n).work.cohorts = aerase s.work.cohorts n := rfl
@[simp] theorem dropCohort_work_lcohs (n : Nat) : (s.dropCohort n).work.lcohs = s.work.lcohs := rfl
@[simp] theorem dropCohort_work_launches (n : Nat) : (s.dropCohort n).work.launches = s.work.launches := rfl
@[simp] theorem dropCohort_work_teams (n : Nat) : (s.dropCohort n).work.teams = s.work.teams := rfl
@[simp] theorem dropCohort_work_plans (n : Nat) : (s.dropCohort n).work.plans = s.work.plans := rfl
@[simp] theorem dropCohort_work_queues (n : Nat) : (s.dropCohort n).work.queues = s.work.queues := rfl
@[simp] theorem dropCohort_work_since (n : Nat) : (s.dropCohort n).work.since = s.work.since := rfl
@[simp] theorem dropCohort_work_reassigned (n : Nat) : (s.dropCohort n).work.reassigned = s.work.reassigned := rfl
@[simp] theorem dropCohort_work_notes (n : Nat) : (s.dropCohort n).work.notes = s.work.notes := rfl
@[simp] theorem dropCohort_work_released (n : Nat) : (s.dropCohort n).work.released = s.work.released := rfl

@[simp] theorem modLcoh_sched (n : Nat) (f : LaunchCohort → LaunchCohort) : (s.modLcoh n f).sched = s.sched := rfl
@[simp] theorem modLcoh_cores (n : Nat) (f : LaunchCohort → LaunchCohort) : (s.modLcoh n f).cores = s.cores := rfl
@[simp] theorem modLcoh_mem (n : Nat) (f : LaunchCohort → LaunchCohort) : (s.modLcoh n f).mem = s.mem := rfl
@[simp] theorem modLcoh_surf (n : Nat) (f : LaunchCohort → LaunchCohort) : (s.modLcoh n f).surf = s.surf := rfl
@[simp] theorem modLcoh_draw (n : Nat) (f : LaunchCohort → LaunchCohort) : (s.modLcoh n f).draw = s.draw := rfl
@[simp] theorem modLcoh_cfg (n : Nat) (f : LaunchCohort → LaunchCohort) : (s.modLcoh n f).cfg = s.cfg := rfl
@[simp] theorem modLcoh_host (n : Nat) (f : LaunchCohort → LaunchCohort) : (s.modLcoh n f).host = s.host := rfl
@[simp] theorem modLcoh_work_threads (n : Nat) (f : LaunchCohort → LaunchCohort) : (s.modLcoh n f).work.threads = s.work.threads := rfl
@[simp] theorem modLcoh_work_cohorts (n : Nat) (f : LaunchCohort → LaunchCohort) : (s.modLcoh n f).work.cohorts = s.work.cohorts := rfl
@[simp] theorem modLcoh_work_lcohs (n : Nat) (f : LaunchCohort → LaunchCohort) : (s.modLcoh n f).work.lcohs = amodify s.work.lcohs n f := rfl
@[simp] theorem modLcoh_work_launches (n : Nat) (f : LaunchCohort → LaunchCohort) : (s.modLcoh n f).work.launches = s.work.launches := rfl
@[simp] theorem modLcoh_work_teams (n : Nat) (f : LaunchCohort → LaunchCohort) : (s.modLcoh n f).work.teams = s.work.teams := rfl
@[simp] theorem modLcoh_work_plans (n : Nat) (f : LaunchCohort → LaunchCohort) : (s.modLcoh n f).work.plans = s.work.plans := rfl
@[simp] theorem modLcoh_work_queues (n : Nat) (f : LaunchCohort → LaunchCohort) : (s.modLcoh n f).work.queues = s.work.queues := rfl
@[simp] theorem modLcoh_work_since (n : Nat) (f : LaunchCohort → LaunchCohort) : (s.modLcoh n f).work.since = s.work.since := rfl
@[simp] theorem modLcoh_work_reassigned (n : Nat) (f : LaunchCohort → LaunchCohort) : (s.modLcoh n f).work.reassigned = s.work.reassigned := rfl
@[simp] theorem modLcoh_work_notes (n : Nat) (f : LaunchCohort → LaunchCohort) : (s.modLcoh n f).work.notes = s.work.notes := rfl
@[simp] theorem modLcoh_work_released (n : Nat) (f : LaunchCohort → LaunchCohort) : (s.modLcoh n f).work.released = s.work.released := rfl

@[simp] theorem modLaunch_sched (n : Nat) (f : Launch → Launch) : (s.modLaunch n f).sched = s.sched := rfl
@[simp] theorem modLaunch_cores (n : Nat) (f : Launch → Launch) : (s.modLaunch n f).cores = s.cores := rfl
@[simp] theorem modLaunch_mem (n : Nat) (f : Launch → Launch) : (s.modLaunch n f).mem = s.mem := rfl
@[simp] theorem modLaunch_surf (n : Nat) (f : Launch → Launch) : (s.modLaunch n f).surf = s.surf := rfl
@[simp] theorem modLaunch_draw (n : Nat) (f : Launch → Launch) : (s.modLaunch n f).draw = s.draw := rfl
@[simp] theorem modLaunch_cfg (n : Nat) (f : Launch → Launch) : (s.modLaunch n f).cfg = s.cfg := rfl
@[simp] theorem modLaunch_host (n : Nat) (f : Launch → Launch) : (s.modLaunch n f).host = s.host := rfl
@[simp] theorem modLaunch_work_threads (n : Nat) (f : Launch → Launch) : (s.modLaunch n f).work.threads = s.work.threads := rfl
@[simp] theorem modLaunch_work_cohorts (n : Nat) (f : Launch → Launch) : (s.modLaunch n f).work.cohorts = s.work.cohorts := rfl
@[simp] theorem modLaunch_work_lcohs (n : Nat) (f : Launch → Launch) : (s.modLaunch n f).work.lcohs = s.work.lcohs := rfl
@[simp] theorem modLaunch_work_launches (n : Nat) (f : Launch → Launch) : (s.modLaunch n f).work.launches = amodify s.work.launches n f := rfl
@[simp] theorem modLaunch_work_teams (n : Nat) (f : Launch → Launch) : (s.modLaunch n f).work.teams = s.work.teams := rfl
@[simp] theorem modLaunch_work_plans (n : Nat) (f : Launch → Launch) : (s.modLaunch n f).work.plans = s.work.plans := rfl
@[simp] theorem modLaunch_work_queues (n : Nat) (f : Launch → Launch) : (s.modLaunch n f).work.queues = s.work.queues := rfl
@[simp] theorem modLaunch_work_since (n : Nat) (f : Launch → Launch) : (s.modLaunch n f).work.since = s.work.since := rfl
@[simp] theorem modLaunch_work_reassigned (n : Nat) (f : Launch → Launch) : (s.modLaunch n f).work.reassigned = s.work.reassigned := rfl
@[simp] theorem modLaunch_work_notes (n : Nat) (f : Launch → Launch) : (s.modLaunch n f).work.notes = s.work.notes := rfl
@[simp] theorem modLaunch_work_released (n : Nat) (f : Launch → Launch) : (s.modLaunch n f).work.released = s.work.released := rfl

@[simp] theorem modTeam_sched (n : Nat) (f : Team → Team) : (s.modTeam n f).sched = s.sched := rfl
@[simp] theorem modTeam_cores (n : Nat) (f : Team → Team) : (s.modTeam n f).cores = s.cores := rfl
@[simp] theorem modTeam_mem (n : Nat) (f : Team → Team) : (s.modTeam n f).mem = s.mem := rfl
@[simp] theorem modTeam_surf (n : Nat) (f : Team → Team) : (s.modTeam n f).surf = s.surf := rfl
@[simp] theorem modTeam_draw (n : Nat) (f : Team → Team) : (s.modTeam n f).draw = s.draw := rfl
@[simp] theorem modTeam_cfg (n : Nat) (f : Team → Team) : (s.modTeam n f).cfg = s.cfg := rfl
@[simp] theorem modTeam_host (n : Nat) (f : Team → Team) : (s.modTeam n f).host = s.host := rfl
@[simp] theorem modTeam_work_threads (n : Nat) (f : Team → Team) : (s.modTeam n f).work.threads = s.work.threads := rfl
@[simp] theorem modTeam_work_cohorts (n : Nat) (f : Team → Team) : (s.modTeam n f).work.cohorts = s.work.cohorts := rfl
@[simp] theorem modTeam_work_lcohs (n : Nat) (f : Team → Team) : (s.modTeam n f).work.lcohs = s.work.lcohs := rfl
@[simp] theorem modTeam_work_launches (n : Nat) (f : Team → Team) : (s.modTeam n f).work.launches = s.work.launches := rfl
@[simp] theorem modTeam_work_teams (n : Nat) (f : Team → Team) : (s.modTeam n f).work.teams = amodify s.work.teams n f := rfl
@[simp] theorem modTeam_work_plans (n : Nat) (f : Team → Team) : (s.modTeam n f).work.plans = s.work.plans := rfl
@[simp] theorem modTeam_work_queues (n : Nat) (f : Team → Team) : (s.modTeam n f).work.queues = s.work.queues := rfl
@[simp] theorem modTeam_work_since (n : Nat) (f : Team → Team) : (s.modTeam n f).work.since = s.work.since := rfl
@[simp] theorem modTeam_work_reassigned (n : Nat) (f : Team → Team) : (s.modTeam n f).work.reassigned = s.work.reassigned := rfl
@[simp] theorem modTeam_work_notes (n : Nat) (f : Team → Team) : (s.modTeam n f).work.notes = s.work.notes := rfl
@[simp] theorem modTeam_work_released (n : Nat) (f : Team → Team) : (s.modTeam n f).work.released = s.work.released := rfl

@[simp] theorem modPlan_sched (n : Nat) (f : Plan → Plan) : (s.modPlan n f).sched = s.sched := rfl
@[simp] theorem modPlan_cores (n : Nat) (f : Plan → Plan) : (s.modPlan n f).cores = s.cores := rfl
@[simp] theorem modPlan_mem (n : Nat) (f : Plan → Plan) : (s.modPlan n f).mem = s.mem := rfl
@[simp] theorem modPlan_surf (n : Nat) (f : Plan → Plan) : (s.modPlan n f).surf = s.surf := rfl
@[simp] theorem modPlan_draw (n : Nat) (f : Plan → Plan) : (s.modPlan n f).draw = s.draw := rfl
@[simp] theorem modPlan_cfg (n : Nat) (f : Plan → Plan) : (s.modPlan n f).cfg = s.cfg := rfl
@[simp] theorem modPlan_host (n : Nat) (f : Plan → Plan) : (s.modPlan n f).host = s.host := rfl
@[simp] theorem modPlan_work_threads (n : Nat) (f : Plan → Plan) : (s.modPlan n f).work.threads = s.work.threads := rfl
@[simp] theorem modPlan_work_cohorts (n : Nat) (f : Plan → Plan) : (s.modPlan n f).work.cohorts = s.work.cohorts := rfl
@[simp] theorem modPlan_work_lcohs (n : Nat) (f : Plan → Plan) : (s.modPlan n f).work.lcohs = s.work.lcohs := rfl
@[simp] theorem modPlan_work_launches (n : Nat) (f : Plan → Plan) : (s.modPlan n f).work.launches = s.work.launches := rfl
@[simp] theorem modPlan_work_teams (n : Nat) (f : Plan → Plan) : (s.modPlan n f).work.teams = s.work.teams := rfl
@[simp] theorem modPlan_work_plans (n : Nat) (f : Plan → Plan) : (s.modPlan n f).work.plans = amodify s.work.plans n f := rfl
@[simp] theorem modPlan_work_queues (n : Nat) (f : Plan → Plan) : (s.modPlan n f).work.queues = s.work.queues := rfl
@[simp] theorem modPlan_work_since (n : Nat) (f : Plan → Plan) : (s.modPlan n f).work.since = s.work.since := rfl
@[simp] theorem modPlan_work_reassigned (n : Nat) (f : Plan → Plan) : (s.modPlan n f).work.reassigned = s.work.reassigned := rfl
@[simp] theorem modPlan_work_notes (n : Nat) (f : Plan → Plan) : (s.modPlan n f).work.notes = s.work.notes := rfl
@[simp] theorem modPlan_work_released (n : Nat) (f : Plan → Plan) : (s.modPlan n f).work.released = s.work.released := rfl

@[simp] theorem modMem_sched (f : Mem → Mem) : (s.modMem f).sched = s.sched := rfl
@[simp] theorem modMem_work (f : Mem → Mem) : (s.modMem f).work = s.work := rfl
@[simp] theorem modMem_cores (f : Mem → Mem) : (s.modMem f).cores = s.cores := rfl
@[simp] theorem modMem_mem (f : Mem → Mem) : (s.modMem f).mem = f s.mem := rfl
@[simp] theorem modMem_surf (f : Mem → Mem) : (s.modMem f).surf = s.surf := rfl
@[simp] theorem modMem_draw (f : Mem → Mem) : (s.modMem f).draw = s.draw := rfl
@[simp] theorem modMem_cfg (f : Mem → Mem) : (s.modMem f).cfg = s.cfg := rfl
@[simp] theorem modMem_host (f : Mem → Mem) : (s.modMem f).host = s.host := rfl

@[simp] theorem modHost_sched (f : HostSt → HostSt) : (s.modHost f).sched = s.sched := rfl
@[simp] theorem modHost_work (f : HostSt → HostSt) : (s.modHost f).work = s.work := rfl
@[simp] theorem modHost_cores (f : HostSt → HostSt) : (s.modHost f).cores = s.cores := rfl
@[simp] theorem modHost_mem (f : HostSt → HostSt) : (s.modHost f).mem = s.mem := rfl
@[simp] theorem modHost_surf (f : HostSt → HostSt) : (s.modHost f).surf = s.surf := rfl
@[simp] theorem modHost_draw (f : HostSt → HostSt) : (s.modHost f).draw = s.draw := rfl
@[simp] theorem modHost_cfg (f : HostSt → HostSt) : (s.modHost f).cfg = s.cfg := rfl
@[simp] theorem modHost_host (f : HostSt → HostSt) : (s.modHost f).host = f s.host := rfl

@[simp] theorem modSched_sched (f : Sched → Sched) : (s.modSched f).sched = f s.sched := rfl
@[simp] theorem modSched_work (f : Sched → Sched) : (s.modSched f).work = s.work := rfl
@[simp] theorem modSched_cores (f : Sched → Sched) : (s.modSched f).cores = s.cores := rfl
@[simp] theorem modSched_mem (f : Sched → Sched) : (s.modSched f).mem = s.mem := rfl
@[simp] theorem modSched_surf (f : Sched → Sched) : (s.modSched f).surf = s.surf := rfl
@[simp] theorem modSched_draw (f : Sched → Sched) : (s.modSched f).draw = s.draw := rfl
@[simp] theorem modSched_cfg (f : Sched → Sched) : (s.modSched f).cfg = s.cfg := rfl
@[simp] theorem modSched_host (f : Sched → Sched) : (s.modSched f).host = s.host := rfl

end Sys2Proof.Machine.State
end

