-- ==== Sys2Proof/Laws/Maps.lean ====
section
/-! SUPPORT. Maps by number, and the records of the state read back after an update. -/

namespace Sys2Proof.Machine

section Maps
variable {β : Type}

@[simp] theorem alookup_nil (n : Nat) : alookup ([] : AMap β) n = none := rfl

@[simp] theorem alookup_ainsert (m : AMap β) (n : Nat) (v : β) (k : Nat) :
    alookup (ainsert m n v) k = if k = n then some v else alookup m k := by
  induction m with
  | nil => simp [ainsert, alookup]
  | cons x r ih =>
    obtain ⟨j, w⟩ := x
    simp only [ainsert]
    split
    · subst j; simp only [alookup]; split <;> rfl
    · split
      · simp only [alookup]
      · simp only [alookup, ih]
        by_cases h : k = j <;> by_cases h2 : k = n <;> simp_all

theorem alookup_aerase_ne (m : AMap β) {n k : Nat} (h : k ≠ n) : alookup (aerase m n) k = alookup m k := by
  induction m with
  | nil => rfl
  | cons x r ih =>
    obtain ⟨j, w⟩ := x
    simp only [aerase]
    split
    · subst j; simp only [alookup, if_neg h, ih]
    · simp only [alookup, ih]

theorem alookup_aerase_self (m : AMap β) (n : Nat) : alookup (aerase m n) n = none := by
  induction m with
  | nil => rfl
  | cons x r ih =>
    obtain ⟨j, w⟩ := x
    simp only [aerase]
    split
    · exact ih
    · next e => simp only [alookup, if_neg e]; exact ih

@[simp] theorem alookup_aerase (m : AMap β) (n k : Nat) : alookup (aerase m n) k = if k = n then none else alookup m k := by
  split
  · next h => subst h; exact alookup_aerase_self m _
  · next h => exact alookup_aerase_ne m h

@[simp] theorem alookup_amodify (m : AMap β) (n : Nat) (f : β → β) (k : Nat) :
    alookup (amodify m n f) k = if k = n then (alookup m n).map f else alookup m k := by
  unfold amodify
  split
  · next v hv => simp only [alookup_ainsert, hv, Option.map_some]
  · next hn =>
    split
    · subst k; simp [hn]
    · rfl

/-- Changing the values of a map changes what a look-up finds. -/
theorem alookup_map {γ : Type} (m : AMap β) (f : Nat → β → γ) (k : Nat) :
    alookup (m.map fun x => (x.1, f x.1 x.2)) k = (alookup m k).map (f k) := by
  induction m with
  | nil => rfl
  | cons x r ih =>
    obtain ⟨j, w⟩ := x
    simp only [List.map_cons, alookup, ih]
    split
    · next h => subst h; rfl
    · rfl

theorem rising_nil : Rising ([] : AMap β) := List.Pairwise.nil

theorem rising_cons {x : Nat × β} {m : AMap β} : Rising (x :: m) ↔ (∀ y ∈ m, x.1 < y.1) ∧ Rising m := by
  simp [Rising, List.pairwise_cons]

theorem mem_keys_ainsert {m : AMap β} {n : Nat} {v : β} {y : Nat × β} (h : y ∈ ainsert m n v) : y = (n, v) ∨ y ∈ m := by
  induction m with
  | nil => simpa [ainsert] using h
  | cons x r ih =>
    obtain ⟨j, w⟩ := x
    simp only [ainsert] at h
    split at h
    · rcases List.mem_cons.1 h with h | h
      · exact .inl h
      · exact .inr (List.mem_cons_of_mem _ h)
    · split at h
      · rcases List.mem_cons.1 h with h | h
        · exact .inl h
        · exact .inr h
      · rcases List.mem_cons.1 h with h | h
        · exact .inr (h ▸ List.mem_cons_self ..)
        · rcases ih h with h | h
          · exact .inl h
          · exact .inr (List.mem_cons_of_mem _ h)

theorem rising_ainsert {m : AMap β} {n : Nat} {v : β} (h : Rising m) : Rising (ainsert m n v) := by
  induction m with
  | nil => simp [ainsert, Rising]
  | cons x r ih =>
    obtain ⟨j, w⟩ := x
    have ⟨h1, h2⟩ := rising_cons.1 h
    simp only [ainsert]
    split
    · next e => subst e; exact rising_cons.2 ⟨h1, h2⟩
    · split
      · next e1 e2 =>
        refine rising_cons.2 ⟨fun y hy => ?_, h⟩
        rcases List.mem_cons.1 hy with rfl | hy
        · exact e2
        · exact Nat.lt_trans e2 (h1 y hy)
      · next e1 e2 =>
        refine rising_cons.2 ⟨fun y hy => ?_, ih h2⟩
        rcases mem_keys_ainsert hy with rfl | hy
        · simp only; omega
        · exact h1 y hy

theorem mem_aerase {m : AMap β} {n : Nat} {y : Nat × β} (h : y ∈ aerase m n) : y ∈ m := by
  induction m with
  | nil => exact h
  | cons x r ih =>
    obtain ⟨j, w⟩ := x
    simp only [aerase] at h
    split at h
    · exact List.mem_cons_of_mem _ (ih h)
    · rcases List.mem_cons.1 h with h | h
      · exact h ▸ List.mem_cons_self ..
      · exact List.mem_cons_of_mem _ (ih h)

theorem rising_aerase {m : AMap β} {n : Nat} (h : Rising m) : Rising (aerase m n) := by
  induction m with
  | nil => exact h
  | cons x r ih =>
    obtain ⟨j, w⟩ := x
    have ⟨h1, h2⟩ := rising_cons.1 h
    simp only [aerase]
    split
    · exact ih h2
    · exact rising_cons.2 ⟨fun y hy => h1 y (mem_aerase hy), ih h2⟩

theorem alookup_of_lt {m : AMap β} {n : Nat} (h : ∀ y ∈ m, n < y.1) : alookup m n = none := by
  induction m with
  | nil => rfl
  | cons x r ih =>
    obtain ⟨j, w⟩ := x
    have hj : n < j := h (j, w) (List.mem_cons_self ..)
    simp only [alookup]
    rw [if_neg (by omega)]
    exact ih fun y hy => h y (List.mem_cons_of_mem _ hy)

end Maps

section Records
variable (s : State)

@[simp] theorem core_setCore (u : Nat) (c : Core) (v : Nat) : (s.setCore u c).core v = if v = u then c else s.core v := by
  simp only [State.core, State.setCore, alookup_ainsert]; split <;> rfl

@[simp] theorem core_modCore (u : Nat) (f : Core → Core) (v : Nat) :
    (s.modCore u f).core v = if v = u then f (s.core u) else s.core v := by
  simp only [State.modCore, core_setCore]

@[simp] theorem thread_modThread (n : Nat) (f : Thread → Thread) (k : Nat) :
    (s.modThread n f).thread k = if k = n then ((alookup s.work.threads n).map f).getD .nil else s.thread k := by
  simp only [State.thread, State.modThread, alookup_amodify]; split <;> rfl

@[simp] theorem cohort?_modCohort (n : Nat) (f : Cohort → Cohort) (k : Nat) :
    (s.modCohort n f).cohort? k = if k = n then (s.cohort? n).map f else s.cohort? k := by
  simp only [State.cohort?, State.modCohort, alookup_amodify]

@[simp] theorem cohort_modCohort (n : Nat) (f : Cohort → Cohort) (k : Nat) :
    (s.modCohort n f).cohort k = if k = n then ((s.cohort? n).map f).getD .nil else s.cohort k := by
  simp only [State.cohort, cohort?_modCohort]; split <;> rfl

@[simp] theorem team_modTeam (n : Nat) (f : Team → Team) (k : Nat) :
    (s.modTeam n f).team k = if k = n then ((alookup s.work.teams n).map f).getD .nil else s.team k := by
  simp only [State.team, State.modTeam, alookup_amodify]; split <;> rfl

@[simp] theorem launch_modLaunch (n : Nat) (f : Launch → Launch) (k : Nat) :
    (s.modLaunch n f).launch k = if k = n then ((alookup s.work.launches n).map f).getD .nil else s.launch k := by
  simp only [State.launch, State.modLaunch, alookup_amodify]; split <;> rfl

@[simp] theorem plan_modPlan (n : Nat) (f : Plan → Plan) (k : Nat) :
    (s.modPlan n f).plan k = if k = n then ((alookup s.work.plans n).map f).getD .nil else s.plan k := by
  simp only [State.plan, State.modPlan, alookup_amodify]; split <;> rfl

end Records

end Sys2Proof.Machine
end

