-- ==== Sys2Proof/Laws/Records.lean ====
section
/-! SUPPORT. Records that an update of another kind leaves as they are. -/

namespace Sys2Proof.Machine
variable (s : State)

@[simp] theorem core_modThread (n : Nat) (f : Thread → Thread) (k : Nat) : (s.modThread n f).core k = s.core k := rfl
@[simp] theorem core_modCohort (n : Nat) (f : Cohort → Cohort) (k : Nat) : (s.modCohort n f).core k = s.core k := rfl
@[simp] theorem core_setCohort (n : Nat) (v : Cohort) (k : Nat) : (s.setCohort n v).core k = s.core k := rfl
@[simp] theorem core_dropCohort (n : Nat) (k : Nat) : (s.dropCohort n).core k = s.core k := rfl
@[simp] theorem core_modLcoh (n : Nat) (f : LaunchCohort → LaunchCohort) (k : Nat) : (s.modLcoh n f).core k = s.core k := rfl
@[simp] theorem core_modLaunch (n : Nat) (f : Launch → Launch) (k : Nat) : (s.modLaunch n f).core k = s.core k := rfl
@[simp] theorem core_modTeam (n : Nat) (f : Team → Team) (k : Nat) : (s.modTeam n f).core k = s.core k := rfl
@[simp] theorem core_modPlan (n : Nat) (f : Plan → Plan) (k : Nat) : (s.modPlan n f).core k = s.core k := rfl
@[simp] theorem core_modMem (f : Mem → Mem) (k : Nat) : (s.modMem f).core k = s.core k := rfl
@[simp] theorem core_modHost (f : HostSt → HostSt) (k : Nat) : (s.modHost f).core k = s.core k := rfl
@[simp] theorem core_modSched (f : Sched → Sched) (k : Nat) : (s.modSched f).core k = s.core k := rfl

@[simp] theorem thread_setCore (u : Nat) (c : Core) (k : Nat) : (s.setCore u c).thread k = s.thread k := rfl
@[simp] theorem thread_modCore (u : Nat) (f : Core → Core) (k : Nat) : (s.modCore u f).thread k = s.thread k := rfl
@[simp] theorem thread_modCohort (n : Nat) (f : Cohort → Cohort) (k : Nat) : (s.modCohort n f).thread k = s.thread k := rfl
@[simp] theorem thread_setCohort (n : Nat) (v : Cohort) (k : Nat) : (s.setCohort n v).thread k = s.thread k := rfl
@[simp] theorem thread_dropCohort (n : Nat) (k : Nat) : (s.dropCohort n).thread k = s.thread k := rfl
@[simp] theorem thread_modLcoh (n : Nat) (f : LaunchCohort → LaunchCohort) (k : Nat) : (s.modLcoh n f).thread k = s.thread k := rfl
@[simp] theorem thread_modLaunch (n : Nat) (f : Launch → Launch) (k : Nat) : (s.modLaunch n f).thread k = s.thread k := rfl
@[simp] theorem thread_modTeam (n : Nat) (f : Team → Team) (k : Nat) : (s.modTeam n f).thread k = s.thread k := rfl
@[simp] theorem thread_modPlan (n : Nat) (f : Plan → Plan) (k : Nat) : (s.modPlan n f).thread k = s.thread k := rfl
@[simp] theorem thread_modMem (f : Mem → Mem) (k : Nat) : (s.modMem f).thread k = s.thread k := rfl
@[simp] theorem thread_modHost (f : HostSt → HostSt) (k : Nat) : (s.modHost f).thread k = s.thread k := rfl
@[simp] theorem thread_modSched (f : Sched → Sched) (k : Nat) : (s.modSched f).thread k = s.thread k := rfl

@[simp] theorem cohort?_setCore (u : Nat) (c : Core) (k : Nat) : (s.setCore u c).cohort? k = s.cohort? k := rfl
@[simp] theorem cohort?_modCore (u : Nat) (f : Core → Core) (k : Nat) : (s.modCore u f).cohort? k = s.cohort? k := rfl
@[simp] theorem cohort?_modThread (n : Nat) (f : Thread → Thread) (k : Nat) : (s.modThread n f).cohort? k = s.cohort? k := rfl
@[simp] theorem cohort?_modLcoh (n : Nat) (f : LaunchCohort → LaunchCohort) (k : Nat) : (s.modLcoh n f).cohort? k = s.cohort? k := rfl
@[simp] theorem cohort?_modLaunch (n : Nat) (f : Launch → Launch) (k : Nat) : (s.modLaunch n f).cohort? k = s.cohort? k := rfl
@[simp] theorem cohort?_modTeam (n : Nat) (f : Team → Team) (k : Nat) : (s.modTeam n f).cohort? k = s.cohort? k := rfl
@[simp] theorem cohort?_modPlan (n : Nat) (f : Plan → Plan) (k : Nat) : (s.modPlan n f).cohort? k = s.cohort? k := rfl
@[simp] theorem cohort?_modMem (f : Mem → Mem) (k : Nat) : (s.modMem f).cohort? k = s.cohort? k := rfl
@[simp] theorem cohort?_modHost (f : HostSt → HostSt) (k : Nat) : (s.modHost f).cohort? k = s.cohort? k := rfl
@[simp] theorem cohort?_modSched (f : Sched → Sched) (k : Nat) : (s.modSched f).cohort? k = s.cohort? k := rfl

@[simp] theorem cohort_setCore (u : Nat) (c : Core) (k : Nat) : (s.setCore u c).cohort k = s.cohort k := rfl
@[simp] theorem cohort_modCore (u : Nat) (f : Core → Core) (k : Nat) : (s.modCore u f).cohort k = s.cohort k := rfl
@[simp] theorem cohort_modThread (n : Nat) (f : Thread → Thread) (k : Nat) : (s.modThread n f).cohort k = s.cohort k := rfl
@[simp] theorem cohort_modLcoh (n : Nat) (f : LaunchCohort → LaunchCohort) (k : Nat) : (s.modLcoh n f).cohort k = s.cohort k := rfl
@[simp] theorem cohort_modLaunch (n : Nat) (f : Launch → Launch) (k : Nat) : (s.modLaunch n f).cohort k = s.cohort k := rfl
@[simp] theorem cohort_modTeam (n : Nat) (f : Team → Team) (k : Nat) : (s.modTeam n f).cohort k = s.cohort k := rfl
@[simp] theorem cohort_modPlan (n : Nat) (f : Plan → Plan) (k : Nat) : (s.modPlan n f).cohort k = s.cohort k := rfl
@[simp] theorem cohort_modMem (f : Mem → Mem) (k : Nat) : (s.modMem f).cohort k = s.cohort k := rfl
@[simp] theorem cohort_modHost (f : HostSt → HostSt) (k : Nat) : (s.modHost f).cohort k = s.cohort k := rfl
@[simp] theorem cohort_modSched (f : Sched → Sched) (k : Nat) : (s.modSched f).cohort k = s.cohort k := rfl

@[simp] theorem team_setCore (u : Nat) (c : Core) (k : Nat) : (s.setCore u c).team k = s.team k := rfl
@[simp] theorem team_modCore (u : Nat) (f : Core → Core) (k : Nat) : (s.modCore u f).team k = s.team k := rfl
@[simp] theorem team_modThread (n : Nat) (f : Thread → Thread) (k : Nat) : (s.modThread n f).team k = s.team k := rfl
@[simp] theorem team_modCohort (n : Nat) (f : Cohort → Cohort) (k : Nat) : (s.modCohort n f).team k = s.team k := rfl
@[simp] theorem team_setCohort (n : Nat) (v : Cohort) (k : Nat) : (s.setCohort n v).team k = s.team k := rfl
@[simp] theorem team_dropCohort (n : Nat) (k : Nat) : (s.dropCohort n).team k = s.team k := rfl
@[simp] theorem team_modLcoh (n : Nat) (f : LaunchCohort → LaunchCohort) (k : Nat) : (s.modLcoh n f).team k = s.team k := rfl
@[simp] theorem team_modLaunch (n : Nat) (f : Launch → Launch) (k : Nat) : (s.modLaunch n f).team k = s.team k := rfl
@[simp] theorem team_modPlan (n : Nat) (f : Plan → Plan) (k : Nat) : (s.modPlan n f).team k = s.team k := rfl
@[simp] theorem team_modMem (f : Mem → Mem) (k : Nat) : (s.modMem f).team k = s.team k := rfl
@[simp] theorem team_modHost (f : HostSt → HostSt) (k : Nat) : (s.modHost f).team k = s.team k := rfl
@[simp] theorem team_modSched (f : Sched → Sched) (k : Nat) : (s.modSched f).team k = s.team k := rfl

@[simp] theorem launch_setCore (u : Nat) (c : Core) (k : Nat) : (s.setCore u c).launch k = s.launch k := rfl
@[simp] theorem launch_modCore (u : Nat) (f : Core → Core) (k : Nat) : (s.modCore u f).launch k = s.launch k := rfl
@[simp] theorem launch_modThread (n : Nat) (f : Thread → Thread) (k : Nat) : (s.modThread n f).launch k = s.launch k := rfl
@[simp] theorem launch_modCohort (n : Nat) (f : Cohort → Cohort) (k : Nat) : (s.modCohort n f).launch k = s.launch k := rfl
@[simp] theorem launch_setCohort (n : Nat) (v : Cohort) (k : Nat) : (s.setCohort n v).launch k = s.launch k := rfl
@[simp] theorem launch_dropCohort (n : Nat) (k : Nat) : (s.dropCohort n).launch k = s.launch k := rfl
@[simp] theorem launch_modLcoh (n : Nat) (f : LaunchCohort → LaunchCohort) (k : Nat) : (s.modLcoh n f).launch k = s.launch k := rfl
@[simp] theorem launch_modTeam (n : Nat) (f : Team → Team) (k : Nat) : (s.modTeam n f).launch k = s.launch k := rfl
@[simp] theorem launch_modPlan (n : Nat) (f : Plan → Plan) (k : Nat) : (s.modPlan n f).launch k = s.launch k := rfl
@[simp] theorem launch_modMem (f : Mem → Mem) (k : Nat) : (s.modMem f).launch k = s.launch k := rfl
@[simp] theorem launch_modHost (f : HostSt → HostSt) (k : Nat) : (s.modHost f).launch k = s.launch k := rfl
@[simp] theorem launch_modSched (f : Sched → Sched) (k : Nat) : (s.modSched f).launch k = s.launch k := rfl

@[simp] theorem plan_setCore (u : Nat) (c : Core) (k : Nat) : (s.setCore u c).plan k = s.plan k := rfl
@[simp] theorem plan_modCore (u : Nat) (f : Core → Core) (k : Nat) : (s.modCore u f).plan k = s.plan k := rfl
@[simp] theorem plan_modThread (n : Nat) (f : Thread → Thread) (k : Nat) : (s.modThread n f).plan k = s.plan k := rfl
@[simp] theorem plan_modCohort (n : Nat) (f : Cohort → Cohort) (k : Nat) : (s.modCohort n f).plan k = s.plan k := rfl
@[simp] theorem plan_setCohort (n : Nat) (v : Cohort) (k : Nat) : (s.setCohort n v).plan k = s.plan k := rfl
@[simp] theorem plan_dropCohort (n : Nat) (k : Nat) : (s.dropCohort n).plan k = s.plan k := rfl
@[simp] theorem plan_modLcoh (n : Nat) (f : LaunchCohort → LaunchCohort) (k : Nat) : (s.modLcoh n f).plan k = s.plan k := rfl
@[simp] theorem plan_modLaunch (n : Nat) (f : Launch → Launch) (k : Nat) : (s.modLaunch n f).plan k = s.plan k := rfl
@[simp] theorem plan_modTeam (n : Nat) (f : Team → Team) (k : Nat) : (s.modTeam n f).plan k = s.plan k := rfl
@[simp] theorem plan_modMem (f : Mem → Mem) (k : Nat) : (s.modMem f).plan k = s.plan k := rfl
@[simp] theorem plan_modHost (f : HostSt → HostSt) (k : Nat) : (s.modHost f).plan k = s.plan k := rfl
@[simp] theorem plan_modSched (f : Sched → Sched) (k : Nat) : (s.modSched f).plan k = s.plan k := rfl

@[simp] theorem lcoh_setCore (u : Nat) (c : Core) (k : Nat) : (s.setCore u c).lcoh k = s.lcoh k := rfl
@[simp] theorem lcoh_modCore (u : Nat) (f : Core → Core) (k : Nat) : (s.modCore u f).lcoh k = s.lcoh k := rfl
@[simp] theorem lcoh_modThread (n : Nat) (f : Thread → Thread) (k : Nat) : (s.modThread n f).lcoh k = s.lcoh k := rfl
@[simp] theorem lcoh_modCohort (n : Nat) (f : Cohort → Cohort) (k : Nat) : (s.modCohort n f).lcoh k = s.lcoh k := rfl
@[simp] theorem lcoh_setCohort (n : Nat) (v : Cohort) (k : Nat) : (s.setCohort n v).lcoh k = s.lcoh k := rfl
@[simp] theorem lcoh_dropCohort (n : Nat) (k : Nat) : (s.dropCohort n).lcoh k = s.lcoh k := rfl
@[simp] theorem lcoh_modLaunch (n : Nat) (f : Launch → Launch) (k : Nat) : (s.modLaunch n f).lcoh k = s.lcoh k := rfl
@[simp] theorem lcoh_modTeam (n : Nat) (f : Team → Team) (k : Nat) : (s.modTeam n f).lcoh k = s.lcoh k := rfl
@[simp] theorem lcoh_modPlan (n : Nat) (f : Plan → Plan) (k : Nat) : (s.modPlan n f).lcoh k = s.lcoh k := rfl
@[simp] theorem lcoh_modMem (f : Mem → Mem) (k : Nat) : (s.modMem f).lcoh k = s.lcoh k := rfl
@[simp] theorem lcoh_modHost (f : HostSt → HostSt) (k : Nat) : (s.modHost f).lcoh k = s.lcoh k := rfl
@[simp] theorem lcoh_modSched (f : Sched → Sched) (k : Nat) : (s.modSched f).lcoh k = s.lcoh k := rfl

end Sys2Proof.Machine
end

