-- ==== Sys2Proof/Laws/Issue.lean ====
section
/-! SUPPORT. What the issue of a word does: its checks, its writes, its marks, and the move of the PC. -/

namespace Sys2Proof.Machine

/-- A word whose checks pass has the outcome of its effect. -/
theorem withPrep_go {s : State} {a : Acc} {r : Ready} (h : prep s a = .go r) (f : Ready → Eff) :
    withPrep s a f = (f r).out s r.id a.len := by
  simp [withPrep, h, Prep.run]

/-- A word whose checks pass and whose effect succeeds answers the effect's state. -/
theorem withPrep_ok {s t : State} {a : Acc} {r : Ready} {f : Ready → Eff} (h : prep s a = .go r) (hf : f r = .ok t) :
    withPrep s a f = .next t := by
  simp [withPrep_go h, hf, Eff.out]

/-- A word whose effect traps takes the trap in the state before it. -/
theorem withPrep_trap {s : State} {a : Acc} {r : Ready} {f : Ready → Eff} {code : TrapCode} {i : TrapInfo}
    (h : prep s a = .go r) (hf : f r = .trap code i) : withPrep s a f = .next (takeTrap s r.id a.len code i) := by
  simp [withPrep_go h, hf, Eff.out]

theorem passCheck_go {s : State} {id : Nat} {c : Cohort} {ths : List Nat} {b : Option (Nat × Nat × Nat)} {r : Ready}
    (h : passCheck s id c ths b = .go r) : r = ⟨id, ths, []⟩ := by
  unfold passCheck at h
  split at h
  · cases h; rfl
  · dsimp only at h
    repeat' split at h
    all_goals first
      | contradiction
      | (cases h; rfl)

theorem checkFor_go_id {s : State} {id : Nat} {c : Cohort} {a : Acc} {r : Ready} (h : checkFor s id c a = .go r) :
    r = ⟨id, executing s c a, []⟩ := by
  unfold checkFor at h
  dsimp only at h
  repeat' split at h
  all_goals first
    | contradiction
    | exact passCheck_go h

/-- The checks behind a served passback operand leave the cohort and its executing threads. -/
theorem rowCheck_go {s : State} {c : Cohort} {a : Acc} {p : Prep} {r : Ready} (h : rowCheck s c a p = .go r) :
    ∃ r0, p = .go r0 ∧ r.id = r0.id ∧ r.ths = r0.ths := by
  unfold rowCheck at h
  split at h
  · next r0 =>
    split at h
    · contradiction
    · split at h
      · contradiction
      · cases h; exact ⟨r0, rfl, rfl, rfl⟩
  · next hp => exact absurd h (hp r)

/-- What issues is the issuing cohort, and what executes are its threads whose guard holds (R67). -/
theorem prep_go {s : State} {a : Acc} {r : Ready} (h : prep s a = .go r) :
    ∃ c, s.sched.cur = some r.id ∧ s.cohort? r.id = some c ∧ r.ths = executing s c a := by
  unfold prep at h
  split at h
  · contradiction
  · next id hid =>
    split at h
    · contradiction
    · next c hc =>
      unfold prepFor at h
      split at h
      · dsimp only at h
        repeat' split at h
        all_goals contradiction
      · obtain ⟨r0, h0, hi, ht⟩ := rowCheck_go h
        have := checkFor_go_id h0
        subst this
        obtain ⟨_, _, _⟩ := r
        cases hi
        exact ⟨c, hid, hc, ht⟩

theorem prep_go_cohort {s : State} {a : Acc} {r : Ready} (h : prep s a = .go r) :
    s.cohort? r.id = some (s.cohort r.id) := by
  obtain ⟨c, _, hc, _⟩ := prep_go h
  simp [State.cohort, hc]

section Folds
variable {α : Type}

/-- A fold keeps what each of its steps keeps. -/
theorem foldl_keeps {σ : Type} {P : σ → Prop} {f : σ → α → σ} (hf : ∀ s x, P s → P (f s x)) (l : List α) {s : σ} (h : P s) :
    P (l.foldl f s) := by
  induction l generalizing s with
  | nil => exact h
  | cons x r ih => exact ih (hf s x h)

/-- A fold leaves unchanged what each of its steps leaves unchanged. -/
theorem foldl_same {σ β : Type} (g : σ → β) {f : σ → α → σ} (hf : ∀ s x, g (f s x) = g s) (l : List α) (s : σ) :
    g (l.foldl f s) = g s := by
  induction l generalizing s with
  | nil => rfl
  | cons x r ih => rw [List.foldl_cons, ih, hf]

/-- The same over the elements of the list. -/
theorem foldl_same_mem {σ β : Type} (g : σ → β) {f : σ → α → σ} (l : List α) (hf : ∀ s, ∀ x ∈ l, g (f s x) = g s) (s : σ) :
    g (l.foldl f s) = g s := by
  induction l generalizing s with
  | nil => rfl
  | cons x r ih =>
    rw [List.foldl_cons, ih (fun s y hy => hf s y (List.mem_cons_of_mem _ hy)), hf s x (List.mem_cons_self ..)]

end Folds

section Threads
variable (s : State)

/-- Changing threads one after another leaves all but the threads. -/
theorem foldl_modThread {α : Type} (k : α → Nat) (f : α → Thread → Thread) (l : List α) :
    ∃ m, l.foldl (fun s x => s.modThread (k x) (f x)) s = { s with work := { s.work with threads := m } } := by
  induction l generalizing s with
  | nil => exact ⟨s.work.threads, rfl⟩
  | cons x r ih =>
    obtain ⟨m, hm⟩ := ih (s.modThread (k x) (f x))
    exact ⟨m, by rw [List.foldl_cons, hm]; rfl⟩

/-- A thread that a fold does not name stays as it is. -/
theorem thread_foldl_modThread_ne {α : Type} (k : α → Nat) (f : α → Thread → Thread) (l : List α) (t : Nat)
    (h : ∀ x ∈ l, k x ≠ t) : (l.foldl (fun s x => s.modThread (k x) (f x)) s).thread t = s.thread t := by
  induction l generalizing s with
  | nil => rfl
  | cons x r ih =>
    rw [List.foldl_cons, ih _ fun y hy => h y (List.mem_cons_of_mem _ hy), thread_modThread,
      if_neg fun e => h x (List.mem_cons_self ..) e.symm]

/-- A thread that exists goes on existing. -/
theorem isSome_amodify {β : Type} (m : AMap β) (n : Nat) (f : β → β) (k : Nat) :
    (alookup (amodify m n f) k).isSome = (alookup m k).isSome := by
  rw [alookup_amodify]; split
  · next h => subst h; simp
  · rfl

theorem isSome_foldl_modThread {α : Type} (k : α → Nat) (f : α → Thread → Thread) (l : List α) (t : Nat) :
    (alookup (l.foldl (fun s x => s.modThread (k x) (f x)) s).work.threads t).isSome = (alookup s.work.threads t).isSome := by
  induction l generalizing s with
  | nil => rfl
  | cons x r ih => rw [List.foldl_cons, ih, State.modThread_work_threads, isSome_amodify]

/-- A property of one thread that every step of a fold keeps. -/
theorem thread_foldl_modThread {α : Type} (P : Thread → Prop) (k : α → Nat) (f : α → Thread → Thread) (l : List α) (t : Nat)
    (ht : (alookup s.work.threads t).isSome) (hp : P (s.thread t)) (hf : ∀ x ∈ l, ∀ th, P th → P (f x th)) :
    P ((l.foldl (fun s x => s.modThread (k x) (f x)) s).thread t) := by
  induction l generalizing s with
  | nil => exact hp
  | cons x r ih =>
    rw [List.foldl_cons]
    refine ih _ ?_ ?_ fun y hy => hf y (List.mem_cons_of_mem _ hy)
    · rw [State.modThread_work_threads, isSome_amodify]; exact ht
    · rw [thread_modThread]
      split
      · next e =>
        subst e
        obtain ⟨v, hv⟩ := Option.isSome_iff_exists.1 ht
        have : s.thread (k x) = v := by simp [State.thread, hv]
        rw [this] at hp
        simpa [hv] using hf x (List.mem_cons_self ..) v hp
      · exact hp

end Threads

section Commit
variable (s : State) (r : Ready) (a : Acc) (ws : List (Nat × Pend))

theorem marked_eq (ths : List Nat) :
    ∃ m, marked s ths a = { s with work := { s.work with threads := m } } := foldl_modThread s _ _ _

theorem addWrites_eq : ∃ m, addWrites s ws = { s with work := { s.work with threads := m } } :=
  foldl_modThread s Prod.fst (fun x th => { th with writes := th.writes ++ [x.2] }) ws

theorem issued_eq (id : Nat) :
    ∃ co cs sc, issued s id a = { s with work := { s.work with cohorts := co }, cores := cs, sched := sc } := ⟨_, _, _, rfl⟩

/-- A word's issue changes threads, its cohort, the cores' current cohorts and the model's own scheduling only. -/
theorem commit_eq :
    ∃ th co cs sc, commit s r a ws = { s with work := { s.work with threads := th, cohorts := co }, cores := cs, sched := sc } := by
  obtain ⟨m1, h1⟩ := marked_eq s a r.ths
  obtain ⟨m2, h2⟩ := addWrites_eq (marked s r.ths a) ws
  obtain ⟨co, cs, sc, h3⟩ := issued_eq (addWrites (marked s r.ths a) ws) a r.id
  exact ⟨_, _, _, _, by unfold commit applyMarks; rw [h3, h2, h1]⟩

@[simp] theorem commit_mem : (commit s r a ws).mem = s.mem := by obtain ⟨_, _, _, _, h⟩ := commit_eq s r a ws; rw [h]
@[simp] theorem commit_surf : (commit s r a ws).surf = s.surf := by obtain ⟨_, _, _, _, h⟩ := commit_eq s r a ws; rw [h]
@[simp] theorem commit_draw : (commit s r a ws).draw = s.draw := by obtain ⟨_, _, _, _, h⟩ := commit_eq s r a ws; rw [h]
@[simp] theorem commit_cfg : (commit s r a ws).cfg = s.cfg := by obtain ⟨_, _, _, _, h⟩ := commit_eq s r a ws; rw [h]
@[simp] theorem commit_host : (commit s r a ws).host = s.host := by obtain ⟨_, _, _, _, h⟩ := commit_eq s r a ws; rw [h]

/-- A core keeps everything but the number of its current cohorts. -/
theorem core_issued (id u : Nat) : ∃ m, (issued s id a).core u = { s.core u with current := m } := by
  simp only [issued, core_modSched, core_modCore, core_modCohort]
  split
  · next h => subst h; exact ⟨_, rfl⟩
  · exact ⟨_, rfl⟩

theorem core_commit (u : Nat) : ∃ m, (commit s r a ws).core u = { s.core u with current := m } := by
  obtain ⟨m1, h1⟩ := marked_eq s a r.ths
  obtain ⟨m2, h2⟩ := addWrites_eq (marked s r.ths a) ws
  obtain ⟨m, h⟩ := core_issued (addWrites (marked s r.ths a) ws) a r.id u
  refine ⟨m, ?_⟩
  unfold commit applyMarks
  rw [h, h2, h1]
  rfl

@[simp] theorem cohort?_marked (ths : List Nat) (k : Nat) : (marked s ths a).cohort? k = s.cohort? k := by
  obtain ⟨m, h⟩ := marked_eq s a ths; rw [h]; rfl
@[simp] theorem cohort?_addWrites (k : Nat) : (addWrites s ws).cohort? k = s.cohort? k := by
  obtain ⟨m, h⟩ := addWrites_eq s ws; rw [h]; rfl
@[simp] theorem thread_issued (id k : Nat) : (issued s id a).thread k = s.thread k := rfl

/-- The other cohorts stay as they are. -/
theorem cohort?_commit_ne {k : Nat} (h : k ≠ r.id) : (commit s r a ws).cohort? k = s.cohort? k := by
  unfold commit applyMarks issued
  simp [h]

/-- The cohort that issues moves past the word (R248, R255), its registers, groups and threads as they were. -/
theorem cohort_commit (h : s.cohort? r.id = some (s.cohort r.id)) :
    ∃ i m, (commit s r a ws).cohort r.id = { s.cohort r.id with
      pc := pcAdd (s.cohort r.id).pc a.len, nextIssue := s.sched.clk + 1 + a.st, issued := i, capMark := m, wait := .none,
      pushed := 0 } := by
  have hc : (addWrites (marked s r.ths a) ws).cohort? r.id = some (s.cohort r.id) := by simp [h]
  have hk : (addWrites (marked s r.ths a) ws).sched.clk = s.sched.clk := by
    obtain ⟨m1, h1⟩ := marked_eq s a r.ths
    obtain ⟨m2, h2⟩ := addWrites_eq (marked s r.ths a) ws
    rw [h2, h1]
  have hc' : (addWrites (marked s r.ths a) ws).cohort r.id = s.cohort r.id := by simp [State.cohort, hc]
  unfold commit applyMarks issued
  simp only [cohort_modSched, cohort_modCore, cohort_modCohort, if_true, hc, Option.map_some, Option.getD_some, hc', hk]
  exact ⟨_, _, rfl⟩

theorem cohort?_commit (h : s.cohort? r.id = some (s.cohort r.id)) :
    (commit s r a ws).cohort? r.id = some ((commit s r a ws).cohort r.id) := by
  have hc : (addWrites (marked s r.ths a) ws).cohort? r.id = some (s.cohort r.id) := by simp [h]
  unfold commit applyMarks issued
  simp [State.cohort, hc]

/-- The threads that do not execute stay as they are. -/
theorem thread_commit_ne {t : Nat} (h : t ∉ r.ths) (hw : ∀ x ∈ ws, x.1 ≠ t) : (commit s r a ws).thread t = s.thread t := by
  unfold commit applyMarks
  rw [thread_issued, addWrites, thread_foldl_modThread_ne _ Prod.fst (fun x th => { th with writes := th.writes ++ [x.2] }) ws t hw,
    marked, thread_foldl_modThread_ne _ (fun x => x) _ r.ths t fun x hx e => h (e ▸ hx)]

theorem isSome_marked (ths : List Nat) (t : Nat) :
    (alookup (marked s ths a).work.threads t).isSome = (alookup s.work.threads t).isSome :=
  isSome_foldl_modThread s (fun x => x) _ ths t

/-- A write of the list is outstanding. -/
theorem mem_writes_addWrites {t : Nat} {p : Pend} (ht : (alookup s.work.threads t).isSome) (hp : (t, p) ∈ ws) :
    p ∈ ((addWrites s ws).thread t).writes := by
  induction ws generalizing s with
  | nil => cases hp
  | cons x l ih =>
    have ht' : (alookup (s.modThread x.1 fun th => { th with writes := th.writes ++ [x.2] }).work.threads t).isSome := by
      rw [State.modThread_work_threads, isSome_amodify]; exact ht
    rcases List.mem_cons.1 hp with h | h
    · subst h
      refine thread_foldl_modThread (s.modThread t fun th => { th with writes := th.writes ++ [p] })
        (fun th => p ∈ th.writes) Prod.fst (fun x th => { th with writes := th.writes ++ [x.2] }) l t ht' ?_ ?_
      · obtain ⟨v, hv⟩ := Option.isSome_iff_exists.1 ht
        simp [hv]
      · intro y _ th h1
        exact List.mem_append_left _ h1
    · exact ih _ ht' h

theorem mem_writes_commit {t : Nat} {p : Pend} (ht : (alookup s.work.threads t).isSome) (hp : (t, p) ∈ ws) :
    p ∈ ((commit s r a ws).thread t).writes := by
  unfold commit applyMarks
  rw [thread_issued]
  exact mem_writes_addWrites _ _ (by rw [isSome_marked]; exact ht) hp

theorem clk_commit : (commit s r a ws).sched.clk = s.sched.clk := by
  obtain ⟨m1, h1⟩ := marked_eq s a r.ths
  obtain ⟨m2, h2⟩ := addWrites_eq (marked s r.ths a) ws
  unfold commit applyMarks issued
  rw [h2, h1]
  rfl

end Commit

end Sys2Proof.Machine
end

