-- ==== Sys2Proof/Laws/Memory.lean ====
section
/-! SUPPORT. Memory read back after a write, and its canonical form, which every memory operation keeps. -/

namespace Sys2Proof.Machine

theorem Memory.wf_iff (m : Memory) : m.wf ↔ Rising m ∧ ∀ x ∈ m, x.2 ≠ 0 := by
  induction m with
  | nil => simp [Memory.wf, Rising]
  | cons x r ih => simp [Memory.wf, rising_cons, ih]; exact ⟨fun ⟨⟨a, b⟩, c, d⟩ => ⟨⟨a, c⟩, b, d⟩, fun ⟨⟨a, c⟩, b, d⟩ => ⟨⟨a, b⟩, c, d⟩⟩

@[simp] theorem Memory.wf_nil : Memory.wf ([] : Memory) := rfl

theorem Memory.wf_put {m : Memory} (h : m.wf) (a : Nat) (b : Byte) : (m.put a b).wf := by
  rw [Memory.wf_iff] at *
  unfold Memory.put
  split
  · exact ⟨rising_aerase h.1, fun x hx => h.2 x (mem_aerase hx)⟩
  · next hb =>
    refine ⟨rising_ainsert h.1, fun x hx => ?_⟩
    rcases mem_keys_ainsert hx with rfl | hx
    · exact hb
    · exact h.2 x hx

theorem Memory.wf_putBytes {m : Memory} (h : m.wf) (a : Nat) (l : List Byte) : (m.putBytes a l).wf := by
  induction l generalizing m a with
  | nil => exact h
  | cons b r ih => exact ih (Memory.wf_put h a b) (a + 1)

theorem Memory.wf_filter {m : Memory} (h : m.wf) (p : Nat × Byte → Bool) : Memory.wf (m.filter p) := by
  rw [Memory.wf_iff] at *
  refine ⟨?_, fun x hx => h.2 x (List.mem_filter.1 hx).1⟩
  unfold Rising at *
  exact List.Pairwise.sublist (List.Sublist.map _ List.filter_sublist) h.1

theorem Memory.wf_clear {m : Memory} (h : m.wf) (a n : Nat) : (m.clear a n).wf := Memory.wf_filter h _

/-- A byte read back. -/
theorem Memory.get_put {m : Memory} (h : m.wf) (a : Nat) (b : Byte) (k : Nat) :
    (m.put a b).get k = if k = a then b else m.get k := by
  have hr := ((Memory.wf_iff m).1 h).1
  unfold Memory.get Memory.put
  by_cases hk : k = a
  · subst hk
    split
    · next hb => simp [hb]
    · simp
  · split
    · simp [alookup_aerase_ne m hk]
    · simp [hk]

theorem Memory.get_putBytes_out {m : Memory} (h : m.wf) (a : Nat) (l : List Byte) (k : Nat)
    (hk : k < a ∨ a + l.length ≤ k) : (m.putBytes a l).get k = m.get k := by
  induction l generalizing m a with
  | nil => rfl
  | cons b r ih =>
    simp only [List.length_cons] at hk
    simp only [Memory.putBytes]
    rw [ih (Memory.wf_put h a b) (a + 1) (by omega), Memory.get_put h, if_neg (by omega)]

theorem Memory.get_putBytes_in {m : Memory} (h : m.wf) (a : Nat) (l : List Byte) (i : Nat) (hi : i < l.length) :
    (m.putBytes a l).get (a + i) = l[i] := by
  induction l generalizing m a i with
  | nil => simp at hi
  | cons b r ih =>
    simp only [Memory.putBytes]
    cases i with
    | zero =>
      rw [Memory.get_putBytes_out (Memory.wf_put h a b) _ _ _ (by omega), Memory.get_put h]
      simp
    | succ j =>
      simp only [List.length_cons] at hi
      have := ih (Memory.wf_put h a b) (a + 1) j (by omega)
      simpa [Nat.add_assoc, Nat.add_comm 1 j] using this

theorem Memory.bytes_length (m : Memory) (a n : Nat) : (m.bytes a n).length = n := by
  induction n generalizing a with
  | zero => rfl
  | succ n ih => simp [Memory.bytes, ih]

theorem Memory.bytes_get (m : Memory) (a n i : Nat) (h : i < n) :
    (m.bytes a n)[i]'(by rw [Memory.bytes_length]; exact h) = m.get (a + i) := by
  induction n generalizing a i with
  | zero => omega
  | succ n ih =>
    cases i with
    | zero => simp [Memory.bytes]
    | succ j =>
      have := ih (a + 1) j (by omega)
      simp only [Memory.bytes, List.getElem_cons_succ, this]
      congr 1
      omega

/-- What has been written is what is read. -/
theorem Memory.bytes_putBytes {m : Memory} (h : m.wf) (a : Nat) (l : List Byte) :
    (m.putBytes a l).bytes a l.length = l := by
  apply List.ext_getElem (by rw [Memory.bytes_length])
  intro i h1 h2
  rw [Memory.bytes_get _ _ _ _ h2, Memory.get_putBytes_in h _ _ _ h2]

/-- Equal reads make equal memories: the form is canonical. -/
theorem Memory.ext_get {m n : Memory} (hm : m.wf) (hn : n.wf) (h : ∀ a, m.get a = n.get a) : m = n := by
  rw [Memory.wf_iff] at hm hn
  induction m generalizing n with
  | nil =>
    cases n with
    | nil => rfl
    | cons y s =>
      have h1 := h y.1
      have h2 := hn.2 y (List.mem_cons_self ..)
      simp [Memory.get, alookup] at h1
      exact absurd h1.symm h2
  | cons x r ih =>
    obtain ⟨hx, hr⟩ := rising_cons.1 hm.1
    have hx0 := hm.2 x (List.mem_cons_self ..)
    cases n with
    | nil =>
      have h1 := h x.1
      simp [Memory.get, alookup] at h1
      exact absurd h1 hx0
    | cons y t =>
      obtain ⟨hy, ht⟩ := rising_cons.1 hn.1
      have hy0 := hn.2 y (List.mem_cons_self ..)
      have hk : x.1 = y.1 := by
        rcases Nat.lt_trichotomy x.1 y.1 with hlt | he | hlt
        · have h1 := h x.1
          have h2 : alookup t x.1 = none := alookup_of_lt fun z hz => Nat.lt_trans hlt (hy z hz)
          have h3 : x.1 ≠ y.1 := Nat.ne_of_lt hlt
          simp [Memory.get, alookup, h3, h2] at h1
          exact absurd h1 hx0
        · exact he
        · have h1 := h y.1
          have h2 : alookup r y.1 = none := alookup_of_lt fun z hz => Nat.lt_trans hlt (hx z hz)
          have h3 : y.1 ≠ x.1 := Nat.ne_of_lt hlt
          simp [Memory.get, alookup, h3, h2] at h1
          exact absurd h1.symm hy0
      have hv : x.2 = y.2 := by
        have h1 := h x.1
        simpa [Memory.get, alookup, hk] using h1
      have hxy : x = y := Prod.ext hk hv
      subst hxy
      congr 1
      have key : ∀ a, Memory.get r a = Memory.get t a := fun a => by
        have h1 := h a
        by_cases ha : a = x.1
        · subst ha
          simp [Memory.get, alookup_of_lt hx, alookup_of_lt hy]
        · simpa [Memory.get, alookup, ha] using h1
      exact ih ⟨hr, fun z hz => hm.2 z (List.mem_cons_of_mem _ hz)⟩
        ⟨ht, fun z hz => hn.2 z (List.mem_cons_of_mem _ hz)⟩ key

end Sys2Proof.Machine
end

