-- ==== Sys2Proof/Laws/PerInstr.lean ====
section
/-! SUPPORT. Per instruction: the length code in the first word of its encoding counts the words of the encoding. -/

open Sys2Proof

/-- The length code of a word's first encoding word says how many words it has (R241, R248). -/
def Sys2Proof.Laws.Code.Statement (i : Instr) : Prop :=
  i.isWord = true → (encode i).length = formLength ((encode i).headD 0 >>> 30).toNat

theorem Sys2Proof.word0_length (l : BitVec 2) (st : BitVec 3) (cls : BitVec 2) (op : Nat) (low : BitVec 17) :
    (word0 l st cls op low).toNat >>> 30 = l.toNat := by
  have h : word0 l st cls op low >>> 30 = l.setWidth 32 := by
    unfold word0
    ext k hk
    simp only [BitVec.getElem_ushiftRight, BitVec.getLsbD_append, BitVec.getElem_setWidth]
    by_cases h2 : k < 2
    · have h1 : ¬ 30 + k < 17 := by omega
      have h3 : ¬ 30 + k - 17 < 8 := by omega
      have h4 : ¬ 30 + k - 17 - 8 < 2 := by omega
      have h5 : ¬ 30 + k - 17 - 8 - 2 < 3 := by omega
      simp only [h1, h3, h4, h5, if_false]
      congr 1
      omega
    · have h1 : ¬ 30 + k < 17 := by omega
      have h3 : ¬ 30 + k - 17 < 8 := by omega
      have h4 : ¬ 30 + k - 17 - 8 < 2 := by omega
      have h5 : ¬ 30 + k - 17 - 8 - 2 < 3 := by omega
      simp only [h1, h3, h4, h5, if_false]
      rw [BitVec.getLsbD_of_ge _ _ (by omega), BitVec.getLsbD_of_ge _ _ (by omega)]
  have h2 := congrArg BitVec.toNat h
  rw [BitVec.toNat_ushiftRight, BitVec.toNat_setWidth, Nat.mod_eq_of_lt (by omega)] at h2
  exact h2

/-- The lemma holds by the shape of the instruction alone. -/
theorem Sys2Proof.encode_length (i : Instr) : Sys2Proof.Laws.Code.Statement i := by
  unfold Sys2Proof.Laws.Code.Statement
  intro h
  unfold encode
  cases hs : i.shape with
  | event => simp [Instr.isWord, hs] at h
  | base op o => simp [word0_length, formLength]
  | ctlB op st low => simp [word0_length, formLength]
  | pair p => simp [PairOps.words, word0_length, formLength]
  | alu op f => cases f <;> simp [word0_length, formLength, Ext.words12, litWords]
  | ext cls op f => cases hl : f.lit <;> simp [hl, word0_length, formLength, Ext.words12, litWords]

theorem Sys2Proof.Laws.Code.addBase (o : BaseOps) : Sys2Proof.Laws.Code.Statement (.addBase o) := encode_length _
theorem Sys2Proof.Laws.Code.add (f : AluForm) : Sys2Proof.Laws.Code.Statement (.add f) := encode_length _
theorem Sys2Proof.Laws.Code.subBase (o : BaseOps) : Sys2Proof.Laws.Code.Statement (.subBase o) := encode_length _
theorem Sys2Proof.Laws.Code.sub (f : AluForm) : Sys2Proof.Laws.Code.Statement (.sub f) := encode_length _
theorem Sys2Proof.Laws.Code.mulBase (o : BaseOps) : Sys2Proof.Laws.Code.Statement (.mulBase o) := encode_length _
theorem Sys2Proof.Laws.Code.mul (f : AluForm) : Sys2Proof.Laws.Code.Statement (.mul f) := encode_length _
theorem Sys2Proof.Laws.Code.mulhiBase (o : BaseOps) : Sys2Proof.Laws.Code.Statement (.mulhiBase o) := encode_length _
theorem Sys2Proof.Laws.Code.mulhi (f : AluForm) : Sys2Proof.Laws.Code.Statement (.mulhi f) := encode_length _
theorem Sys2Proof.Laws.Code.mad (f : AluForm) : Sys2Proof.Laws.Code.Statement (.mad f) := encode_length _
theorem Sys2Proof.Laws.Code.madw (f : AluForm) : Sys2Proof.Laws.Code.Statement (.madw f) := encode_length _
theorem Sys2Proof.Laws.Code.absBase (o : BaseOps) : Sys2Proof.Laws.Code.Statement (.absBase o) := encode_length _
theorem Sys2Proof.Laws.Code.abs (f : AluForm) : Sys2Proof.Laws.Code.Statement (.abs f) := encode_length _
theorem Sys2Proof.Laws.Code.minBase (o : BaseOps) : Sys2Proof.Laws.Code.Statement (.minBase o) := encode_length _
theorem Sys2Proof.Laws.Code.min (f : AluForm) : Sys2Proof.Laws.Code.Statement (.min f) := encode_length _
theorem Sys2Proof.Laws.Code.maxBase (o : BaseOps) : Sys2Proof.Laws.Code.Statement (.maxBase o) := encode_length _
theorem Sys2Proof.Laws.Code.max (f : AluForm) : Sys2Proof.Laws.Code.Statement (.max f) := encode_length _
theorem Sys2Proof.Laws.Code.addwBase (o : BaseOps) : Sys2Proof.Laws.Code.Statement (.addwBase o) := encode_length _
theorem Sys2Proof.Laws.Code.addw (f : AluForm) : Sys2Proof.Laws.Code.Statement (.addw f) := encode_length _
theorem Sys2Proof.Laws.Code.subwBase (o : BaseOps) : Sys2Proof.Laws.Code.Statement (.subwBase o) := encode_length _
theorem Sys2Proof.Laws.Code.subw (f : AluForm) : Sys2Proof.Laws.Code.Statement (.subw f) := encode_length _
theorem Sys2Proof.Laws.Code.cvti (f : AluForm) : Sys2Proof.Laws.Code.Statement (.cvti f) := encode_length _
theorem Sys2Proof.Laws.Code.andBase (o : BaseOps) : Sys2Proof.Laws.Code.Statement (.andBase o) := encode_length _
theorem Sys2Proof.Laws.Code.and (f : AluForm) : Sys2Proof.Laws.Code.Statement (.and f) := encode_length _
theorem Sys2Proof.Laws.Code.orBase (o : BaseOps) : Sys2Proof.Laws.Code.Statement (.orBase o) := encode_length _
theorem Sys2Proof.Laws.Code.or (f : AluForm) : Sys2Proof.Laws.Code.Statement (.or f) := encode_length _
theorem Sys2Proof.Laws.Code.xorBase (o : BaseOps) : Sys2Proof.Laws.Code.Statement (.xorBase o) := encode_length _
theorem Sys2Proof.Laws.Code.xor (f : AluForm) : Sys2Proof.Laws.Code.Statement (.xor f) := encode_length _
theorem Sys2Proof.Laws.Code.andnBase (o : BaseOps) : Sys2Proof.Laws.Code.Statement (.andnBase o) := encode_length _
theorem Sys2Proof.Laws.Code.andn (f : AluForm) : Sys2Proof.Laws.Code.Statement (.andn f) := encode_length _
theorem Sys2Proof.Laws.Code.shlBase (o : BaseOps) : Sys2Proof.Laws.Code.Statement (.shlBase o) := encode_length _
theorem Sys2Proof.Laws.Code.shl (f : AluForm) : Sys2Proof.Laws.Code.Statement (.shl f) := encode_length _
theorem Sys2Proof.Laws.Code.shrBase (o : BaseOps) : Sys2Proof.Laws.Code.Statement (.shrBase o) := encode_length _
theorem Sys2Proof.Laws.Code.shr (f : AluForm) : Sys2Proof.Laws.Code.Statement (.shr f) := encode_length _
theorem Sys2Proof.Laws.Code.sarBase (o : BaseOps) : Sys2Proof.Laws.Code.Statement (.sarBase o) := encode_length _
theorem Sys2Proof.Laws.Code.sar (f : AluForm) : Sys2Proof.Laws.Code.Statement (.sar f) := encode_length _
theorem Sys2Proof.Laws.Code.rotBase (o : BaseOps) : Sys2Proof.Laws.Code.Statement (.rotBase o) := encode_length _
theorem Sys2Proof.Laws.Code.rot (f : AluForm) : Sys2Proof.Laws.Code.Statement (.rot f) := encode_length _
theorem Sys2Proof.Laws.Code.fsh (f : AluForm) : Sys2Proof.Laws.Code.Statement (.fsh f) := encode_length _
theorem Sys2Proof.Laws.Code.bfx (f : AluForm) : Sys2Proof.Laws.Code.Statement (.bfx f) := encode_length _
theorem Sys2Proof.Laws.Code.bfi (f : AluForm) : Sys2Proof.Laws.Code.Statement (.bfi f) := encode_length _
theorem Sys2Proof.Laws.Code.pcntBase (o : BaseOps) : Sys2Proof.Laws.Code.Statement (.pcntBase o) := encode_length _
theorem Sys2Proof.Laws.Code.pcnt (f : AluForm) : Sys2Proof.Laws.Code.Statement (.pcnt f) := encode_length _
theorem Sys2Proof.Laws.Code.clzBase (o : BaseOps) : Sys2Proof.Laws.Code.Statement (.clzBase o) := encode_length _
theorem Sys2Proof.Laws.Code.clz (f : AluForm) : Sys2Proof.Laws.Code.Statement (.clz f) := encode_length _
theorem Sys2Proof.Laws.Code.brevBase (o : BaseOps) : Sys2Proof.Laws.Code.Statement (.brevBase o) := encode_length _
theorem Sys2Proof.Laws.Code.brev (f : AluForm) : Sys2Proof.Laws.Code.Statement (.brev f) := encode_length _
theorem Sys2Proof.Laws.Code.cmp (f : AluForm) : Sys2Proof.Laws.Code.Statement (.cmp f) := encode_length _
theorem Sys2Proof.Laws.Code.sel (f : AluForm) : Sys2Proof.Laws.Code.Statement (.sel f) := encode_length _
theorem Sys2Proof.Laws.Code.movBase (o : BaseOps) : Sys2Proof.Laws.Code.Statement (.movBase o) := encode_length _
theorem Sys2Proof.Laws.Code.mov (f : AluForm) : Sys2Proof.Laws.Code.Statement (.mov f) := encode_length _
theorem Sys2Proof.Laws.Code.movl (f : AluForm) : Sys2Proof.Laws.Code.Statement (.movl f) := encode_length _
theorem Sys2Proof.Laws.Code.plop (f : AluForm) : Sys2Proof.Laws.Code.Statement (.plop f) := encode_length _
theorem Sys2Proof.Laws.Code.faddBase (o : BaseOps) : Sys2Proof.Laws.Code.Statement (.faddBase o) := encode_length _
theorem Sys2Proof.Laws.Code.fadd (f : AluForm) : Sys2Proof.Laws.Code.Statement (.fadd f) := encode_length _
theorem Sys2Proof.Laws.Code.fsubBase (o : BaseOps) : Sys2Proof.Laws.Code.Statement (.fsubBase o) := encode_length _
theorem Sys2Proof.Laws.Code.fsub (f : AluForm) : Sys2Proof.Laws.Code.Statement (.fsub f) := encode_length _
theorem Sys2Proof.Laws.Code.fmulBase (o : BaseOps) : Sys2Proof.Laws.Code.Statement (.fmulBase o) := encode_length _
theorem Sys2Proof.Laws.Code.fmul (f : AluForm) : Sys2Proof.Laws.Code.Statement (.fmul f) := encode_length _
theorem Sys2Proof.Laws.Code.ffma (f : AluForm) : Sys2Proof.Laws.Code.Statement (.ffma f) := encode_length _
theorem Sys2Proof.Laws.Code.fminBase (o : BaseOps) : Sys2Proof.Laws.Code.Statement (.fminBase o) := encode_length _
theorem Sys2Proof.Laws.Code.fmin (f : AluForm) : Sys2Proof.Laws.Code.Statement (.fmin f) := encode_length _
theorem Sys2Proof.Laws.Code.fmaxBase (o : BaseOps) : Sys2Proof.Laws.Code.Statement (.fmaxBase o) := encode_length _
theorem Sys2Proof.Laws.Code.fmax (f : AluForm) : Sys2Proof.Laws.Code.Statement (.fmax f) := encode_length _
theorem Sys2Proof.Laws.Code.fcmp (f : AluForm) : Sys2Proof.Laws.Code.Statement (.fcmp f) := encode_length _
theorem Sys2Proof.Laws.Code.frnd (f : AluForm) : Sys2Proof.Laws.Code.Statement (.frnd f) := encode_length _
theorem Sys2Proof.Laws.Code.fclass (f : AluForm) : Sys2Proof.Laws.Code.Statement (.fclass f) := encode_length _
theorem Sys2Proof.Laws.Code.fdivBase (o : BaseOps) : Sys2Proof.Laws.Code.Statement (.fdivBase o) := encode_length _
theorem Sys2Proof.Laws.Code.fdiv (f : AluForm) : Sys2Proof.Laws.Code.Statement (.fdiv f) := encode_length _
theorem Sys2Proof.Laws.Code.frcpBase (o : BaseOps) : Sys2Proof.Laws.Code.Statement (.frcpBase o) := encode_length _
theorem Sys2Proof.Laws.Code.frcp (f : AluForm) : Sys2Proof.Laws.Code.Statement (.frcp f) := encode_length _
theorem Sys2Proof.Laws.Code.frsqBase (o : BaseOps) : Sys2Proof.Laws.Code.Statement (.frsqBase o) := encode_length _
theorem Sys2Proof.Laws.Code.frsq (f : AluForm) : Sys2Proof.Laws.Code.Statement (.frsq f) := encode_length _
theorem Sys2Proof.Laws.Code.fsqrtBase (o : BaseOps) : Sys2Proof.Laws.Code.Statement (.fsqrtBase o) := encode_length _
theorem Sys2Proof.Laws.Code.fsqrt (f : AluForm) : Sys2Proof.Laws.Code.Statement (.fsqrt f) := encode_length _
theorem Sys2Proof.Laws.Code.fex2Base (o : BaseOps) : Sys2Proof.Laws.Code.Statement (.fex2Base o) := encode_length _
theorem Sys2Proof.Laws.Code.fex2 (f : AluForm) : Sys2Proof.Laws.Code.Statement (.fex2 f) := encode_length _
theorem Sys2Proof.Laws.Code.flg2Base (o : BaseOps) : Sys2Proof.Laws.Code.Statement (.flg2Base o) := encode_length _
theorem Sys2Proof.Laws.Code.flg2 (f : AluForm) : Sys2Proof.Laws.Code.Statement (.flg2 f) := encode_length _
theorem Sys2Proof.Laws.Code.fsinpiBase (o : BaseOps) : Sys2Proof.Laws.Code.Statement (.fsinpiBase o) := encode_length _
theorem Sys2Proof.Laws.Code.fsinpi (f : AluForm) : Sys2Proof.Laws.Code.Statement (.fsinpi f) := encode_length _
theorem Sys2Proof.Laws.Code.fcospiBase (o : BaseOps) : Sys2Proof.Laws.Code.Statement (.fcospiBase o) := encode_length _
theorem Sys2Proof.Laws.Code.fcospi (f : AluForm) : Sys2Proof.Laws.Code.Statement (.fcospi f) := encode_length _
theorem Sys2Proof.Laws.Code.hadd2Base (o : BaseOps) : Sys2Proof.Laws.Code.Statement (.hadd2Base o) := encode_length _
theorem Sys2Proof.Laws.Code.hadd2 (f : AluForm) : Sys2Proof.Laws.Code.Statement (.hadd2 f) := encode_length _
theorem Sys2Proof.Laws.Code.hmul2Base (o : BaseOps) : Sys2Proof.Laws.Code.Statement (.hmul2Base o) := encode_length _
theorem Sys2Proof.Laws.Code.hmul2 (f : AluForm) : Sys2Proof.Laws.Code.Statement (.hmul2 f) := encode_length _
theorem Sys2Proof.Laws.Code.hfma2 (f : AluForm) : Sys2Proof.Laws.Code.Statement (.hfma2 f) := encode_length _
theorem Sys2Proof.Laws.Code.hmin2Base (o : BaseOps) : Sys2Proof.Laws.Code.Statement (.hmin2Base o) := encode_length _
theorem Sys2Proof.Laws.Code.hmin2 (f : AluForm) : Sys2Proof.Laws.Code.Statement (.hmin2 f) := encode_length _
theorem Sys2Proof.Laws.Code.hmax2Base (o : BaseOps) : Sys2Proof.Laws.Code.Statement (.hmax2Base o) := encode_length _
theorem Sys2Proof.Laws.Code.hmax2 (f : AluForm) : Sys2Proof.Laws.Code.Statement (.hmax2 f) := encode_length _
theorem Sys2Proof.Laws.Code.bfma2 (f : AluForm) : Sys2Proof.Laws.Code.Statement (.bfma2 f) := encode_length _
theorem Sys2Proof.Laws.Code.cvt (f : AluForm) : Sys2Proof.Laws.Code.Statement (.cvt f) := encode_length _
theorem Sys2Proof.Laws.Code.pack (f : AluForm) : Sys2Proof.Laws.Code.Statement (.pack f) := encode_length _
theorem Sys2Proof.Laws.Code.unpack (f : AluForm) : Sys2Proof.Laws.Code.Statement (.unpack f) := encode_length _
theorem Sys2Proof.Laws.Code.dp4o (f : AluForm) : Sys2Proof.Laws.Code.Statement (.dp4o f) := encode_length _
theorem Sys2Proof.Laws.Code.dp8o (f : AluForm) : Sys2Proof.Laws.Code.Statement (.dp8o f) := encode_length _
theorem Sys2Proof.Laws.Code.dp2h (f : AluForm) : Sys2Proof.Laws.Code.Statement (.dp2h f) := encode_length _
theorem Sys2Proof.Laws.Code.xseat (f : AluForm) : Sys2Proof.Laws.Code.Statement (.xseat f) := encode_length _
theorem Sys2Proof.Laws.Code.xshf (f : AluForm) : Sys2Proof.Laws.Code.Statement (.xshf f) := encode_length _
theorem Sys2Proof.Laws.Code.vote (f : AluForm) : Sys2Proof.Laws.Code.Statement (.vote f) := encode_length _
theorem Sys2Proof.Laws.Code.redo (f : AluForm) : Sys2Proof.Laws.Code.Statement (.redo f) := encode_length _
theorem Sys2Proof.Laws.Code.scano (f : AluForm) : Sys2Proof.Laws.Code.Statement (.scano f) := encode_length _
theorem Sys2Proof.Laws.Code.v2s (f : AluForm) : Sys2Proof.Laws.Code.Statement (.v2s f) := encode_length _
theorem Sys2Proof.Laws.Code.pairWord (p : PairOps) : Sys2Proof.Laws.Code.Statement (.pairWord p) := encode_length _
theorem Sys2Proof.Laws.Code.nopBase (st : BitVec 3) : Sys2Proof.Laws.Code.Statement (.nopBase st) := encode_length _
theorem Sys2Proof.Laws.Code.nop (f : ExtForm) : Sys2Proof.Laws.Code.Statement (.nop f) := encode_length _
theorem Sys2Proof.Laws.Code.braBase (st : BitVec 3) (off : BitVec 17) : Sys2Proof.Laws.Code.Statement (.braBase st off) := encode_length _
theorem Sys2Proof.Laws.Code.bra (f : ExtForm) : Sys2Proof.Laws.Code.Statement (.bra f) := encode_length _
theorem Sys2Proof.Laws.Code.brc (f : ExtForm) : Sys2Proof.Laws.Code.Statement (.brc f) := encode_length _
theorem Sys2Proof.Laws.Code.bri (f : ExtForm) : Sys2Proof.Laws.Code.Statement (.bri f) := encode_length _
theorem Sys2Proof.Laws.Code.loop (f : ExtForm) : Sys2Proof.Laws.Code.Statement (.loop f) := encode_length _
theorem Sys2Proof.Laws.Code.callBase (st : BitVec 3) (off : BitVec 17) : Sys2Proof.Laws.Code.Statement (.callBase st off) := encode_length _
theorem Sys2Proof.Laws.Code.call (f : ExtForm) : Sys2Proof.Laws.Code.Statement (.call f) := encode_length _
theorem Sys2Proof.Laws.Code.callo (f : ExtForm) : Sys2Proof.Laws.Code.Statement (.callo f) := encode_length _
theorem Sys2Proof.Laws.Code.retBase (st : BitVec 3) : Sys2Proof.Laws.Code.Statement (.retBase st) := encode_length _
theorem Sys2Proof.Laws.Code.ret (f : ExtForm) : Sys2Proof.Laws.Code.Statement (.ret f) := encode_length _
theorem Sys2Proof.Laws.Code.exitBase (st : BitVec 3) : Sys2Proof.Laws.Code.Statement (.exitBase st) := encode_length _
theorem Sys2Proof.Laws.Code.exit (f : ExtForm) : Sys2Proof.Laws.Code.Statement (.exit f) := encode_length _
theorem Sys2Proof.Laws.Code.reformBase (st : BitVec 3) : Sys2Proof.Laws.Code.Statement (.reformBase st) := encode_length _
theorem Sys2Proof.Laws.Code.reform (f : ExtForm) : Sys2Proof.Laws.Code.Statement (.reform f) := encode_length _
theorem Sys2Proof.Laws.Code.region (f : ExtForm) : Sys2Proof.Laws.Code.Statement (.region f) := encode_length _
theorem Sys2Proof.Laws.Code.pass (f : ExtForm) : Sys2Proof.Laws.Code.Statement (.pass f) := encode_length _
theorem Sys2Proof.Laws.Code.wait (f : ExtForm) : Sys2Proof.Laws.Code.Statement (.wait f) := encode_length _
theorem Sys2Proof.Laws.Code.waitUntil (f : ExtForm) : Sys2Proof.Laws.Code.Statement (.waitUntil f) := encode_length _
theorem Sys2Proof.Laws.Code.waitDrain (f : ExtForm) : Sys2Proof.Laws.Code.Statement (.waitDrain f) := encode_length _
theorem Sys2Proof.Laws.Code.yieldBase (st : BitVec 3) : Sys2Proof.Laws.Code.Statement (.yieldBase st) := encode_length _
theorem Sys2Proof.Laws.Code.yield (f : ExtForm) : Sys2Proof.Laws.Code.Statement (.yield f) := encode_length _
theorem Sys2Proof.Laws.Code.trap (f : ExtForm) : Sys2Proof.Laws.Code.Statement (.trap f) := encode_length _
theorem Sys2Proof.Laws.Code.bkptBase (st : BitVec 3) (code : BitVec 16) : Sys2Proof.Laws.Code.Statement (.bkptBase st code) := encode_length _
theorem Sys2Proof.Laws.Code.bkpt (f : ExtForm) : Sys2Proof.Laws.Code.Statement (.bkpt f) := encode_length _
theorem Sys2Proof.Laws.Code.ovld (f : ExtForm) : Sys2Proof.Laws.Code.Statement (.ovld f) := encode_length _
theorem Sys2Proof.Laws.Code.ovpin (f : ExtForm) : Sys2Proof.Laws.Code.Statement (.ovpin f) := encode_length _
theorem Sys2Proof.Laws.Code.ovunpin (f : ExtForm) : Sys2Proof.Laws.Code.Statement (.ovunpin f) := encode_length _
theorem Sys2Proof.Laws.Code.ovevict (f : ExtForm) : Sys2Proof.Laws.Code.Statement (.ovevict f) := encode_length _
theorem Sys2Proof.Laws.Code.ovqry (f : ExtForm) : Sys2Proof.Laws.Code.Statement (.ovqry f) := encode_length _
theorem Sys2Proof.Laws.Code.free (f : ExtForm) : Sys2Proof.Laws.Code.Statement (.free f) := encode_length _
theorem Sys2Proof.Laws.Code.rsrv (f : ExtForm) : Sys2Proof.Laws.Code.Statement (.rsrv f) := encode_length _
theorem Sys2Proof.Laws.Code.rdspc (f : ExtForm) : Sys2Proof.Laws.Code.Statement (.rdspc f) := encode_length _
theorem Sys2Proof.Laws.Code.wrspc (f : ExtForm) : Sys2Proof.Laws.Code.Statement (.wrspc f) := encode_length _
theorem Sys2Proof.Laws.Code.dwrd (f : ExtForm) : Sys2Proof.Laws.Code.Statement (.dwrd f) := encode_length _
theorem Sys2Proof.Laws.Code.dwwr (f : ExtForm) : Sys2Proof.Laws.Code.Statement (.dwwr f) := encode_length _
theorem Sys2Proof.Laws.Code.cresume (f : ExtForm) : Sys2Proof.Laws.Code.Statement (.cresume f) := encode_length _
theorem Sys2Proof.Laws.Code.cresumeSkip (f : ExtForm) : Sys2Proof.Laws.Code.Statement (.cresumeSkip f) := encode_length _
theorem Sys2Proof.Laws.Code.cresumePc (f : ExtForm) : Sys2Proof.Laws.Code.Statement (.cresumePc f) := encode_length _
theorem Sys2Proof.Laws.Code.cresumePlan (f : ExtForm) : Sys2Proof.Laws.Code.Statement (.cresumePlan f) := encode_length _
theorem Sys2Proof.Laws.Code.ckill (f : ExtForm) : Sys2Proof.Laws.Code.Statement (.ckill f) := encode_length _
theorem Sys2Proof.Laws.Code.ckillTeam (f : ExtForm) : Sys2Proof.Laws.Code.Statement (.ckillTeam f) := encode_length _
theorem Sys2Proof.Laws.Code.ckillPlan (f : ExtForm) : Sys2Proof.Laws.Code.Statement (.ckillPlan f) := encode_length _
theorem Sys2Proof.Laws.Code.cpreemptPlan (f : ExtForm) : Sys2Proof.Laws.Code.Statement (.cpreemptPlan f) := encode_length _
theorem Sys2Proof.Laws.Code.cpreemptCore (f : ExtForm) : Sys2Proof.Laws.Code.Statement (.cpreemptCore f) := encode_length _
theorem Sys2Proof.Laws.Code.cpreemptQueue (f : ExtForm) : Sys2Proof.Laws.Code.Statement (.cpreemptQueue f) := encode_length _
theorem Sys2Proof.Laws.Code.tlbflPage (f : ExtForm) : Sys2Proof.Laws.Code.Statement (.tlbflPage f) := encode_length _
theorem Sys2Proof.Laws.Code.tlbflCtx (f : ExtForm) : Sys2Proof.Laws.Code.Statement (.tlbflCtx f) := encode_length _
theorem Sys2Proof.Laws.Code.tlbflAll (f : ExtForm) : Sys2Proof.Laws.Code.Statement (.tlbflAll f) := encode_length _
theorem Sys2Proof.Laws.Code.cfgrd (f : ExtForm) : Sys2Proof.Laws.Code.Statement (.cfgrd f) := encode_length _
theorem Sys2Proof.Laws.Code.cfgwr (f : ExtForm) : Sys2Proof.Laws.Code.Statement (.cfgwr f) := encode_length _
theorem Sys2Proof.Laws.Code.evtrd (f : ExtForm) : Sys2Proof.Laws.Code.Statement (.evtrd f) := encode_length _
theorem Sys2Proof.Laws.Code.evtrdFault (f : ExtForm) : Sys2Proof.Laws.Code.Statement (.evtrdFault f) := encode_length _
theorem Sys2Proof.Laws.Code.ld (f : ExtForm) : Sys2Proof.Laws.Code.Statement (.ld f) := encode_length _
theorem Sys2Proof.Laws.Code.st (f : ExtForm) : Sys2Proof.Laws.Code.Statement (.st f) := encode_length _
theorem Sys2Proof.Laws.Code.ldu (f : ExtForm) : Sys2Proof.Laws.Code.Statement (.ldu f) := encode_length _
theorem Sys2Proof.Laws.Code.lda (f : ExtForm) : Sys2Proof.Laws.Code.Statement (.lda f) := encode_length _
theorem Sys2Proof.Laws.Code.str (f : ExtForm) : Sys2Proof.Laws.Code.Statement (.str f) := encode_length _
theorem Sys2Proof.Laws.Code.atom (f : ExtForm) : Sys2Proof.Laws.Code.Statement (.atom f) := encode_length _
theorem Sys2Proof.Laws.Code.atomr (f : ExtForm) : Sys2Proof.Laws.Code.Statement (.atomr f) := encode_length _
theorem Sys2Proof.Laws.Code.cas (f : ExtForm) : Sys2Proof.Laws.Code.Statement (.cas f) := encode_length _
theorem Sys2Proof.Laws.Code.fence (f : ExtForm) : Sys2Proof.Laws.Code.Statement (.fence f) := encode_length _
theorem Sys2Proof.Laws.Code.bar (f : ExtForm) : Sys2Proof.Laws.Code.Statement (.bar f) := encode_length _
theorem Sys2Proof.Laws.Code.barArrive (f : ExtForm) : Sys2Proof.Laws.Code.Statement (.barArrive f) := encode_length _
theorem Sys2Proof.Laws.Code.barWait (f : ExtForm) : Sys2Proof.Laws.Code.Statement (.barWait f) := encode_length _
theorem Sys2Proof.Laws.Code.bell (f : ExtForm) : Sys2Proof.Laws.Code.Statement (.bell f) := encode_length _
theorem Sys2Proof.Laws.Code.bellArrive (f : ExtForm) : Sys2Proof.Laws.Code.Statement (.bellArrive f) := encode_length _
theorem Sys2Proof.Laws.Code.bellWait (f : ExtForm) : Sys2Proof.Laws.Code.Statement (.bellWait f) := encode_length _
theorem Sys2Proof.Laws.Code.bellTest (f : ExtForm) : Sys2Proof.Laws.Code.Statement (.bellTest f) := encode_length _
theorem Sys2Proof.Laws.Code.regacq (f : ExtForm) : Sys2Proof.Laws.Code.Statement (.regacq f) := encode_length _
theorem Sys2Proof.Laws.Code.regtry (f : ExtForm) : Sys2Proof.Laws.Code.Statement (.regtry f) := encode_length _
theorem Sys2Proof.Laws.Code.regrel (f : ExtForm) : Sys2Proof.Laws.Code.Statement (.regrel f) := encode_length _
theorem Sys2Proof.Laws.Code.pref (f : ExtForm) : Sys2Proof.Laws.Code.Statement (.pref f) := encode_length _
theorem Sys2Proof.Laws.Code.tierq (f : ExtForm) : Sys2Proof.Laws.Code.Statement (.tierq f) := encode_length _
theorem Sys2Proof.Laws.Code.copyBox (f : ExtForm) : Sys2Proof.Laws.Code.Statement (.copyBox f) := encode_length _
theorem Sys2Proof.Laws.Code.copyBoxst (f : ExtForm) : Sys2Proof.Laws.Code.Statement (.copyBoxst f) := encode_length _
theorem Sys2Proof.Laws.Code.copyLin (f : ExtForm) : Sys2Proof.Laws.Code.Statement (.copyLin f) := encode_length _
theorem Sys2Proof.Laws.Code.copym (f : ExtForm) : Sys2Proof.Laws.Code.Statement (.copym f) := encode_length _
theorem Sys2Proof.Laws.Code.twait (f : ExtForm) : Sys2Proof.Laws.Code.Statement (.twait f) := encode_length _
theorem Sys2Proof.Laws.Code.twany (f : ExtForm) : Sys2Proof.Laws.Code.Statement (.twany f) := encode_length _
theorem Sys2Proof.Laws.Code.tfind (f : ExtForm) : Sys2Proof.Laws.Code.Statement (.tfind f) := encode_length _
theorem Sys2Proof.Laws.Code.tstat (f : ExtForm) : Sys2Proof.Laws.Code.Statement (.tstat f) := encode_length _
theorem Sys2Proof.Laws.Code.tclr (f : ExtForm) : Sys2Proof.Laws.Code.Statement (.tclr f) := encode_length _
theorem Sys2Proof.Laws.Code.qpush (f : ExtForm) : Sys2Proof.Laws.Code.Statement (.qpush f) := encode_length _
theorem Sys2Proof.Laws.Code.qawait (f : ExtForm) : Sys2Proof.Laws.Code.Statement (.qawait f) := encode_length _
theorem Sys2Proof.Laws.Code.qrel (f : ExtForm) : Sys2Proof.Laws.Code.Statement (.qrel f) := encode_length _
theorem Sys2Proof.Laws.Code.qstat (f : ExtForm) : Sys2Proof.Laws.Code.Statement (.qstat f) := encode_length _
theorem Sys2Proof.Laws.Code.stageUp0 (f : ExtForm) : Sys2Proof.Laws.Code.Statement (.stageUp0 f) := encode_length _
theorem Sys2Proof.Laws.Code.stageUp1 (f : ExtForm) : Sys2Proof.Laws.Code.Statement (.stageUp1 f) := encode_length _
theorem Sys2Proof.Laws.Code.stageDown1 (f : ExtForm) : Sys2Proof.Laws.Code.Statement (.stageDown1 f) := encode_length _
theorem Sys2Proof.Laws.Code.stageDown2 (f : ExtForm) : Sys2Proof.Laws.Code.Statement (.stageDown2 f) := encode_length _
theorem Sys2Proof.Laws.Code.mwld (f : ExtForm) : Sys2Proof.Laws.Code.Statement (.mwld f) := encode_length _
theorem Sys2Proof.Laws.Code.mstage (f : ExtForm) : Sys2Proof.Laws.Code.Statement (.mstage f) := encode_length _
theorem Sys2Proof.Laws.Code.mma16 (f : ExtForm) : Sys2Proof.Laws.Code.Statement (.mma16 f) := encode_length _
theorem Sys2Proof.Laws.Code.mma32 (f : ExtForm) : Sys2Proof.Laws.Code.Statement (.mma32 f) := encode_length _
theorem Sys2Proof.Laws.Code.mma64 (f : ExtForm) : Sys2Proof.Laws.Code.Statement (.mma64 f) := encode_length _
theorem Sys2Proof.Laws.Code.mma128 (f : ExtForm) : Sys2Proof.Laws.Code.Statement (.mma128 f) := encode_length _
theorem Sys2Proof.Laws.Code.macc (f : ExtForm) : Sys2Proof.Laws.Code.Statement (.macc f) := encode_length _
theorem Sys2Proof.Laws.Code.mzero (f : ExtForm) : Sys2Proof.Laws.Code.Statement (.mzero f) := encode_length _
theorem Sys2Proof.Laws.Code.mdrain (f : ExtForm) : Sys2Proof.Laws.Code.Statement (.mdrain f) := encode_length _
theorem Sys2Proof.Laws.Code.mstat (f : ExtForm) : Sys2Proof.Laws.Code.Statement (.mstat f) := encode_length _
theorem Sys2Proof.Laws.Code.sld (f : ExtForm) : Sys2Proof.Laws.Code.Statement (.sld f) := encode_length _
theorem Sys2Proof.Laws.Code.sst (f : ExtForm) : Sys2Proof.Laws.Code.Statement (.sst f) := encode_length _
theorem Sys2Proof.Laws.Code.stinfo (f : ExtForm) : Sys2Proof.Laws.Code.Statement (.stinfo f) := encode_length _
theorem Sys2Proof.Laws.Code.vbmin (f : ExtForm) : Sys2Proof.Laws.Code.Statement (.vbmin f) := encode_length _
theorem Sys2Proof.Laws.Code.bankopFill (f : ExtForm) : Sys2Proof.Laws.Code.Statement (.bankopFill f) := encode_length _
theorem Sys2Proof.Laws.Code.bankopScale (f : ExtForm) : Sys2Proof.Laws.Code.Statement (.bankopScale f) := encode_length _
theorem Sys2Proof.Laws.Code.bankopAxpby (f : ExtForm) : Sys2Proof.Laws.Code.Statement (.bankopAxpby f) := encode_length _
theorem Sys2Proof.Laws.Code.bankopConvert (f : ExtForm) : Sys2Proof.Laws.Code.Statement (.bankopConvert f) := encode_length _
theorem Sys2Proof.Laws.Code.bankopSumrow (f : ExtForm) : Sys2Proof.Laws.Code.Statement (.bankopSumrow f) := encode_length _
theorem Sys2Proof.Laws.Code.bankopDepthclear (f : ExtForm) : Sys2Proof.Laws.Code.Statement (.bankopDepthclear f) := encode_length _
theorem Sys2Proof.Laws.Code.bankst (f : ExtForm) : Sys2Proof.Laws.Code.Statement (.bankst f) := encode_length _
theorem Sys2Proof.Laws.Code.samp (f : ExtForm) : Sys2Proof.Laws.Code.Statement (.samp f) := encode_length _
theorem Sys2Proof.Laws.Code.sampl (f : ExtForm) : Sys2Proof.Laws.Code.Statement (.sampl f) := encode_length _
theorem Sys2Proof.Laws.Code.emitv (f : ExtForm) : Sys2Proof.Laws.Code.Statement (.emitv f) := encode_length _
theorem Sys2Proof.Laws.Code.emitp (f : ExtForm) : Sys2Proof.Laws.Code.Statement (.emitp f) := encode_length _
theorem Sys2Proof.Laws.Code.meshend (f : ExtForm) : Sys2Proof.Laws.Code.Statement (.meshend f) := encode_length _
theorem Sys2Proof.Laws.Code.exportPix (f : ExtForm) : Sys2Proof.Laws.Code.Statement (.exportPix f) := encode_length _
theorem Sys2Proof.Laws.Code.quadrd (f : ExtForm) : Sys2Proof.Laws.Code.Statement (.quadrd f) := encode_length _
theorem Sys2Proof.Laws.Code.attr (f : ExtForm) : Sys2Proof.Laws.Code.Statement (.attr f) := encode_length _
theorem Sys2Proof.Laws.Code.discard (f : ExtForm) : Sys2Proof.Laws.Code.Statement (.discard f) := encode_length _
theorem Sys2Proof.Laws.Code.waitExpiry : Sys2Proof.Laws.Code.Statement .waitExpiry := encode_length _
theorem Sys2Proof.Laws.Code.dwSelWrite : Sys2Proof.Laws.Code.Statement .dwSelWrite := encode_length _
theorem Sys2Proof.Laws.Code.dwRpcWrite : Sys2Proof.Laws.Code.Statement .dwRpcWrite := encode_length _
theorem Sys2Proof.Laws.Code.configWrite : Sys2Proof.Laws.Code.Statement .configWrite := encode_length _
theorem Sys2Proof.Laws.Code.hallPassEntryWrite : Sys2Proof.Laws.Code.Statement .hallPassEntryWrite := encode_length _
theorem Sys2Proof.Laws.Code.blTargetWrite : Sys2Proof.Laws.Code.Statement .blTargetWrite := encode_length _
theorem Sys2Proof.Laws.Code.blGenWrite : Sys2Proof.Laws.Code.Statement .blGenWrite := encode_length _
theorem Sys2Proof.Laws.Code.completionCounterWrite : Sys2Proof.Laws.Code.Statement .completionCounterWrite := encode_length _
theorem Sys2Proof.Laws.Code.ccQuotaWrite : Sys2Proof.Laws.Code.Statement .ccQuotaWrite := encode_length _
theorem Sys2Proof.Laws.Code.deferredFieldWrite : Sys2Proof.Laws.Code.Statement .deferredFieldWrite := encode_length _
theorem Sys2Proof.Laws.Code.errorCounterClear : Sys2Proof.Laws.Code.Statement .errorCounterClear := encode_length _
theorem Sys2Proof.Laws.Code.ccFenceWrite : Sys2Proof.Laws.Code.Statement .ccFenceWrite := encode_length _
theorem Sys2Proof.Laws.Code.bellRelease : Sys2Proof.Laws.Code.Statement .bellRelease := encode_length _
theorem Sys2Proof.Laws.Code.copyComplete : Sys2Proof.Laws.Code.Statement .copyComplete := encode_length _
theorem Sys2Proof.Laws.Code.stagedCommandEntry : Sys2Proof.Laws.Code.Statement .stagedCommandEntry := encode_length _
theorem Sys2Proof.Laws.Code.stageComplete : Sys2Proof.Laws.Code.Statement .stageComplete := encode_length _
theorem Sys2Proof.Laws.Code.matrixCommandStart : Sys2Proof.Laws.Code.Statement .matrixCommandStart := encode_length _
theorem Sys2Proof.Laws.Code.matrixCommandComplete : Sys2Proof.Laws.Code.Statement .matrixCommandComplete := encode_length _
theorem Sys2Proof.Laws.Code.bankopJobStart : Sys2Proof.Laws.Code.Statement .bankopJobStart := encode_length _
theorem Sys2Proof.Laws.Code.rowStep : Sys2Proof.Laws.Code.Statement .rowStep := encode_length _
theorem Sys2Proof.Laws.Code.rasteriseMeshlet : Sys2Proof.Laws.Code.Statement .rasteriseMeshlet := encode_length _
theorem Sys2Proof.Laws.Code.quadAdmission : Sys2Proof.Laws.Code.Statement .quadAdmission := encode_length _
theorem Sys2Proof.Laws.Code.quadBlend : Sys2Proof.Laws.Code.Statement .quadBlend := encode_length _
theorem Sys2Proof.Laws.Code.pixelLaunch : Sys2Proof.Laws.Code.Statement .pixelLaunch := encode_length _
theorem Sys2Proof.Laws.Code.pixelLaunchAge : Sys2Proof.Laws.Code.Statement .pixelLaunchAge := encode_length _
theorem Sys2Proof.Laws.Code.launch : Sys2Proof.Laws.Code.Statement .launch := encode_length _
theorem Sys2Proof.Laws.Code.placementDecision : Sys2Proof.Laws.Code.Statement .placementDecision := encode_length _
theorem Sys2Proof.Laws.Code.dispatcherPreload : Sys2Proof.Laws.Code.Statement .dispatcherPreload := encode_length _
theorem Sys2Proof.Laws.Code.carveoutConversion : Sys2Proof.Laws.Code.Statement .carveoutConversion := encode_length _
theorem Sys2Proof.Laws.Code.conversionComplete : Sys2Proof.Laws.Code.Statement .conversionComplete := encode_length _
theorem Sys2Proof.Laws.Code.consumerLaunch : Sys2Proof.Laws.Code.Statement .consumerLaunch := encode_length _
theorem Sys2Proof.Laws.Code.tailLaunch : Sys2Proof.Laws.Code.Statement .tailLaunch := encode_length _
theorem Sys2Proof.Laws.Code.stageReassignment : Sys2Proof.Laws.Code.Statement .stageReassignment := encode_length _
theorem Sys2Proof.Laws.Code.planComplete : Sys2Proof.Laws.Code.Statement .planComplete := encode_length _
theorem Sys2Proof.Laws.Code.issueCap : Sys2Proof.Laws.Code.Statement .issueCap := encode_length _
theorem Sys2Proof.Laws.Code.cohortFormation : Sys2Proof.Laws.Code.Statement .cohortFormation := encode_length _
theorem Sys2Proof.Laws.Code.binAging : Sys2Proof.Laws.Code.Statement .binAging := encode_length _
theorem Sys2Proof.Laws.Code.waitAgeFiling : Sys2Proof.Laws.Code.Statement .waitAgeFiling := encode_length _
theorem Sys2Proof.Laws.Code.passbackPublished : Sys2Proof.Laws.Code.Statement .passbackPublished := encode_length _
theorem Sys2Proof.Laws.Code.cloak : Sys2Proof.Laws.Code.Statement .cloak := encode_length _
theorem Sys2Proof.Laws.Code.longWaitCloak : Sys2Proof.Laws.Code.Statement .longWaitCloak := encode_length _
theorem Sys2Proof.Laws.Code.cloakDone : Sys2Proof.Laws.Code.Statement .cloakDone := encode_length _
theorem Sys2Proof.Laws.Code.recall : Sys2Proof.Laws.Code.Statement .recall := encode_length _
theorem Sys2Proof.Laws.Code.recallDone : Sys2Proof.Laws.Code.Statement .recallDone := encode_length _
theorem Sys2Proof.Laws.Code.binUncloak : Sys2Proof.Laws.Code.Statement .binUncloak := encode_length _
theorem Sys2Proof.Laws.Code.overlayLoadComplete : Sys2Proof.Laws.Code.Statement .overlayLoadComplete := encode_length _
theorem Sys2Proof.Laws.Code.evictionRequest : Sys2Proof.Laws.Code.Statement .evictionRequest := encode_length _
theorem Sys2Proof.Laws.Code.spillComplete : Sys2Proof.Laws.Code.Statement .spillComplete := encode_length _
theorem Sys2Proof.Laws.Code.fillComplete : Sys2Proof.Laws.Code.Statement .fillComplete := encode_length _
theorem Sys2Proof.Laws.Code.promotion : Sys2Proof.Laws.Code.Statement .promotion := encode_length _
theorem Sys2Proof.Laws.Code.retentionEntry : Sys2Proof.Laws.Code.Statement .retentionEntry := encode_length _
theorem Sys2Proof.Laws.Code.wakeComplete : Sys2Proof.Laws.Code.Statement .wakeComplete := encode_length _
theorem Sys2Proof.Laws.Code.safePointStop : Sys2Proof.Laws.Code.Statement .safePointStop := encode_length _
theorem Sys2Proof.Laws.Code.safelimExpiry : Sys2Proof.Laws.Code.Statement .safelimExpiry := encode_length _
theorem Sys2Proof.Laws.Code.drainExpiry : Sys2Proof.Laws.Code.Statement .drainExpiry := encode_length _
theorem Sys2Proof.Laws.Code.teamResume : Sys2Proof.Laws.Code.Statement .teamResume := encode_length _
theorem Sys2Proof.Laws.Code.faultRecordEnqueue : Sys2Proof.Laws.Code.Statement .faultRecordEnqueue := encode_length _
theorem Sys2Proof.Laws.Code.contextBoundary : Sys2Proof.Laws.Code.Statement .contextBoundary := encode_length _
theorem Sys2Proof.Laws.Code.counter : Sys2Proof.Laws.Code.Statement .counter := encode_length _
theorem Sys2Proof.Laws.Code.status : Sys2Proof.Laws.Code.Statement .status := encode_length _
theorem Sys2Proof.Laws.Code.events : Sys2Proof.Laws.Code.Statement .events := encode_length _
theorem Sys2Proof.Laws.Code.attest : Sys2Proof.Laws.Code.Statement .attest := encode_length _
theorem Sys2Proof.Laws.Code.mgmtCfgrd : Sys2Proof.Laws.Code.Statement .mgmtCfgrd := encode_length _
theorem Sys2Proof.Laws.Code.mgmtCfgwr : Sys2Proof.Laws.Code.Statement .mgmtCfgwr := encode_length _
theorem Sys2Proof.Laws.Code.qpset : Sys2Proof.Laws.Code.Statement .qpset := encode_length _
theorem Sys2Proof.Laws.Code.mrset : Sys2Proof.Laws.Code.Statement .mrset := encode_length _
theorem Sys2Proof.Laws.Code.keyset : Sys2Proof.Laws.Code.Statement .keyset := encode_length _
theorem Sys2Proof.Laws.Code.addrset : Sys2Proof.Laws.Code.Statement .addrset := encode_length _
theorem Sys2Proof.Laws.Code.mgmtReset : Sys2Proof.Laws.Code.Statement .mgmtReset := encode_length _
theorem Sys2Proof.Laws.Code.neighbourDiscovery : Sys2Proof.Laws.Code.Statement .neighbourDiscovery := encode_length _
theorem Sys2Proof.Laws.Code.inboundRdmaRead : Sys2Proof.Laws.Code.Statement .inboundRdmaRead := encode_length _
theorem Sys2Proof.Laws.Code.inboundRdmaWrite : Sys2Proof.Laws.Code.Statement .inboundRdmaWrite := encode_length _
theorem Sys2Proof.Laws.Code.rdmaWriteWithImmediate : Sys2Proof.Laws.Code.Statement .rdmaWriteWithImmediate := encode_length _
theorem Sys2Proof.Laws.Code.inboundSend : Sys2Proof.Laws.Code.Statement .inboundSend := encode_length _
theorem Sys2Proof.Laws.Code.sendWithImmediate : Sys2Proof.Laws.Code.Statement .sendWithImmediate := encode_length _
theorem Sys2Proof.Laws.Code.unsupportedRequest : Sys2Proof.Laws.Code.Statement .unsupportedRequest := encode_length _
theorem Sys2Proof.Laws.Code.remoteResponse : Sys2Proof.Laws.Code.Statement .remoteResponse := encode_length _
theorem Sys2Proof.Laws.Code.peerNak : Sys2Proof.Laws.Code.Statement .peerNak := encode_length _
theorem Sys2Proof.Laws.Code.retryExhausted : Sys2Proof.Laws.Code.Statement .retryExhausted := encode_length _
theorem Sys2Proof.Laws.Code.pfcPause : Sys2Proof.Laws.Code.Statement .pfcPause := encode_length _
theorem Sys2Proof.Laws.Code.cnpReceived : Sys2Proof.Laws.Code.Statement .cnpReceived := encode_length _
theorem Sys2Proof.Laws.Code.rateIncrease : Sys2Proof.Laws.Code.Statement .rateIncrease := encode_length _
theorem Sys2Proof.Laws.Code.link : Sys2Proof.Laws.Code.Statement .link := encode_length _
theorem Sys2Proof.Laws.Code.boot : Sys2Proof.Laws.Code.Statement .boot := encode_length _
theorem Sys2Proof.Laws.Code.correctedError : Sys2Proof.Laws.Code.Statement .correctedError := encode_length _
theorem Sys2Proof.Laws.Code.uncorrectedError : Sys2Proof.Laws.Code.Statement .uncorrectedError := encode_length _
theorem Sys2Proof.Laws.Code.thermalCap : Sys2Proof.Laws.Code.Statement .thermalCap := encode_length _
theorem Sys2Proof.Laws.Code.thermalCapLift : Sys2Proof.Laws.Code.Statement .thermalCapLift := encode_length _
theorem Sys2Proof.Laws.Code.variableLatencyResult : Sys2Proof.Laws.Code.Statement .variableLatencyResult := encode_length _
theorem Sys2Proof.Laws.Code.transitionEnd : Sys2Proof.Laws.Code.Statement .transitionEnd := encode_length _
theorem Sys2Proof.Laws.Code.broadcastArrival : Sys2Proof.Laws.Code.Statement .broadcastArrival := encode_length _
theorem Sys2Proof.Laws.Code.powerDown : Sys2Proof.Laws.Code.Statement .powerDown := encode_length _
theorem Sys2Proof.Laws.Code.droppedFrame : Sys2Proof.Laws.Code.Statement .droppedFrame := encode_length _
theorem Sys2Proof.Laws.Code.pfcPauseExpiry : Sys2Proof.Laws.Code.Statement .pfcPauseExpiry := encode_length _
theorem Sys2Proof.Laws.Code.transportRetry : Sys2Proof.Laws.Code.Statement .transportRetry := encode_length _
end

