-- ==== Sys2Proof/Laws/Words.lean ====
section
/-! SUPPORT. What an issued word leaves as it was, and the outstanding writes that it adds. -/

namespace Sys2Proof.Machine

section Frames
variable {s : State} {r : Ready}

theorem sameMemory_of_eq {s t : State} (hm : t.mem = s.mem) (hc : ∀ u, (t.core u).scratch = (s.core u).scratch) : SameMemory s t :=
  ⟨⟨fun a => by rw [hm], fun a => by rw [hm]⟩, fun u a => by rw [hc]⟩

/-- The scratchpads stay as they are while a word issues. -/
theorem scratch_commit (s : State) (r : Ready) (a : Acc) (ws : List (Nat × Pend)) (u : Nat) :
    ((commit s r a ws).core u).scratch = (s.core u).scratch := by
  obtain ⟨m, hm⟩ := core_commit s r a ws u
  rw [hm]

/-- A word that only issues, with writes of its own threads. -/
theorem onlyRegisters_commit (a : Acc) {ws : List (Nat × Pend)} (hw : ∀ x ∈ ws, x.1 ∈ r.ths) {s1 : State}
    (h1 : ∃ sc, s1 = { s with sched := sc }) : OnlyRegisters s (commit s1 r a ws) r := by
  obtain ⟨sc, rfl⟩ := h1
  refine ⟨by simp, by simp, by simp, by simp, by simp, sameMemory_of_eq (by simp) fun u => ?_, fun x hx => ?_, fun k hk => ?_⟩
  · rw [scratch_commit]; rfl
  · rw [thread_commit_ne _ _ _ _ hx fun y hy e => hx (e ▸ hw y hy)]; rfl
  · rw [cohort?_commit_ne _ _ _ _ hk]; rfl

theorem movedOn_commit (a : Acc) {ws : List (Nat × Pend)} {s1 : State}
    (h1 : ∃ sc, s1 = { s with sched := sc } ∧ sc.clk = s.sched.clk) (h : s.cohort? r.id = some (s.cohort r.id)) :
    MovedOn s (commit s1 r a ws) r a := by
  obtain ⟨sc, rfl, hc⟩ := h1
  obtain ⟨i, m, hm⟩ := cohort_commit { s with sched := sc } r a ws h
  unfold MovedOn IssuedAt
  rw [hm]
  exact ⟨rfl, by simp [hc], rfl, rfl, rfl, rfl, rfl⟩

theorem writes_commit (a : Acc) {ws : List (Nat × Pend)} {s1 : State} (h1 : ∃ sc, s1 = { s with sched := sc })
    (h : s.cohort? r.id = some (s.cohort r.id)) : ((commit s1 r a ws).cohort r.id).writes = (s.cohort r.id).writes := by
  obtain ⟨sc, rfl⟩ := h1
  obtain ⟨i, m, hm⟩ := cohort_commit { s with sched := sc } r a ws h
  rw [hm]; rfl

/-- Changing the issuing cohort afterwards keeps what `OnlyRegisters` says. -/
theorem onlyRegisters_modCohort {t : State} (h : OnlyRegisters s t r) (f : Cohort → Cohort) :
    OnlyRegisters s (t.modCohort r.id f) r := by
  obtain ⟨h1, h2, h3, h4, h5, ⟨⟨h6, h7⟩, h8⟩, h9, h10⟩ := h
  exact ⟨h1, h2, h3, h4, h5, ⟨⟨h6, h7⟩, h8⟩, h9, fun k hk => by simp [hk, h10 k hk]⟩

/-- An outstanding uniform write added to a cohort that is there. -/
theorem cohort_addUwrite {t : State} {id : Nat} (h : t.cohort? id = some (t.cohort id)) (p : Pend) :
    (addUwrite t id p).cohort id = { t.cohort id with writes := (t.cohort id).writes ++ [p] } := by
  simp [addUwrite, h]

theorem movedOn_addUwrite {t : State} {a : Acc} (h : MovedOn s t r a) (ht : t.cohort? r.id = some (t.cohort r.id)) (p : Pend) :
    MovedOn s (addUwrite t r.id p) r a := by
  unfold MovedOn IssuedAt at *
  rw [cohort_addUwrite ht]
  exact h

theorem uregWrite_addUwrite {t : State} {id : Nat} (ht : t.cohort? id = some (t.cohort id)) {n : Nat} {p : Pend} (hp : p.tgt = .ureg n) :
    UregWrite (addUwrite t id p) id n p.var p.due p.val := by
  unfold UregWrite
  rw [cohort_addUwrite ht]
  exact ⟨p, by simp, hp, rfl, rfl, rfl⟩

end Frames

section Writes

theorem mem_namePends {r : Ready} {w : Nat} {var : Bool} {due n words v k : Nat} (hk : k < words) :
    ∃ p ∈ namePends r w var due n words v, p.tgt = .name (n + k) ∧ p.var = var ∧ p.due = due ∧
      p.val = BitVec.ofNat 64 ((v >>> (32 * k)) % 2 ^ 32) :=
  ⟨_, List.mem_map.2 ⟨k, List.mem_range.2 hk, rfl⟩, rfl, rfl, rfl, rfl⟩

/-- Writes made thread by thread go to the threads that execute. -/
theorem flatMap_pends_mem {ths : List Nat} {f : Nat → List Pend} {x : Nat × Pend}
    (h : x ∈ ths.flatMap fun t => (f t).map fun p => (t, p)) : x.1 ∈ ths := by
  obtain ⟨t, ht, hx⟩ := List.mem_flatMap.1 h
  obtain ⟨p, _, rfl⟩ := List.mem_map.1 hx
  exact ht

/-- A write that a word makes for a thread is outstanding behind its issue. -/
theorem mem_writes_flatMap {s : State} {r : Ready} {a : Acc} {f : Nat → List Pend} {t : Nat} {p : Pend}
    (hs : (alookup s.work.threads t).isSome) (ht : t ∈ r.ths) (hp : p ∈ f t) :
    p ∈ ((commit s r a (r.ths.flatMap fun t => (f t).map fun p => (t, p))).thread t).writes :=
  mem_writes_commit _ _ _ _ hs (List.mem_flatMap.2 ⟨t, ht, List.mem_map.2 ⟨p, hp, rfl⟩⟩)

end Writes

end Sys2Proof.Machine
end

