-- ==== Sys2Proof/Tests/Slice0.lean ====
section
/-! SUPPORT. Tests: ill-formed terms that the checks refuse, words written out from the encoding tables, worked examples of
the manual, and for every statement a state and operands that meet its hypotheses. -/

namespace Sys2Proof.Tests

open Sys2Proof Sys2Proof.Machine

def v (n : Nat) : Opnd := ⟨false, false, BitVec.ofNat 8 n⟩
def u (n : Nat) : Opnd := ⟨true, false, BitVec.ofNat 8 n⟩
def x0 : Ext := ⟨0, 7, false, 7, 0, v 0, v 0, v 0, 0, v 0, 0, 0⟩
def f0 : ExtForm := ⟨x0, none⟩
def b0 : BaseOps := ⟨0, 5, 8, false, 0⟩

/-- A cohort of one thread on core 0 that issues: cohort 6, thread 4, team 3, launch 2, plan 1. -/
def user : State := (placeWords State.reset []).modSched fun x => { x with agenda := [], cur := some 6 }

/-- The same at the hub proctor. -/
def hub : State :=
  (placeWords State.reset [0x4509DC00, 0x80A01000, 0]).modSched fun x => { x with agenda := [], cur := some 6 }

/-- A word of that cohort passes its checks with these executing threads and rows taken, and the threads exist. -/
abbrev goes (s : State) (a : Acc) (ths : List Nat) (rows : List (Nat × Nat) := []) : Prop :=
  prep s a = .go ⟨6, ths, rows⟩ ∧ ∀ x ∈ ths, (alookup s.work.threads x).isSome = true

/-- An event's state, with the event's data. -/
def ev (s : State) (a : EvArg) : State := s.modSched fun x => { x with arg := a }

/-- What a step or an instruction answers, looked at where it is a next state. -/
def after {α : Type} (o : Host.Outcome State Fault Refusal) (f : State → α) : Option α :=
  match o with
  | .next t => some (f t)
  | _ => none

/-- The check that a word fails. -/
def refusal (r : Except DecodeError (Instr × Nat)) : Option DecodeError :=
  match r with
  | .ok _ => none
  | .error e => some e

/-! Ill-formed terms, one for each check of `wf`. -/

theorem wf_ok : (Instr.addBase b0).wf = true ∧ (Instr.ffma (.e .vec x0)).wf = true := by decide

theorem wf_x : (Instr.addBase { b0 with x := 3 }).wf = false := by decide
theorem wf_mod : (Instr.fadd (.e .vec { x0 with mod := 0x10 })).wf = false := by decide
theorem wf_destination_kind : (Instr.fadd (.e .vec { x0 with d := u 0 })).wf = false := by decide
theorem wf_index : (Instr.fadd (.e .vec { x0 with a := v 200 })).wf = false := by decide
theorem wf_pn : (Instr.fadd (.e .vec { x0 with pn := true })).wf = false := by decide
theorem wf_km1 : (Instr.fadd (.e .vec { x0 with km1 := 1 })).wf = false := by decide
theorem wf_pbs : (Instr.fadd (.e .vec { x0 with pbs := 3 })).wf = false := by decide
theorem wf_imm : (Instr.fadd (.e .vec { x0 with imm := 1 })).wf = false := by decide
theorem wf_unused_field : (Instr.fadd (.e .vec { x0 with c := v 1 })).wf = false := by decide
theorem wf_literal_high_bits : (Instr.fadd (.bl .vec b0 (2 ^ 40))).wf = false := by decide
theorem wf_form : (Instr.fclass (.bl .vec b0 1)).wf = false := by decide
theorem wf_uniform_form : (Instr.ffma (.ub b0)).wf = false := by decide
theorem wf_pair_bank :
    (Instr.pairWord ⟨0, ⟨0, 7, 8, false, 1, false, 2, false, 3⟩, ⟨0x20, 7, 12, false, 5, false, 6, false, 0⟩⟩).wf = false := by decide
theorem wf_pair_opcode :
    (Instr.pairWord ⟨0, ⟨0x3F, 7, 8, false, 1, false, 2, false, 0⟩, ⟨0x20, 7, 13, false, 5, false, 6, false, 0⟩⟩).wf = false := by
  decide
theorem wf_register_group : (Instr.evtrd ⟨{ x0 with d := u 5 }, none⟩).wf = false := by decide
theorem wf_register_group_ok : (Instr.evtrd ⟨{ x0 with d := u 4 }, none⟩).wf = true := by decide
theorem wf_literal_form : (Instr.wait ⟨x0, some 0⟩).wf = false := by decide

/-! Words written out bit by bit from R241 to R262 and the tables of the instruction chapters. -/

theorem decode_add_base : (decode ⟨true, 128, 8⟩ [0x18001C4C]).toOption = some (.addBase ⟨3, 7, 9, true, 0⟩, 1) := by decide
theorem decode_add_literal :
    (decode ⟨true, 128, 8⟩ [0x80001440, 100000, 0]).toOption = some (.add (.bl .vec ⟨0, 5, 8, false, 0⟩ 100000), 3) := by decide
theorem decode_mov :
    (decode ⟨true, 128, 8⟩ [0x4045DC00, 0x0100A001, 0]).toOption = some (.mov (.e .vec { x0 with d := v 4, a := v 10, pbs := 1 }), 3) := by decide
theorem decode_nop : (decode ⟨true, 128, 8⟩ [0x04000000]).toOption = some (.nopBase 0, 1) := by decide
theorem decode_bra : (decode ⟨true, 128, 8⟩ [0x0403FFFF]).toOption = some (.braBase 0 0x1FFFF, 1) := by decide
theorem decode_cpreempt :
    (decode ⟨true, 128, 8⟩ [0x4509DC00, 0x80A01000, 0]).toOption = some (.cpreemptPlan ⟨{ x0 with d := u 2, a := u 1 }, none⟩, 3) := by
  decide
theorem decode_ld :
    (decode ⟨true, 128, 8⟩ [0x4601DC23, 0x01604008, 0x40]).toOption = some (.ld ⟨{ x0 with mod := 0x23, d := v 5, a := u 4, b := v 2, imm := 0x40 }, none⟩, 3) := by decide
theorem decode_bar : (decode ⟨true, 128, 8⟩ [0x4623DC00, 0, 0]).toOption = some (.bar f0, 3) := by decide
theorem decode_tstat :
    (decode ⟨true, 128, 8⟩ [0x464BDC01, 0x80C00000, 0]).toOption = some (.tstat ⟨{ x0 with mod := 1, d := u 3 }, none⟩, 3) := by decide
theorem decode_qstat :
    (decode ⟨true, 128, 8⟩ [0x4657DC02, 0x81400000, 0]).toOption = some (.qstat ⟨{ x0 with mod := 2, d := u 5 }, none⟩, 3) := by decide
theorem decode_mwld :
    (decode ⟨true, 128, 8⟩ [0x4701DF40, 0x00210844, 0x84800045]).toOption = some (.mwld ⟨{ x0 with mod := 0x340, a := u 16, b := u 17, c := u 18, imm := 0x45 }, none⟩, 3) := by decide
theorem decode_mdrain :
    (decode ⟨true, 128, 8⟩ [0x4711DE94, 0x00218864, 0x46]).toOption = some (.mdrain ⟨{ x0 with mod := 0x294, a := u 24, b := u 25, imm := 0x46 }, none⟩, 3) := by decide
theorem decode_sld :
    (decode ⟨true, 128, 8⟩ [0x4721DC00, 0x01009000, 0x102]).toOption = some (.sld ⟨{ x0 with d := v 4, a := v 9, imm := 0x102 }, none⟩, 3) := by decide
theorem decode_emitv :
    (decode ⟨true, 128, 8⟩ [0x4741DC13, 0x8000, 0]).toOption = some (.emitv ⟨{ x0 with mod := 0x13, a := v 8 }, none⟩, 3) := by decide

/-- Names at or above ROWMAX trap ILLEGAL_FIELD (R65); a level that the launch has not traps it as well (R355). -/
theorem decode_rowmax : refusal (decode ⟨false, 8, 8⟩ [0x00002040]) = some .illegalField := by decide
theorem decode_level : refusal (decode ⟨false, 128, 1⟩ [0x4621DE40, 0, 0]) = some .illegalField := by decide

/-! Worked examples of the manual. -/

def ins (a b c : Nat) (m : BitVec 10) (imm : BitVec 16 := 0) (old : Nat := 0) : AluIn := ⟨a, b, c, old, .nil, m, imm⟩

/-- The table of R326. -/
theorem bfx_table :
    (bfxRes (ins 0xF0F0A5C3 0x804 0 0)).d = 0x5C ∧ (bfxRes (ins 0xF0F0A5C3 0x808 0 1)).d = 0xFFFFFFA5 ∧
    (bfxRes (ins 0xF0F0A5C3 0x81C 0 0)).d = 0xF ∧ (bfxRes (ins 0xF0F0A5C3 0x81C 0 1)).d = 0xFFFFFFFF ∧
    (bfxRes (ins 0xF0F0A5C3 0 0 1)).d = 0 ∧ (bfxRes (ins 0xF0F0A5C3 0x428 0 1)).d = 0xFFFFFFFF := by decide
theorem bfi_table :
    (bfiRes (ins 0xFFFFFFFF 0x81C 0 0)).d = 0xF0000000 ∧ (bfiRes (ins 0xFFFFFFFF 0 0 0)).d = 0 ∧
    (bfiRes (ins 0xFFFFFFFF 0x820 0 0)).d = 0 := by decide
/-- ABS of 0x8000_0000 with and without SAT (R323). -/
theorem abs_edge : (absRes (ins 0x80000000 0 0 0)).d = 0x80000000 ∧ (absRes (ins 0x80000000 0 0 1)).d = 0x7FFFFFFF := by decide
/-- A sum of 2^32 sets the carry (R323). -/
theorem add_carry : (addRes (ins 0xFFFFFFFF 1 0 0)).d % 2 ^ 32 = 0 ∧ (addRes (ins 0xFFFFFFFF 1 0 0)).p = true := by decide
/-- The majority of three predicates is LUT 0xE8 (R330); here p7, p7 and p0 of a thread whose p0 is clear. -/
theorem plop_majority : (plopRes (ins 0 0 0 0x03F 0xE8)).p = true := by decide
/-- The dot product worked out with R116. -/
theorem dot_product : (dp4oRes (ins 0xFF0A80C8 0x7D837882 1000 0 0x8080)).d = 409 := by decide
/-- The drained element worked out with R387: acc 1,000, 0x3C23_D70A and 0.5 to BF16. -/
theorem drained_element : drained 2 true 0x3C23D70A 0x3F000000 1000 = 0x40A0 := by decide

/-! What meets the hypotheses of the statements: encoding, the step, traps. -/

theorem witness_encode : (Instr.addBase b0).isWord = true ∧ (Instr.addBase b0).wf = true ∧
    (Instr.ld f0).isWord = true ∧ (Instr.ld f0).wf = true := by decide
theorem witness_placed : decodeTableWord 32 0x04000000 = some (.nopBase 0) ∧
    decodeTableWord 96 0x80A010004509DC00 = some (.cpreemptPlan ⟨{ x0 with d := u 2, a := u 1 }, none⟩) := by decide

def placed : State := State.reset.withFetchWord 32 0x04000000
def placedC : Cohort := placed.cohort 6
theorem witness_step_word : placed.sched.agenda = [.issue 6] ∧ placed.cohort? 6 = some placedC ∧ mayIssue placed placedC = true ∧
    (decode (decodeCtx placed placedC) (fetch placed placedC)).toOption = some (.nopBase 0, 1) := by decide
def badWord : State := State.reset.withFetchWord 32 0x00160000
theorem witness_step_decode_error : badWord.sched.agenda = [.issue 6] ∧ (badWord.cohort? 6).isSome ∧
    mayIssue badWord (badWord.cohort 6) = true ∧
    refusal (decode (decodeCtx badWord (badWord.cohort 6)) (fetch badWord (badWord.cohort 6))) = some .illegalOpcode := by decide
def stopped : State := decodeTrap badWord 6 .illegalOpcode [0x00160000]
theorem witness_step_not_ready : stopped.sched.agenda = [.issue 6] ∧ mayIssue stopped (stopped.cohort 6) = false ∧
    State.reset.cohort? 6 = none := by decide
theorem test_step_word : after (step placed) (fun t => (t.cohort 6).pc) = some 10 := by decide
theorem test_step_trap : after (step badWord) (fun t => ((t.cohort 6).stop.map Stop.code, (t.core 0).stopno)) =
    some (some .illegalOpcode, 1) := by decide
theorem test_decode_trap_record : after (step badWord) (fun t => ((alookup t.host.faultq 0).getD []).map fun r => (r.tpc, r.info0)) =
    some [(9, 0x00160000)] := by decide

theorem witness_memory_kept : placed.mem.gddr.wf = true ∧ (after (step placed) fun t => t.mem.gddr.wf) = some true := by decide

theorem witness_trap_queue : user.cohort? 6 = some (user.cohort 6) ∧ (user.cohort 6).priv = false ∧ (user.core 0).held = [] ∧
    coalesce { code := .swTrap } ((alookup user.host.faultq 0).getD []) = none := by decide
theorem full_queue (n : Nat) (q r : TrapRec) (h : q.coalesces r = false) :
    (List.replicate n q).length = n ∧ coalesce r (List.replicate n q) = none := by
  refine ⟨List.length_replicate, ?_⟩
  induction n with
  | zero => rfl
  | succ n ih => rw [List.replicate_succ, coalesce, h, ih]; rfl
theorem witness_trap_full : TrapRec.coalesces { code := .swTrap } { code := .swTrap } = false := by decide
theorem witness_trap_held : ((user.modCore 0 fun k => { k with held := [{ code := .swTrap }] }).core 0).held ≠ [] := by decide
theorem witness_trap_proctor : (hub.cohort? 6).isSome ∧ (hub.cohort 6).priv = true ∧ (hub.cohort 6).unit = hubUnit ∧
    ((hub.modCohort 6 fun c => { c with unit := 256 }).cohort 6).unit ≠ hubUnit := by decide

/-! Compute words. -/

theorem witness_vector : ∃ w, computeRow (.addBase b0) = some w ∧ w.u.uni = false ∧
    goes user (w.u.full w.op) [4] [(5, 512)] ∧ w.u.dn = 1 := ⟨_, rfl, by decide, by decide, by decide⟩
theorem witness_vector_predicate : ∃ w, computeRow (.cmp (.e .vec { x0 with pd := 0 })) = some w ∧ w.u.uni = false ∧
    goes user (w.u.full w.op) [4] ∧ w.u.pd < 7 := ⟨_, rfl, by decide, by decide, by decide⟩
theorem witness_uniform : ∃ w, computeRow (.add (.e .uni { x0 with d := u 3, a := u 1, b := u 2, pd := 0 })) = some w ∧
    w.u.uni = true ∧ goes user (w.u.full w.op) [4] ∧ w.u.dn ≠ 0 ∧ w.u.pd < 7 ∧ actingThread user [4] = some 4 :=
  ⟨_, rfl, by decide, by decide, by decide⟩
theorem witness_uniform_none : ∃ w, computeRow (.add (.e .uni { x0 with d := u 3, a := u 1, b := u 2, pg := 0 })) = some w ∧
    w.u.uni = true ∧ goes user (w.u.full w.op) [] := ⟨_, rfl, by decide, by decide⟩
theorem witness_cross_lane : (Alu.ofForm 0x82 (.e .vec { x0 with pd := 0 })).uni = false ∧
    goes user ((Alu.ofForm 0x82 (.e .vec { x0 with pd := 0 })).full 0x82) [4] ∧
    (Alu.ofForm 0x83 (.e .vec { x0 with d := v 5, a := v 6 })).uni = false ∧
    goes user ((Alu.ofForm 0x83 (.e .vec { x0 with d := v 5, a := v 6 })).full 0x83) [4] [(5, 512)] ∧
    goes user ((Alu.ofForm 0x84 (.e .vec { x0 with d := v 5, a := v 6 })).full 0x84) [4] [(5, 512)] := by decide

def seatU : Alu := .ofForm 0x80 (.e .vec { x0 with d := v 5, a := v 6, b := v 7, pd := 0 })
def shiftU : Alu := .ofForm 0x81 (.e .vec { x0 with d := v 5, a := v 6, mod := 2, imm := 1 })
def v2sU : Alu := .ofForm 0x85 (.e .vec { x0 with d := u 5, a := v 6 })
theorem witness_seat : goes user (({ seatU with acc := { seatU.acc with names := seatU.b.names } } : Alu).full 0x80) [4] [(5, 512)] ∧
    seatU.pd < 7 ∧ seatRead user (user.cohort 6) 4 0 = .fast 4 ∧ seatRead user (user.cohort 6) 4 1 = .absent := by decide
theorem witness_shift :
    goes user (({ shiftU with acc := { shiftU.acc with names := [] } } : Alu).full 0x81) [4] [(5, 512)] := by decide
theorem witness_v2s : goes user { v2sU.acc with wNames := [], wUregs := [v2sU.d], once := true, lat := none } [4] := by decide
def pairW : PairOps := ⟨0, ⟨0, 7, 8, false, 1, false, 2, false, 3⟩, ⟨0x20, 7, 13, false, 5, false, 6, false, 0⟩⟩
theorem witness_pair : user.sched.cur = some 6 ∧ user.cohort? 6 = some (user.cohort 6) ∧
    checkFor user 6 (user.cohort 6) (halfAcc pairW.x pairW) = .go ⟨6, [4], []⟩ ∧
    checkFor user 6 (user.cohort 6) (halfAcc pairW.y pairW) = .go ⟨6, [4], []⟩ ∧
    (takeRows (marked (marked user [4] (halfAcc pairW.x pairW)) [4] (halfAcc pairW.y pairW)) [4] [8]
      (rowsUsed (marked (marked user [4] (halfAcc pairW.x pairW)) [4] (halfAcc pairW.y pairW)) 0 0)).isOk = true := by decide
theorem witness_integer : ∃ w, computeRow (.sub (.e .vec { x0 with d := v 5, a := v 6, b := v 7 })) = some w ∧ w.op ≤ 0x0A ∧
    goes user (w.u.full w.op) [4] [(5, 512)] ∧ (ins 1 2 3 0).m 1 0 = 0 ∧ (ins 1 2 3 1).m 1 0 = 1 ∧ (ins 1 2 3 2).m 1 0 = 2 :=
  ⟨_, rfl, by decide, by decide, by decide⟩
theorem witness_compare : (ins 1 2 3 5).m 2 0 = 5 ∧ (ins 1 2 3 12).m 2 0 = 4 ∧ (ins 1 2 3 12).m 3 3 = 1 := by decide

/-! Control words. -/

theorem witness_branch : goes user { st := 0 } [4] ∧ (user.cohort 6).pc.toNat = 9 ∧
    (0 : Int) ≤ (9 : Nat) + (-9) ∧ ¬(0 : Int) ≤ (9 : Nat) + (-10) ∧ (9 : Int) + 65526 ≤ 65535 ∧ ¬(9 : Int) + 65527 ≤ 65535 := by
  decide
theorem test_branch : after (exec (.braBase 0 0x1FFFF) user) (fun t => (t.cohort 6).pc) = some 8 := by decide
theorem test_branch_outside : after (exec (.braBase 0 (0x20000 - 10)) user) (fun t => (t.cohort 6).stop.map Stop.code) =
    some (some .badTarget) := by decide

def deep (n : Nat) : State := user.modThread 4 fun t => { t with stack := List.replicate n 20 }
theorem witness_call : goes (deep 15) { st := 0 } [4] ∧ ((deep 15).thread 4).stack.length = 15 ∧
    goes (deep 16) { st := 0 } [4] ∧ ((deep 16).thread 4).stack.length = 16 := by decide
theorem test_call : after (exec (.callBase 0 5) (deep 1)) (fun t => ((t.cohort 6).pc, (t.thread 4).stack)) =
    some (14, [10, 20]) := by decide
theorem test_ret : after (exec (.retBase 0) (deep 1)) (fun t => ((t.cohort 6).pc, (t.thread 4).stack)) = some (20, []) := by
  decide
def loopF : ExtForm := ⟨{ x0 with d := u 3, imm := 0xFFFF }, none⟩
theorem witness_loop : goes user { extAcc loopF.x false with uregs := [3], wUregs := [3], lat := some 2 } [4] := by decide
/-- A counter of 0 becomes all ones and branches (R285). -/
theorem test_loop_zero : after (exec (.loop loopF) user) (fun t => ((t.cohort 6).pc, (t.cohort 6).writes.map Pend.val)) =
    some (8, [0xFFFFFFFFFFFFFFFF]) := by decide
theorem witness_brc : goes user (extAcc x0 false) [4] ∧ goes user (extAcc { x0 with pg := 0 } false) [] ∧
    (user.cohort 6).active = [4] := by decide

def tableImage : Image :=
  { id := 7, share := false, len := 64, digest := [], words := [0x01000000, 0x00010001, 0x0000000C, 9, 0, 0, 0, 0, 9, 0, 0, 0,
      0x0001000D, 14], views := [⟨0, 0, 0⟩] }
def table : State := user.modCore 0 fun k => { k with images := [tableImage] }
theorem witness_bri : goes table ((extAcc { x0 with a := v 6 } false).reads [opndSrc (v 6) false false 0]) [4] ∧
    imageAt table (table.cohort 6) (table.cohort 6).pc = some tableImage ∧
    0 < (tableImage.words.getD 1 0).toNat % 65536 ∧
    (srcVal table (table.cohort 6) 4 (opndSrc (v 6) false false 0)).toNat % 2 ^ 32 < 0x0001000D / 65536 := by decide
theorem test_bri : after (exec (.bri ⟨{ x0 with a := v 6 }, none⟩) table) (fun t => (t.cohort 6).pc) = some 14 := by decide
theorem witness_divide : (user.cohort? 6).isSome ∧ [(4, (20 : Word))].length ≤ 64 := by decide
theorem witness_exit : goes user { st := 0 } [4] ∧ (user.thread 4).writes = [] ∧ remoteCopies user 4 = false ∧
    (user.cohort 6).writes = [] := by decide
theorem test_exit : after (exec (.exitBase 0) user) (fun t => (t.thread 4).place) = some .exited := by decide

theorem witness_wait : goes user (extAcc x0 false) [4] ∧ goes user { extAcc x0 false with uregs := [0] } [4] ∧
    (user.cohort 6).writes = [] ∧ (user.cohort 6).members = [4] := by decide
def waiting : State := ev (user.modCohort 6 fun c => { c with wait := .clock 0 true }) { a := 6 }
theorem witness_wait_expiry : (waiting.cohort waiting.sched.arg.a).wait = .clock 0 true ∧ 0 ≤ waiting.sched.clk ∧
    (waiting.cohort? waiting.sched.arg.a).isSome := by decide
theorem test_wait : after (exec (.wait ⟨{ x0 with imm := 5 }, none⟩) user) (fun t => (t.cohort 6).wait) =
    some (.clock 5 true) := by decide
theorem witness_reform : goes user { st := 0 } [4] ∧ firstFree ((user.core 0).bins.map Prod.fst) 0 64 = some 0 := by decide
theorem test_reform : after (exec (.reformBase 0) user) (fun t => (t.thread 4).place) = some (.bin 0 0) := by decide
theorem test_yield : after (exec (.yieldBase 0) user) (fun t => (t.cohort 6).capMark) = some true := by decide
theorem test_nop : after (exec (.nopBase 3) user) (fun t => ((t.cohort 6).pc, (t.cohort 6).nextIssue)) = some (10, 4) := by decide

theorem witness_region : goes user (extAcc x0 false) [4] ∧ (user.thread 4).writes = [] := by decide
def passing : State := { user with work := { user.work with
  plans := amodify user.work.plans 1 fun p => { p with passk := 1, pass := [(6, 0)] } } }
theorem witness_pass : goes passing { extAcc x0 false with marks := opndMarks (v 6) 1 false } [4] ∧
    (passing.launchOf 4).stage = 0 ∧ 6 ∈ (passing.planOf 4).pass.map Prod.fst ∧ 6 ∉ (passing.thread 4).published := by decide
theorem test_pass : after (exec (.pass ⟨{ x0 with a := v 6 }, none⟩) passing) (fun t => (t.thread 4).published) = some [6] := by
  decide
theorem witness_trap_word : goes user (extAcc x0 false) [4] ∧ goes user (extAcc { x0 with pg := 0 } false) [] ∧
    (user.core 0).bken = true ∧ ((user.modCore 0 fun k => { k with bken := false }).core 0).bken = false ∧
    goes (user.modCore 0 fun k => { k with bken := false }) { st := 0 } [4] := by decide
theorem test_trap_word : after (exec (.trap ⟨{ x0 with imm := 77 }, none⟩) user)
    (fun t => (t.cohort 6).stop.map fun st => (st.code, st.rpc, st.tpc)) = some (some (.swTrap, 12, 9)) := by decide
theorem witness_free_rsrv : goes user (extAcc { x0 with imm := 1 } false) [4] ∧ (user.thread 4).writes = [] ∧
    goes user { extAcc x0 false with wNames := [2], lat := some 0 } [4] [(2, 1024)] := by decide
theorem witness_rdspc : goes user { extAcc x0 false with wUregs := [3], lat := some 2 } [4] ∧
    goes user { extAcc x0 false with wNames := [4, 5], lat := some 4 } [4] [(4, 0), (5, 512)] ∧
    goes user { extAcc x0 false with uregs := [3] } [4] ∧ actingThread user [4] = some 4 := by decide

/-! Overlays. -/

def ovF : ExtForm := ⟨{ x0 with imm := 3, d := u 2 }, none⟩
def ovS1 : State := bindTwin (plainIssue user ⟨6, [4], []⟩ { extAcc ovF.x false with lat := some 0 }) 0 ⟨0, 0, 3⟩ false
theorem witness_overlay : goes user { extAcc ovF.x false with uregs := [], lat := some 0 } [4] ∧
    actingThread user [4] = some 4 ∧ inView ovS1 0 ⟨0, 0, 3⟩ = none ∧ (alookup user.work.teams (user.thread 4).team).isSome := by
  decide
theorem witness_overlay_in_view : (inView ovS1 0 ⟨0, 0, 0⟩).isSome ∧ ovState ovS1 0 ⟨0, 0, 0⟩ = 0 := by decide
def twoViews : State := ovS1.modCore 0 fun k => { k with images := { tableImage with id := 8, views := [⟨0, 0, 5⟩] } :: k.images }
theorem witness_overlay_pins : pinCount ovS1 0 [⟨0, 0, 0⟩] ≠ 0 ∧ (inView twoViews 0 ⟨0, 0, 5⟩).isSome ∧
    pinCount twoViews 0 [⟨0, 0, 5⟩] = 0 := by decide
theorem witness_ovqry : goes user { extAcc ovF.x false with uregs := [], wUregs := [2] } [4] ∧
    (∀ y ∈ (user.core 0).lastLoads, y.status < 256) := by decide
theorem witness_callo : goes user { extAcc x0 false with uregs := [], lat := some 0 } [4] ∧
    goes (deep 16) { extAcc x0 false with uregs := [], lat := some 0 } [4] ∧
    (inView (bindTwin user 0 ⟨0, 0, 0⟩ false) 0 ⟨0, 0, 0⟩).map (fun i => (i.words.getD 1 0).toNat / 65536) = some 1 ∧
    inView (bindTwin user 0 ⟨0, 0, 3⟩ false) 0 ⟨0, 0, 3⟩ = none := by decide
theorem test_callo : after (exec (.callo f0) user) (fun t => ((t.cohort 6).pc, (t.thread 4).stack)) = some (9, [12]) := by decide
theorem test_callo_entry : after (exec (.callo ⟨{ x0 with mod := 1 }, none⟩) user) (fun t => (t.cohort 6).stop.map Stop.code) =
    some (some .badTarget) := by decide

/-! Proctor words: the hub proctor's cohort 6, and a stopped cohort 13 of one thread on core 0. -/

def both : State :=
  (decodeTrap (placeWords hub []) 13 .illegalOpcode [0x00160000]).modSched fun x => { x with agenda := [], cur := some 6 }
def ureg (s : State) (n : Nat) (w : DWord) : State := s.modCohort 6 fun c => c.setUreg n w
/-- Uniform register 1 names the stopped cohort. -/
def named : State := ureg both 1 0x100000000
/-- The same proctor of cluster 1, which does not reach core 0. -/
def far (s : State) : State := s.modCohort 6 fun c => { c with unit := 257 }
def pf (imm : BitVec 16) : ExtForm := ⟨{ x0 with a := u 1, b := u 3, d := u 2, pd := 0, imm := imm }, none⟩
def selected : State := both.modCore 0 fun k => { k with dwsel := 0x100000000 }

theorem witness_handle : handleCohort both 0x100000000 = some 13 ∧ groupOf both 0x100000000 = [13] ∧ groupOf both 0 = [] ∧
    whoIs (both.cohort 6) = 32 ∧ whoIs ((far both).cohort 6) = 1 ∧ reaches 32 0 = true ∧ reaches 1 0 = false := by decide
theorem witness_dwrd : goes selected (procAcc (pf 0x10) [1] [2] true) [4] ∧ procAddr (pf 0x10) (selected.cohort 6) = 0x10 ∧
    (windowRead selected 0 0x10).isSome ∧ windowRead both 0 0x10 = none ∧ procAddr (pf 1) (selected.cohort 6) % 8 ≠ 0 ∧
    procAddr (pf 0) ((ureg both 1 0x1000000).cohort 6) / 2 ^ 24 ≠ 0 ∧ goes (far both) (procAcc (pf 8) [1] [2] true) [4] := by decide
theorem witness_dwwr : goes selected (procAcc (pf 0x10) [1, 3] [] true) [4] ∧ (windowWrite selected 0 0 5).isSome ∧
    (windowWrite selected 0 0x10 5).isSome ∧ (windowWrite selected 0 0x800 5).isSome ∧ (windowWrite selected 0 0xFF8 5).isSome ∧
    (windowWrite selected 0 0x2008 5).isSome ∧ windowLane 0x2008 = some (0, 0, 8) ∧ (windowWrite selected 0 0x4000 5).isSome ∧
    windowLane 0x4000 = some (2, 0, 0) ∧ laneThread selected (selected.cohort 13) 0 = some 11 ∧
    windowWrite selected 0 0x1000 5 = none ∧ handleCohort selected (selected.core 0).dwsel = some 13 := by decide
theorem test_dwwr : after (exec (.dwwr (pf 0x10)) selected) (fun t => (t.cohort 13).stop.map Stop.rpc) = some (some 0) := by decide
theorem witness_cfgrd : goes both (procAcc (pf 0x4000) [1] [2] true) [4] ∧ procAddr (pf 0x4000) (both.cohort 6) % 8 = 0 ∧
    procAddr (pf 0x4004) (both.cohort 6) % 8 ≠ 0 ∧ goes both (procAcc (pf 0x4000) [1, 3] [] true) [4] := by decide
theorem witness_cfgwr : (cfgWrite both 32 0x4000 0).isSome ∧ cfgUnit 0x4000 = .bellTarget ∧ cfgWrite both 32 0xFFF8 0 = none ∧
    cfgUnit 0x43F0 = .bellTarget ∧ cfgUnit 0x43F8 = .bellGen ∧ cfgUnit 0x4400 = .none := by decide
theorem test_cfgwr : after (exec (.cfgwr (pf 0x4000)) (ureg both 3 7)) (fun t => (bellAt t 0).target) = some 7 := by decide

theorem witness_cresume : goes named (procAcc (pf 0) [1] [2] false) [4] ∧ goes named (procAcc (pf 0) [1, 3] [2] false) [4] ∧
    goes (far named) (procAcc (pf 0) [1] [2] false) [4] ∧ goes both (procAcc (pf 0) [1] [2] false) [4] ∧
    (named.cohort 13).stop.isSome := by decide
theorem test_cresume : after (exec (.cresume (pf 0)) named) (fun t => ((t.cohort 13).stop.isSome, (t.cohort 13).pc)) =
    some (false, 9) := by decide
theorem test_cresume_skip : after (exec (.cresumeSkip (pf 0)) named) (fun t => (t.cohort 13).pc) = some 10 := by decide
def heldTeam : State := named.modTeam 10 fun t => { t with held := true, save := some {} }
def at0 : State := ureg heldTeam 1 0
theorem witness_cresume_plan : goes at0 (procAcc (pf 0) [1] [2] false) [4] ∧
    (plansAt at0 0).flatMap (planTeams at0) = [(10, at0.team 10)] ∧ (at0.team 10).held = true ∧ (at0.team 10).save.isSome ∧
    teamReach 32 (at0.team 10) = true ∧ teamReach 1 (at0.team 10) = false ∧ goes (far at0) (procAcc (pf 0) [1] [2] false) [4] ∧
    (both.team 10).held = false := by decide
theorem witness_ckill : (named.cohort 13).members = [11] ∧ cohortTeams named 13 = [10] ∧ (named.team 10).threads = [11] ∧
    11 ∉ (named.cohort 6).members ∧ teamReach 32 (named.team 10) = true ∧ cohortPlan named 13 = 8 ∧
    (named.work.threads.filter fun x => (named.launch x.2.launch).plan == 8).map Prod.fst = [11] := by decide
theorem test_ckill : after (exec (.ckill (pf 0)) named) (fun t => (t.thread 11).place) = some .exited := by decide
def roomy : State :=
  { both with work := (placeWords hub []).work, cores := (placeWords hub []).cores,
              cfg := { both.cfg with ctxs := [(0, { savesz := 0x100000 })] } }
theorem witness_cpreempt : goes both (procAcc (pf 0) [1] [2] false) [4] ∧
    ((plansAt both 0).flatMap (planTeams both)).map Prod.fst = [10] ∧ (both.team 10).save = none ∧
    (selectTeams roomy [10]).1 = [10] ∧ plansAt both 256 = [] ∧ (both.thread 4).team = 3 ∧
    (both.work.teams.filter fun x => !x.2.exited && x.2.units.contains 0).map Prod.fst = [10] ∧
    (both.work.plans.filter fun x => x.2.queue == 0 && !x.2.done).map Prod.fst = [8] := by decide
def oneEvent : State := both.modHost fun h => { h with evp := [(32, [⟨0x0200, 0x10, 0, 0, 1, 2, 3⟩])] }
theorem witness_evtrd : goes oneEvent (procAcc (pf 0) [] [2, 3, 4, 5] true) [4] ∧
    (((alookup oneEvent.host.evp 32).getD []).map EventRec.dwords).length = 1 ∧ ((alookup both.host.evp 32).getD []) = [] ∧
    goes both (procAcc (pf 0) [] [2, 3, 4, 5, 6, 7, 8, 9] true) [4] ∧ ((alookup both.host.faultq 0).getD []).length = 1 ∧
    whoIs ((both.modCohort 6 fun c => { c with unit := 256 }).cohort 6) = 0 := by decide
def tlbs : State := both.modCore 0 fun k => { k with tlb := [⟨0, 16, 1, 0⟩, ⟨1, 16, 1, 0⟩] }
theorem witness_tlbfl : goes tlbs (procAcc (pf 0) [1, 3] [] false) [4] ∧ goes tlbs (procAcc (pf 0) [3] [] false) [4] ∧
    goes tlbs (procAcc (pf 0) [] [] false) [4] := by decide
theorem test_tlbfl_ctx : after (exec (.tlbflCtx (pf 0)) tlbs) (fun t => (t.core 0).tlb) = some [⟨1, 16, 1, 0⟩] := by decide

/-! Memory: a window of 1 KiB at 0, and a page table whose one leaf maps the first 2 GiB to themselves. -/

def mapped (s : State) : State :=
  { s with mem := { s.mem with gddr := [(0x2000, 0x01), (0x2001, 0x40), (0x4000, 0x0B)] }
           cfg := { s.cfg with ctxs := [(0, { xlen := true, ptroot := 0x2000 })] } }
def win : State :=
  { mapped user with work := { user.work with
      plans := amodify user.work.plans 1 fun p => { p with spwin := 1 }
      teams := amodify user.work.teams 3 fun t => { t with windows := [(0, 0)] } } }
def kindOf : Checked → Nat
  | .ok _ _ => 0
  | .stall _ => 1
  | .trap _ _ => 2
def sp4 : How := { space := 1, size := 4, kind := 0 }
def g4 : How := { space := 0, size := 4, kind := 0 }
def moving : State := { win with mem := { win.mem with dir := [(16, { trn := true })] } }

theorem witness_window : windowBytes win 4 = 1024 ∧ kindOf (checkAccess win 6 0 false sp4 [⟨4, 1020, 0⟩] (sameWay sp4)) = 0 ∧
    kindOf (checkAccess win 6 0 false sp4 [⟨4, 1021, 0⟩] (sameWay sp4)) = 2 ∧
    kindOf (checkAccess win 6 0 false sp4 [⟨4, 2, 0⟩] (sameWay sp4)) = 2 := by decide
theorem witness_global : kindOf (checkAccess win 6 0 false g4 [⟨4, 0x10000, 0⟩] (sameWay g4)) = 0 ∧
    kindOf (checkAccess moving 6 0 false g4 [⟨4, 0x10000, 0⟩] (sameWay g4)) = 1 ∧
    kindOf (checkAccess user 6 0 false g4 [⟨4, 0x10000, 0⟩] (sameWay g4)) = 2 := by decide
def ldF : ExtForm := ⟨{ x0 with mod := 0x120, d := v 5, a := u 1 }, none⟩
def ldG : ExtForm := ⟨{ x0 with mod := 0x20, d := v 5, a := u 1 }, none⟩
theorem witness_load : goes win { (engAcc ldF 1 1 0).reads (addrM ldF 1).srcs with wNames := [5] } [4] [(5, 512)] ∧
    kindOf (checkAccess win 6 0 false sp4 ([4].map ((addrM ldF 1).lane win (win.cohort 6))) (sameWay sp4)) = 0 := by decide
theorem witness_load_global :
    goes (ureg win 1 0x10000) { (engAcc ldG 1 1 0).reads (addrM ldG 0).srcs with wNames := [5] } [4] [(5, 512)] ∧
    ((addrM ldG 0).lane (ureg win 1 0x10000) ((ureg win 1 0x10000).cohort 6) 4).ea = 0x10000 := by decide
theorem witness_ldu : goes win { (engAcc ldF 0 0 0).reads (addrM ldF 1).srcs with wUregs := [5], once := true } [4] ∧
    actingThread win [4] = some 4 := by decide
def holding : State := win.modCore 0 fun k => { k with scratch := [(0, 0x78), (1, 0x56), (3, 0x92)] }
theorem test_load : after (exec (.ld ldF) holding) (fun t => (t.thread 4).writes.map Pend.val) = some [0x92005678] := by decide
theorem test_load_traps : after (exec (.ld ldF) (ureg win 1 1022)) (fun t => (t.cohort 6).stop.map Stop.code) =
    some (some .spaceBound) := by decide
def stF : ExtForm := ⟨{ x0 with mod := 0x120, c := v 5, a := u 1 }, none⟩
def stored5 : State := ureg (win.modThread 4 fun t => { t with names := [(5, ⟨512, 0x11223344⟩)] }) 1 8
theorem witness_store :
    goes stored5 (wideBack ((engAcc stF 1 1 1).reads ((addrM stF 1).srcs ++ storeSrcs stF.x 1)) stF.x 1) [4] ∧
    kindOf (checkAccess stored5 6 0 false { sp4 with kind := 1 } ([4].map ((addrM stF 1).lane stored5 (stored5.cohort 6)))
      (sameWay { sp4 with kind := 1 })) = 0 ∧ storeSrcs stF.x 1 = [.name 5 false] := by decide
theorem test_store : after (exec (.st stF) stored5) (fun t => (t.core 0).scratch) =
    some [(8, 0x44), (9, 0x33), (10, 0x22), (11, 0x11)] := by decide
def cp0 : Copy :=
  { id := 60, unit := 0, ctx := 0, team := 3, plan := 1, thread := 4, kind := 2, tag := 1, cp := 0, a := 0, b := 16, len := 8,
    dsp := true, ssp := true, lay := none, origin := [], slot := none, pc := 9, lin := 0, lane := 0, priv := false }
def remote : State := { win with mem := { win.mem with copies := [{ cp0 with remote := true }] } }
theorem witness_system_wait : releaseWait remote [4] 5 = true ∧ releaseWait win [4] 5 = false ∧
    scopeFor win ⟨6, [4], []⟩ false 5 = 5 ∧ scopeFor win ⟨6, [4], []⟩ false 2 = 2 := by decide
theorem test_str_waits : after (exec (.str ⟨{ x0 with mod := 0x160, c := v 5, a := u 1 }, none⟩) remote)
    (fun t => ((t.cohort 6).pc, (t.cohort 6).wait)) = some (9, .stall .drain 0) := by decide
def atF : ExtForm := ⟨{ x0 with mod := 0x100, d := v 6, c := v 5, a := u 1 }, none⟩
theorem witness_atom : goes stored5 ((engAcc atF 1 1 1).reads ((addrMA atF 4).srcs ++ [opndSrc atF.x.c false false 1])) [4] ∧
    (addrMA atF 4).space = 1 := by decide
theorem test_atomr : after (exec (.atomr atF) stored5) (fun t => ((t.core 0).scratch.get 8, (t.thread 4).writes.map Pend.val)) =
    some (0x44, [0]) := by decide
def casF : ExtForm := ⟨{ x0 with mod := 0x100, d := v 7, c := u 4, a := u 1, pd := 0 }, none⟩
theorem witness_cas : goes (ureg stored5 4 0xAB00000000) { wideBack ((engAcc casF 1 1 2).reads ((addrMA casF 4).srcs ++ [.ureg 4 true])) casF.x 2 with
    wNames := [7], wPreds := [0] } [4] [(7, 1536)] := by decide
theorem test_cas : after (exec (.cas casF) (ureg stored5 4 0xAB00000000)) (fun t => (t.core 0).scratch.get 8) = some 0xAB ∧
    after (exec (.cas casF) (ureg stored5 4 0xAB00000001)) (fun t => (t.core 0).scratch.get 8) = some 0 := by decide
theorem witness_fence : goes win (engAcc f0 0 0 0) [4] ∧ goes remote (engAcc f0 0 0 0) [4] ∧ (win.cohort 6).priv = false ∧
    goes win ((engAcc f0 1 1 0).reads (addrM f0 0).srcs) [4] ∧
    goes win { (engAcc f0 1 1 0).reads (addrM f0 0).srcs with wNames := [3] } [4] [(3, 1536)] ∧
    goes win { (engAcc f0 1 1 0).reads (addrM f0 0).srcs with wUregs := [3], once := true } [4] := by decide
theorem test_tierq : after (exec (.tierq ⟨{ x0 with d := u 3 }, none⟩) win) (fun t => (t.cohort 6).writes.map Pend.val) =
    some [0x10001] := by decide

/-! Barriers, bells, hall passes, tags. -/

def pair2 : State := user.modLaunch 2 fun l => { l with teamSize := 2 }
def gen5 : State := (user.modTeam 3 fun t => { t with barGen := 5 }).modThread 4 fun t => { t with barRec := some 4 }
theorem witness_barrier : goes user (engAcc f0 0 0 0) [4] ∧ (user.thread 4).team = 3 ∧ (alookup user.work.teams 3).isSome ∧
    releaseWait remote [4] (teamScope remote 4) = false ∧ releaseWait user [4] (teamScope user 4) = false ∧
    (user.team 3).counted = [] ∧ (user.launch 2).teamSize = 1 ∧ exitedOf user 3 = [] ∧ goes pair2 (engAcc f0 0 0 0) [4] ∧
    exitedOf pair2 3 = [] ∧ (pair2.launch (pair2.team 3).launch).teamSize = 2 := by decide
theorem witness_bar_wait : (user.thread 4).barRec = none ∧ goes gen5 (engAcc f0 0 0 0) [4] ∧ (gen5.thread 4).barRec = some 4 ∧
    (gen5.team 3).barGen = 5 := by decide
theorem test_bar : after (exec (.bar f0) pair2) (fun t => ((t.team 3).counted, (t.thread 4).barRec, (t.cohort 6).wait)) =
    some ([4], some 0, .barrier [] true [4]) := by decide
theorem test_bar_last : after (exec (.bar f0) user) (fun t => ((t.team 3).counted, (t.cohort 6).wait)) = some ([], .none) := by
  decide

def line (b : Bell) : State := { user with mem := { user.mem with bells := [(0, b)] } }
def rung (g : Nat) : State := (line { target := 2, gen := 5, opened := 5 }).modThread 4 fun t => { t with bells := [(0, g)] }
theorem witness_bell : goes user (bellAcc f0) [4] ∧ bellLine user 6 f0 = 0 ∧ (bellAt user 0).target = 0 ∧
    goes user { bellAcc f0 with wPreds := [] } [4] ∧ goes (line { target := 2 }) (bellAcc f0) [4] ∧
    (bellAt (line { target := 2 }) 0).count = 0 ∧ goes (rung 4) (bellAcc f0) [4] ∧ goes (rung 5) (bellAcc f0) [4] ∧
    goes (rung 4) { bellAcc { f0 with x := { x0 with pd := 1 } } with wPreds := [1] } [4] := by decide
theorem test_bell : after (exec (.bell f0) (line { target := 2 })) (fun t => ((bellAt t 0).count, (t.cohort 6).wait)) =
    some (1, .bell 0 [4]) := by decide
theorem test_bell_last : after (exec (.bellArrive f0) (line { target := 2, count := 1, gen := 7 }))
    (fun t => ((bellAt t 0).count, (bellAt t 0).gen)) = some (0, 8) := by decide

def passes (p : HallPass) : State := { user with mem := { user.mem with passes := [(0, p)] } }
def free0 : HallPass := { valid := true }
theorem witness_hall_pass : goes user (passAcc f0) [4] ∧ passNo user 6 f0 = 0 ∧ (user.cohort 6).unit = 0 ∧
    (alookup user.mem.passes 0).all (fun p => !p.valid) = true ∧ goes user { passAcc f0 with wPreds := [] } [4] ∧
    goes (passes free0) (passAcc f0) [4] ∧ goes (passes { free0 with holder := some 0, count := 1 }) (passAcc f0) [4] ∧
    goes (passes { free0 with holder := some 9, count := 1 }) (passAcc f0) [4] ∧
    goes (passes { free0 with holder := some 0, count := 1, queue := [9] })
      { passAcc { f0 with x := { x0 with pd := 1 } } with wPreds := [1] } [4] := by decide
theorem test_regacq : after (exec (.regacq f0) (passes free0)) (fun t => (alookup t.mem.passes 0).map fun p => (p.holder, p.count)) =
    some (some (some 0, 1)) := by decide
theorem test_regrel : after (exec (.regrel f0) (passes { free0 with holder := some 0, count := 1, queue := [9] }))
    (fun t => (alookup t.mem.passes 0).map HallPass.holder) = some (some (some 9)) := by decide

def tagged (t : Tag) : State := user.modCore 0 fun k => { k with tags := [(3, t)] }
def tg (n : BitVec 16) : ExtForm := ⟨{ x0 with d := u 2, pd := 1, imm := n }, none⟩
theorem witness_tag : goes (tagged { done := true }) (tagAcc (tg 8) false) [4] ∧
    goes (tagged { done := true }) (tagAcc (tg 8) true) [4] ∧ goes (tagged { done := true }) (tagAcc (tg 0) true) [4] ∧
    tagMask (user.cohort 6) x0 = 0 ∧ (tagMask (user.cohort 6) (tg 8).x) = 8 ∧ (tagAt (tagged { done := true }) 0 3).done ∧
    goes (tagged { count := 1 }) (tagAcc (tg 8) false) [4] ∧ (tagAt (tagged { count := 1 }) 0 3).done = false ∧
    goes user { engAcc (tg 0) 0 0 0 with wUregs := [2], once := true } [4] ∧
    goes user { engAcc (tg 0) 0 0 0 with wUregs := [2] } [4] := by decide
theorem test_twait : after (exec (.twait (tg 8)) (tagged { count := 1 })) (fun t => (t.cohort 6).pc) = some 9 ∧
    after (exec (.twait (tg 8)) (tagged { done := true })) (fun t => (t.cohort 6).pc) = some 12 := by decide
theorem test_tfind : after (exec (.tfind (tg 0xC)) (tagged { done := true })) (fun t => (t.cohort 6).writes.map Pend.val) =
    some [3] := by decide

/-! Copies and stages: uniform registers 1 to 3 are the operands, 3 to 5 a box's origin. -/

def cpF (m : BitVec 10) (i : BitVec 16) : ExtForm := ⟨{ x0 with a := u 1, b := u 2, c := u 3, mod := m, imm := i }, none⟩
def cpAcc (f : ExtForm) (kind : Nat) : Acc :=
  let a0 := (engAcc f 1 1 (if kind = 2 then 1 else 0)).reads
    (if kind = 2 then [.ureg 1 true, .ureg 2 true, .ureg 3 true] else [.ureg 1 true, .ureg 2 true])
  { a0 with once := true, uregs := if kind = 2 then a0.uregs else a0.uregs ++ [3, 4, 5] }
def lin (len : DWord) : State := ureg (ureg win 2 16) 3 len
theorem witness_copy_lin : goes (lin 8) (cpAcc (cpF 0 3) 2) [4] ∧ goes (lin 0x200000000) (cpAcc (cpF 0 3) 2) [4] ∧
    linChecks (lin 8) 4 cp0 = none ∧ (linChecks (lin 8) 4 { cp0 with len := 1009 }).isSome ∧
    (linChecks (lin 8) 4 { cp0 with ssp := false, a := 2 ^ 52 }).isSome ∧
    linChecks (lin 8) 4 { cp0 with ssp := false, a := 2 ^ 52 - 8 } = none := by decide
def accs (s : State) : State := s.modPlan 1 fun p => { p with acct := 1 }
def cmd0 : MCmd := { id := 0, op := 3, team := 3 }
def slotted : State := (accs (lin 8)).modCore 0 fun k => { k with mx := { k.mx with slots := [(0, .loaded cmd0)] } }
theorem witness_copym : goes (lin 8) (cpAcc (cpF 0x200 3) 2) [4] ∧ (copymChecks (lin 8) 4 { cp0 with slot := some 0 }).isSome ∧
    goes slotted (cpAcc (cpF 0x200 3) 2) [4] ∧ copymChecks slotted 4 { cp0 with slot := some 0 } = none ∧
    linChecks slotted 4 { cp0 with slot := some 0 } = none ∧
    alookup (slotted.core 0).mx.slots 0 = some (.loaded cmd0) ∧ fld (cpF 0x200 3).x.mod 9 8 = 2 := by decide
/-- A layout record at 0x20000: one dimension of one 32-bit element at 0x30000. -/
def boxed (off : DWord) : State :=
  ureg (ureg { win with mem := { win.mem with gddr := win.mem.gddr ++ [(0x20002, 3), (0x20007, 8), (0x20008, 1)] } } 1 0x20000) 2 off
def cpB (kind off : Nat) : Copy := { cp0 with kind := kind, a := 0x20000, b := off, len := 0, dsp := false, ssp := false }
theorem witness_copy_box : goes (boxed 16) (cpAcc (cpF 0 0) 0) [4] ∧ goes (boxed 1021) (cpAcc (cpF 0 0) 1) [4] ∧
    (copyRecord (boxed 16) 4 (cpB 0 16)).1.toOption.map Layout.ndim = some 1 ∧
    (copyRecord (boxed 16) 4 (cpB 1 16)).1.toOption.map Layout.base = some 0x30000 ∧
    (copyRecord (boxed 16) 4 (cpB 0 16)).1.toOption.map
      (fun l => (boxChecks (copyRecord (boxed 16) 4 (cpB 0 16)).2 4 (cpB 0 16) l).isNone) = some true ∧
    (copyRecord (boxed 16) 4 (cpB 0 1020)).1.toOption.map
      (fun l => (boxChecks (copyRecord (boxed 16) 4 (cpB 0 1020)).2 4 (cpB 0 1020) l).isNone) = some true ∧
    (copyRecord (boxed 16) 4 (cpB 0 1021)).1.toOption.map
      (fun l => (boxChecks (copyRecord (boxed 16) 4 (cpB 0 1021)).2 4 (cpB 0 1021) l).isSome) = some true := by decide
theorem test_copy_traps : after (exec (.copyLin (cpF 0 3)) (lin 0x100000001)) (fun t => (t.cohort 6).stop.map Stop.code) =
    some (some .spaceBound) := by decide

def stg (kind : Nat) (srcv : DWord) (len : DWord) : State × Acc :=
  (ureg (ureg win 1 srcv) 3 len,
   { (engAcc (cpF 0 0) 1 1 1).reads [.ureg 1 true, if kind = 1 ∨ kind = 3 then .ureg 2 true else .zero, .ureg 3 true] with once := true })
def rq (kind srcv len : Nat) : StageReq :=
  { id := 0, unit := 0, ctx := 0, team := 3, plan := 1, kind := kind, tag := 0, src := srcv, dst := 0, len := len, pc := 9,
    lin := 0, lane := 0, priv := false }
theorem witness_stage : goes (stg 0 0 0).1 (stg 0 0 0).2 [4] ∧ goes (stg 1 0x1000 0x1000).1 (stg 1 0 0).2 [4] ∧
    goes (stg 3 0x100 0x1000).1 (stg 3 0 0).2 [4] ∧ stageChecks 4 (rq 0 0 0) = none ∧ stageChecks 4 (rq 1 0x1000 0x1000) = none ∧
    (stageChecks 4 (rq 3 0x100 0x1000)).isSome ∧ stageChecks 4 (rq 2 0x100 0x100) = none ∧
    (stageChecks 4 (rq 2 0x100 0x80)).isSome := by decide
theorem test_stage : after (exec (.stageDown1 (cpF 5 0)) (stg 2 0x100 0x100).1)
    (fun t => (t.mem.stages.map StageReq.len, (tagAt t 0 5).count)) = some ([0x100], 1) ∧
    after (exec (.stageUp0 (cpF 5 0)) (stg 0 0 0).1) (fun t => (t.mem.stages.length, (tagAt t 0 5).done)) = some (0, true) := by
  decide

/-! Queues: the object of stage 1 stands at 0x20000, with its slots of 16 bytes at 0x30000 and its bitmap at 0x40000. -/

def queued (n m : Word) (bytes : List Host.Cell) : State :=
  ({ win with mem := { win.mem with gddr := win.mem.gddr ++ bytes } }.modPlan 1 fun p =>
    { p with stages := [⟨1, [], 0, false, 0, 0, 0x20000⟩] }).modThread 4 fun t => { t with names := [(5, ⟨512, n⟩), (6, ⟨1536, m⟩)] }
def one0 : List Host.Cell := [(0x20002, 3), (0x2000D, 0x10), (0x20010, 1), (0x2001A, 4), (0x40000, 1)]
def consumer (s : State) : State := s.modLaunch 2 fun l => { l with stage := 1, claim := [.mem 0] }
def quF (m : BitVec 10) : ExtForm := ⟨{ x0 with d := u 2, b := v 5, c := v 6, mod := m }, none⟩
def quAcc (o c d : Bool) : Acc :=
  let a := (engAcc (quF 1) 0 (if o then 1 else 0) (if c then 1 else 0)).reads
    ((if o then [.name 5 false] else []) ++ (if c then [.name 6 false] else []))
  { a with wUregs := if d then [2] else [], once := true }
def okQ (s : State) (j : Nat) (p c : Bool) : Option (Nat × Nat × Nat) :=
  (queueFor s 4 j p c).toOption.map fun q => (q.slots, q.size, q.held)
def unfilled : State := consumer (queued 0 1 (one0.take 4))
set_option maxRecDepth 20000 in
theorem witness_queue_reads : goes (consumer (queued 0 1 one0)) (quAcc false false true) [4] ∧
    okQ (consumer (queued 0 1 one0)) 1 false true = some (2, 16, 1) ∧ goes (consumer (queued 0 1 one0)) (quAcc false true false) [4] ∧
    goes (consumer (queued 0 1 one0)) (quAcc true true true) [4] ∧ goes (consumer (queued 1009 1 one0)) (quAcc true true true) [4] ∧
    goes unfilled (quAcc true true true) [4] ∧ okQ unfilled 1 false true = some (2, 16, 1) ∧
    ((queueFor unfilled 4 1 false true).toOption.map fun q => filled unfilled 0 q 0) = some false ∧
    ((queueFor (consumer (queued 0 1 one0)) 4 1 false true).toOption.map fun q => filled (consumer (queued 0 1 one0)) 0 q 0) =
      some true ∧ (alookup (consumer (queued 0 1 one0)).work.launches 2).isSome := by decide
set_option maxRecDepth 20000 in
theorem test_qawait : after (exec (.qawait (quF 1)) (consumer (queued 0 1 one0)))
    (fun t => ((t.launch 2).taken, (t.cohort 6).writes.map Pend.val)) = some ([.mem 0], [1]) := by decide
set_option maxRecDepth 20000 in
theorem test_qstat : after (exec (.qstat (quF 1)) (consumer (queued 0 1 one0))) (fun t => (t.cohort 6).writes.map Pend.val) =
    some [0x100000001] := by decide
def room (n m : Word) : State := queued n m [(0x20002, 3), (0x2000D, 0x10), (0x2001A, 4)]
def oneSlot : State := queued 0 1 [(0x20002, 3), (0x20010, 1), (0x2001A, 4), (0x40000, 1)]
def fused : State := { room 0 1 with work := { (room 0 1).work with
  launches := (room 0 1).work.launches ++ [(70, { (room 0 1).launch 2 with stage := 1, ring := some 71 })]
  rings := [(71, { plan := 1, stage := 1, unit := 0, slots := 1, size := 16, base := 512 })] } }
set_option maxRecDepth 20000 in
theorem witness_queue_pushes : goes (room 0 1) (quAcc true true false) [4] ∧ okQ (room 0 1) 1 true false = some (2, 16, 0) ∧
    goes (room 0 3) (quAcc true true false) [4] ∧ goes (room 1009 1) (quAcc true true false) [4] ∧
    goes (room 0 0) (quAcc true true false) [4] ∧ ((room 0 0).cohort 6).pushed = 0 ∧
    goes (accs (room 0 1)) (quAcc true true false) [4] ∧ ((room 0 1).planOf 4).draw = false ∧
    goes ((room 0 1).modPlan 1 fun p => { p with draw := true }) (quAcc true true false) [4] ∧
    ((room 0 1).launchOf 4).stage = 0 ∧ freeRing fused 1 1 0 = some (71, 0) ∧ okQ fused 1 true false = some (2, 16, 0) ∧
    goes fused (quAcc true true false) [4] ∧ goes oneSlot (quAcc true true false) [4] ∧ okQ oneSlot 1 true false = some (1, 16, 1) ∧
    (pushAll oneSlot 6 4 0 1 0x20000 0 false 16 1).toOption.map (fun x => (x.count, x.waits)) = some (0, false) := by decide
set_option maxRecDepth 20000 in
theorem test_qpush : after (exec (.qpush (quF 1)) (room 0 1)) (fun t => (t.mem.gddr.get 0x20010, t.mem.gddr.get 0x40000)) =
    some (1, 1) := by decide
set_option maxRecDepth 20000 in
theorem test_qpush_full : after (exec (.qpush (quF 1)) oneSlot) (fun t => ((t.cohort 6).pc, (t.cohort 6).wait)) =
    some (9, .stall (.queueRoom 4 1) 0) := by decide

/-! The matrix array. -/

def mxs (n : Word) (f : Matrix → Matrix) : State :=
  ((accs win).modThread 4 fun t => { t with names := [(5, ⟨512, n⟩)] }).modCore 0 fun k => { k with mx := f k.mx }
def mxF (m : BitVec 10) (i : BitVec 16) : ExtForm := ⟨{ x0 with a := v 5, b := v 5, c := v 5, d := u 2, mod := m, imm := i }, none⟩
def m0 : MCmd := { id := 80, op := 3, team := 3, tag := some 1 }
def full16 : State := mxs 0 fun m => { m with queue := List.replicate 16 m0 }
theorem witness_matrix_command : goes (mxs 0 id) (mxAcc (mxCode 3) (mxF 0 0x41)) [4] ∧ goes full16 (mxAcc (mxCode 3) (mxF 0 0x41)) [4] ∧
    (mxWaiting (full16.core 0).mx).length = 16 ∧ (mxWaiting ((mxs 0 id).core 0).mx).length = 0 ∧
    mxCheck (mxs 0 id) 0 4 m0 = none ∧ (mxCheck (mxs 0 id) 0 4 { m0 with acc := 1 }).isSome ∧
    (mxCheck win 0 4 m0).isSome ∧ goes (mxs 3 id) (mxAcc (mxCode 3) (mxF 0 0x41)) [4] ∧
    (mxCheck (mxs 3 id) 0 4 (mxCmd (mxs 3 id) ((mxs 3 id).cohort 6) 4 (mxF 0 0x41).x 1 16)).isSome := by decide
theorem test_mzero : after (exec (.mzero (mxF 0 0x41)) (mxs 0 id)) (fun t => ((t.core 0).mx.queue.map MCmd.op, (tagAt t 0 1).count)) =
    some ([3], 1) := by decide
theorem test_mma_without_load : after (exec (.mma16 (mxF 0 0)) (mxs 0 id)) (fun t => (t.cohort 6).stop.map Stop.code) =
    some (some .engineFault) := by decide
def loaded0 : State := mxs 0 fun m => { m with issued := [(0, 0)] }
def wide (s : State) : State := s.modPlan 1 fun p => { p with spwin := 8 }
theorem witness_matrix_staging : goes (wide loaded0) (mxAcc 0x81 (mxF 0 0x2000)) [4] ∧
    goes (mxs 0 fun m => { m with slots := [(0, .occupied m0)] }) (mxAcc 0x81 (mxF 0 0x2000)) [4] ∧
    mxCheck (wide loaded0) 0 4 { mxCmd (wide loaded0) ((wide loaded0).cohort 6) 4 (mxF 0 0x2000).x 1 16 with tag := none } = none ∧
    goes (mxs 0 id) (mxAcc 0x81 (mxF 0 0x2000)) [4] ∧
    (mxCheck (mxs 0 id) 0 4 { mxCmd (mxs 0 id) ((mxs 0 id).cohort 6) 4 (mxF 0 0x2000).x 1 16 with tag := none }).isSome ∧
    goes win { engAcc (mxF 0 0) 0 0 0 with wUregs := [2], once := true } [4] ∧ (win.planOf 4).acct = 0 ∧
    goes (mxs 0 id) { engAcc (mxF 0 0) 0 0 0 with wUregs := [2], once := true } [4] ∧
    goes full16 { engAcc (mxF 1 0) 0 0 0 with wUregs := [2], once := true } [4] ∧
    (full16.core 0).mx.queue.filter (fun q => q.team == 3) ≠ [] := by decide
theorem test_mstat : after (exec (.mstat (mxF 0 0)) full16) (fun t => (t.cohort 6).writes.map Pend.val) = some [16] := by decide
def running (c : MCmd) : State := ev (mxs 0 fun m => { m with queue := [c] }) { a := 0, b := 80 }
theorem witness_matrix_array : mxWaiting ((running m0).core 0).mx = [m0] ∧
    mxMayStart 0 (((running m0).core 0).mx.queue.filter fun e => e.due.isSome) m0 = true ∧
    (running { m0 with due := some 0 }).sched.clk = 0 ∧
    ((running { m0 with due := some 0 }).core 0).mx.queue.find? (fun q => q.id == 80) = some { m0 with due := some 0 } ∧
    ((running { m0 with op := 1, rows := 16, due := some 0 }).core 0).mx.queue.find? (fun q => q.id == 80) =
      some { m0 with op := 1, rows := 16, due := some 0 } ∧
    mxMayStart 0 [{ m0 with id := 81, due := some 9 }] m0 = false ∧
    mxWaiting ((ev (mxs 0 fun m => { m with queue := [{ m0 with id := 81, due := some 9 }, m0] }) {}).core 0).mx = [m0] := by decide
theorem test_start : after (exec .matrixCommandStart (running m0)) (fun t => (t.core 0).mx.queue.map MCmd.due) = some [some 4] := by
  decide

/-! Surfaces: slot 0 of context 0 is bound to 16 × 16 pixels, and its tile (0, 0) is resident. -/

/-- A word of the cohort passes its checks with these executing threads. -/
def runs (s : State) (a : Acc) (ths : List Nat) : Bool :=
  match prep s a with
  | .go r => r.id == 6 && r.ths == ths
  | _ => false
def ste0 (fmt : Nat) : Ste :=
  { load := false, keep := false, fmt := fmt, nl := 1, wm1 := 15, hm1 := 15, spill := 0x30000 }
def key0 : TileKey := ⟨0, 0, 0, 0, 0⟩
def tile0 (fmt : Nat) : Tile := { key := key0, st := .resident, bytes := List.replicate (tileLen fmt) 0 }
def unbacked (fmt : Nat) : State :=
  { mapped user with cfg := { user.cfg with ctxs := [(0, { xlen := true, ptroot := 0x2000, steps := 1 })] }
                     surf := { bound := [(0, ste0 fmt)] } }
def surfaced (fmt : Nat) (xy : Word) : State :=
  ({ unbacked fmt with surf := { bound := [(0, ste0 fmt)], tiles := [tile0 fmt] } }).modThread 4 fun t =>
    { t with names := [(5, ⟨512, xy⟩), (6, ⟨1024, 7⟩), (7, ⟨1536, 0⟩)] }
def sfF (m : BitVec 10) : ExtForm := ⟨{ x0 with d := v 8, a := v 5, b := v 6, c := v 7, mod := m }, none⟩
def sldAcc (n : Nat) (m : BitVec 10) : Acc := { surfAcc (sfF m) 1 0 [.name 5 false] with wNames := (List.range n).map (8 + ·) }

set_option maxRecDepth 4000 in
theorem witness_sld : runs (surfaced 1 0) (sldAcc 4 0) [4] ∧ (surfSte (surfaced 1 0) 0 0 0).isSome ∧
    surfSte (surfaced 1 0) 0 0 1 = none ∧ runs (surfaced 6 0) (sldAcc 4 0) [4] ∧ runs (surfaced 1 0) (sldAcc 1 0x200) [4] ∧
    (tileOf (surfaced 1 0) key0).st = .resident ∧ asleep (surfaced 1 0) key0 = false ∧
    (tileOf (unbacked 1) key0).st = .spilled ∧ (ste0 1).inside 0 15 15 ∧ (ste0 1).inside 0 16 15 = false ∧
    runs (surfaced 1 0x100010) (sldAcc 4 0) [4] := by decide
theorem test_sld : after (exec (.sld (sfF 0)) (surfaced 1 0)) (fun t => (t.thread 4).writes.map Pend.val) =
    some [0, 0, 0, 0x3F800000] := by decide
set_option maxRecDepth 20000 in
theorem test_sld_waits : after (exec (.sld (sfF 0)) (surfaced 1 8))
    (fun t => ((t.cohort 6).pc, (t.thread 4).writes.map Pend.held, t.surf.reqs.map SurfReq.thread)) =
    some (12, [true, true, true, true], [4]) := by decide
set_option maxRecDepth 20000 in
theorem witness_sst : runs (surfaced 1 0) (surfAcc (sfF 1) 1 4 [.name 5 false, .name 6 false]) [4] ∧
    runs (surfaced 1 8) (surfAcc (sfF 1) 1 4 [.name 5 false, .name 6 false]) [4] ∧
    runs (surfaced 1 0) (surfAcc (sfF 0x200) 1 1 [.name 5 false, .name 6 false]) [4] ∧
    runs (surfaced 6 0) (surfAcc (sfF 0) 1 4 [.name 5 false]) [4] ∧ runs (surfaced 6 0) (surfAcc (sfF 0) 1 2 [.name 5 false, .name 6 true]) [4] ∧
    runs (surfaced 1 0) (surfAcc (sfF 0) 1 2 [.name 5 false, .name 6 true]) [4] ∧
    (tileOf (surfaced 1 0) key0).bytes.length = tileLen 1 := by decide
theorem test_sst : after (exec (.sst (sfF 1)) (surfaced 1 0)) (fun t => (tileOf t key0).bytes.take 4) = some [7, 0, 0, 0] := by decide
theorem witness_stinfo : runs (surfaced 1 0) { surfAcc (sfF 0) 0 0 [] with wUregs := [8] } [4] ∧
    alookup (surfaced 1 0).surf.bound 0 = some (ste0 1) := by decide
theorem test_stinfo : after (exec (.stinfo (sfF 0)) (surfaced 1 0)) (fun t => (t.cohort 6).writes.map Pend.val) =
    some [0x000F000F00008010] := by decide

def saF : ExtForm := ⟨{ x0 with d := v 8, a := v 9, b := u 4, c := v 7 }, none⟩
def sampled (fmt : Nat) (w : DWord) (x : Word) : State :=
  ureg ((surfaced fmt 0).modThread 4 fun t => { t with names := [(7, ⟨1536, 0⟩), (9, ⟨512, x⟩), (10, ⟨1024, 0⟩)] }) 4 w
def samAcc (lod : Option Src) : Acc :=
  { (engAcc saF 2 0 (if lod.isSome then 1 else 0)).reads ([.name 9 true, .ureg 4 true] ++ lod.toList) with
    wNames := (List.range 4).map (8 + ·) }
theorem witness_samp : runs (sampled 1 0 0) (samAcc none) [4] ∧ (parseSampler 0).isSome ∧ parseSampler 1 = none := by decide
def smF : ExtForm := ⟨{ x0 with d := v 12, a := v 9, b := u 4, c := v 7 }, none⟩
def smAcc (lod : Option Src) : Acc :=
  { (engAcc smF 2 0 (if lod.isSome then 1 else 0)).reads ([.name 9 true, .ureg 4 true] ++ lod.toList) with
    wNames := (List.range 4).map (12 + ·) }
theorem witness_sampl : runs (sampled 1 0 0) (smAcc none) [4] ∧ runs (sampled 1 0 0) (smAcc (some (.name 7 false))) [4] ∧
    runs (sampled 6 0 0) (smAcc none) [4] ∧ runs (sampled 1 1 0) (smAcc none) [4] ∧ runs (sampled 1 0 0x3F000000) (smAcc none) [4] ∧
    notResident (sampled 1 0 0) (sampleTiles (ste0 1) 0 0 ((parseSampler 0).getD ⟨0, 0, 0, false, 0⟩) 0 0 0) = [] ∧
    notResident (sampled 1 0 0x3F000000) (sampleTiles (ste0 1) 0 0 ((parseSampler 0).getD ⟨0, 0, 0, false, 0⟩) 0 0x3F000000 0) =
      [⟨0, 0, 0, 1, 0⟩] ∧ surfSte user 0 0 0 = none ∧ runs user { engAcc smF 0 0 0 with wNames := [12, 13, 14, 15] } [4] := by decide
theorem test_samp : after (exec (.samp smF) (sampled 1 0 0)) (fun t => (t.thread 4).writes.map Pend.val) =
    some [0, 0, 0, 0x3F800000] := by decide

def bkF (m : BitVec 10) : ExtForm := ⟨{ x0 with d := u 8, a := v 5, b := v 5, c := v 6, mod := m }, none⟩
def bkAcc : Acc := { (engAcc (bkF 0) 1 1 2).reads [.name 5 false, .name 5 false, .name 6 true] with wUregs := [8], once := true }
def banks (l : AMap BankRec) : State := (surfaced 1 0).modTeam 3 fun t => { t with banks := l }
def eight : AMap BankRec := (List.range 8).map fun i => (i, { busy := true, jobs := 1 })
def stF2 (m : BitVec 10) : ExtForm := ⟨{ x0 with d := u 8, a := u 5, mod := m }, none⟩
theorem witness_bank_words : runs (banks []) bkAcc [4] ∧ runs (banks eight) bkAcc [4] ∧ (∀ n, n < 8 → n ∈ eight.map Prod.fst) ∧
    bankCause 0 (ste0 1) none 1 = 0 ∧ bankCause 5 (ste0 1) none 1 = 9 ∧ bankCause 2 (ste0 1) none 1 = 10 ∧
    (bankTiles (ste0 1) 0 0 0 (0, 0) (1, 0)).length = 2 ∧
    runs (banks eight) { engAcc (stF2 0) 0 0 0 with uregs := [5], wUregs := [8], once := true } [4] ∧
    runs (banks []) { engAcc (stF2 3) 0 0 0 with uregs := [5], wUregs := (List.range 8).map (8 + ·), once := true } [4] ∧
    (bankRec (banks eight) 3 0).busy ∧ (bankRec (banks eight) 3 0).jobs ≠ 0 ∧ bankRec (banks []) 3 0 = {} := by decide
theorem test_bankop : after (exec (.bankopFill (bkF 0)) (banks [])) (fun t => (t.surf.jobs.map Job.tile, (bankRec t 3 0).jobs)) =
    some ([key0], 1) := by decide
theorem test_bankst : after (exec (.bankst (stF2 0)) (banks eight)) (fun t => (t.cohort 6).writes.map Pend.val) =
    some [0x4000000000000001] := by decide

/-! The draw pipeline: plan 1 draws, with one draw record of one meshlet onto slot 0. -/

def dr0 : Draw :=
  { hw := 0, cx := 0, hh := 0, cy := 0, dz := 0, oz := 0, sx0 := 0, sy0 := 0, sx1 := 15, sy1 := 15, mcount := 2, cull := 0, dfunc := 7,
    dwrite := false, den := false, nct := 1, nattr := 1, dslot := 0, ct := [0, 0, 0, 0],
    blend := [⟨false, 0, 0, 0, 0, 0, 0, 15⟩], k := [0, 0, 0, 0], invalid := false }
def drawing (s : State) (stage : Nat) : State :=
  (s.modPlan 1 fun p => { p with draw := true, draws := [dr0], stages := [⟨1, [⟨4, 0, 0⟩], 0, true, 0, 0, 0⟩, ⟨1, [⟨4, 0, 0⟩], 0, true, 0, 0, 0⟩] }).modLaunch 2
    fun l => { l with stage := stage }
def meshF (m : BitVec 10) : ExtForm := ⟨{ x0 with a := v 6, mod := m }, none⟩
def endF : ExtForm := ⟨{ x0 with a := u 1 }, none⟩
def vAcc : Acc := (engAcc (meshF 0) 1 0 0).reads [.name 6 false]
def eAcc : Acc := { engAcc endF 0 0 0 with uregs := [1] }
def meshed (n : Word) (f : Thread → Thread) : State :=
  (drawing user 0).modThread 4 fun t => f { t with names := [(6, ⟨1024, n⟩)] }
def half : State :=
  { meshed 0 id with work := { (meshed 0 id).work with
      teams := amodify (meshed 0 id).work.teams 3 fun t => { t with threads := [4, 5] }
      threads := (meshed 0 id).work.threads ++ [(5, { (meshed 0 id).thread 4 with lin := 1 })] } }
theorem witness_mesh : runs (meshed 0 id) vAcc [4] ∧ runs (meshed 0x80 id) vAcc [4] ∧ runs (meshed 0 id) eAcc [4] ∧
    runs (ureg (meshed 0 id) 1 0x200000000) eAcc [4] ∧ runs (stored5.modThread 4 fun t => { t with names := [(6, ⟨1024, 0⟩)] }) vAcc [4] ∧
    runs (meshed 0 fun t => { t with meshArr := true }) vAcc [4] ∧ runs (meshed 0 fun t => { t with seat := 128 }) vAcc [4] ∧
    runs half eAcc [4] ∧ (alookup half.work.threads 5).isSome ∧ exitedOf half 3 = [] ∧ (half.teamOf 4).launch = (half.thread 4).launch ∧
    (half.teamOf 4).mesh = none ∧ (half.thread 5).team = 3 ∧ ((drawAt half 1 0).map Draw.mcount) = some 2 ∧
    ((meshed 0 id).teamOf 4).threads = [4] ∧ (user.planOf 4).draw = false := by decide
theorem test_emitp : after (exec (.emitp (meshF 0)) (meshed 0x030201 id)) (fun t => (meshOf t 3).tris) = some [⟨1, 2, 3⟩] := by decide
theorem test_meshend : after (exec (.meshend endF) (meshed 0 id)) (fun t => t.draw.closed) = some [(1, 0, 0)] ∧
    after (exec (.meshend endF) half) (fun t => (t.thread 4).meshArr) = some true := by decide

/-- A vertex at a pixel position with w = 1. -/
def vx (x y : Word) : List Word := [x, y, 0, 0x3F800000]
def q0 : Quad :=
  { id := 90, plan := 1, d := 0, m := 0, prim := 0, x := 0, y := 0, cov := 15, back := false, tile := key0, ordinal := 0,
    verts := [vx 0 0, vx 0 0, vx 0 0], src := 0 }
def quadded (q : Quad) : State := { drawing (surfaced 1 0) 2 with draw := { quads := [q] } }
def pixels : State := (quadded { q0 with phase := 2 }).modThread 4 fun t => { t with quad := some 90, names := [(6, ⟨1024, 7⟩)] }
def pxF (m : BitVec 10) : ExtForm := ⟨{ x0 with d := v 8, a := v 6, mod := m }, none⟩
theorem witness_pixel : runs pixels { engAcc (pxF 0) 0 0 0 with wNames := [8] } [4] ∧
    runs pixels ((engAcc (pxF 0x200) 1 0 0).reads [.name 6 false]) [4] ∧ runs pixels (engAcc (pxF 0) 0 0 0) [4] ∧
    (pixels.launchOf 4).stage = 2 ∧ (pixels.planOf 4).draw ∧ (quadOf pixels 4).isSome ∧ (triOf dr0 q0.verts).isSome ∧
    runs user (engAcc (pxF 0) 0 0 0) [4] := by decide
theorem test_quadrd : after (exec (.quadrd (pxF 2)) pixels) (fun t => (t.thread 4).writes.map Pend.val) = some [31] := by decide
theorem test_exportz : after (exec (.exportPix (pxF 0x200)) pixels) (fun t => (t.thread 4).zexp) = some (some 7) := by decide

def ml0 : Meshlet := { plan := 1, team := 3, unit := 0, pair := some (0, 0), closed := true, tris := [⟨0, 1, 2⟩] }
def meshlets (q : List Quad) (l : List Meshlet) : State :=
  ev ({ drawing (surfaced 1 0) 2 with draw := { quads := q } }.modCore 0 fun k => { k with closed := l }) { a := 0 }
theorem witness_raster : ((meshlets [] [ml0]).core 0).closed = [ml0] ∧ (drawAt (meshlets [] [ml0]) 1 0).isSome ∧
    firstWaiting (meshlets [] [ml0]) 0 = [] ∧ (user.core 0).closed = [] ∧ firstWaiting (meshlets [q0] [ml0]) 0 = [q0] ∧
    admissible (meshlets [q0] [ml0]) q0 = true := by decide
theorem test_raster : after (exec .rasteriseMeshlet (meshlets [] [ml0])) (fun t => ((t.core 0).closed, t.draw.bcasts.length, (t.core 0).evras)) =
    some ([], 1, 1) := by decide
def admitting (a : Nat) : State := ev (quadded q0) { a := a, tile := key0 }
theorem witness_admission : firstWaiting (admitting 90) 0 = [q0] ∧ admissible (admitting 90) q0 = true ∧
    ((admitting 90).draw.quads.find? fun q => q.id == 90) = some q0 ∧ (∀ q ∈ (admitting 91).draw.quads, q.id ≠ 91) ∧
    ((admitting 90).draw.quads.find? fun q => q.id == 90) = some q0 ∧ firstWaiting (quadded { q0 with phase := 1 }) 0 = [] := by decide
def admitted : State := ev (quadded { q0 with phase := 1 }) { a := 0 }
theorem witness_pixel_launch : (pixelPlans admitted 0).map Prod.fst = [1] ∧ (waitingQuads admitted 0 1).length = 1 ∧
    (pixelPlans (ev (quadded q0) { a := 0 }) 0) = [] ∧
    (pixelPlans (admitted.modPlan 1 fun p => { p with age := 0 }) 0).map Prod.fst = [1] := by decide
theorem test_pixel_launch : after (exec .pixelLaunch admitted) (fun t => t.draw.quads.map Quad.phase) = some [2] := by decide
def bcast : State := ev { quadded q0 with draw := { quads := [q0], bcasts := [⟨95, 1, 0, 0, some (0, 0, 0, 0), [], [], [], 0⟩] } }
  { a := 95, tile := key0 }
theorem test_broadcast : after (exec .broadcastArrival bcast) (fun t => t.draw.bcasts.map fun b => (b.arrived, b.marked)) =
    some [([key0], [])] := by decide
def done0 : Quad := { q0 with phase := 3, pixels := [(0, none, [(0, [7, 0, 0, 0])])] }
def blending (q : Quad) (tiles : List Tile) : State :=
  ev { quadded q with surf := { (quadded q).surf with tiles := tiles } } { tile := key0 }
set_option maxRecDepth 20000 in
theorem witness_blend : blendable (blending done0 [tile0 1]) = [done0] ∧ blendable (blending q0 [tile0 1]) = [] ∧
    notResident (blending done0 [tile0 1]) (quadTiles dr0 key0) = [] ∧ notResident (blending done0 []) (quadTiles dr0 key0) = [key0] ∧
    (ev (blending done0 [tile0 1]) { tile := { key0 with tx := 2 } }).sched.arg.tile ≠ key0 ∧
    bankOf (blending done0 [tile0 1]) key0 = bankOf (blending done0 [tile0 1]) key0 := by decide
theorem test_blend : after (exec .quadBlend (blending done0 [tile0 1])) (fun t => ((tileOf t key0).bytes.take 4, t.draw.quads)) =
    some ([7, 0, 0, 0], []) := by decide

/-! Tiles and bank units. -/

def tiled (t : Tile) : State := ev { surfaced 1 0 with surf := { bound := [(0, ste0 1)], tiles := [t] } } { tile := key0, ok := true }
def fillingT : Tile := { tile0 1 with st := .filling }
def goneSte : State := { tiled fillingT with surf := { (tiled fillingT).surf with bound := [(0, { ste0 1 with spill := 0x800000000000 })] } }
theorem witness_tile_events : (tileOf (tiled fillingT) key0).st = .filling ∧ (tileOf (tiled fillingT) key0).key = key0 ∧
    (tileOf (tiled fillingT) key0).raw = true ∧ (spillPa (tiled fillingT) key0 false).1.map Prod.fst = some 0x30000 ∧
    (spillPa goneSte key0 false).1 = none ∧ (tileOf goneSte key0).st = .filling ∧
    (spillPa (tiled { tile0 1 with st := .spilling }) key0 true).1.map Prod.fst = some 0x30000 ∧
    (tileOf (tiled { tile0 1 with st := .spilling }) key0).st = .spilling ∧
    (tileOf (tiled { tile0 1 with st := .filling, blank := true }) key0).blank = true ∧
    (tiled { tile0 1 with st := .spilling }).sched.arg.ok = true := by decide
set_option maxRecDepth 20000 in
theorem test_fill : after (exec .fillComplete (tiled fillingT)) (fun t => (tileOf t key0).st) = some .resident := by decide
def wanting : Tile := { tile0 1 with st := .spilled, wants := true }
set_option maxRecDepth 20000 in
theorem witness_eviction : (tileOf (tiled wanting) key0).wants = true ∧ frameFree (tiled wanting) key0 true = true ∧
    asleep (tiled wanting) key0 = false := by decide
/-- A tile that fills its bank, and one of the same bank that waits for a frame. -/
def key1 : TileKey := ⟨0, 22, 0, 10, 32⟩
def crowded (st : TileState) (bs : List Byte) : State :=
  ev { surfaced 1 0 with surf := { bound := [(0, ste0 1)], tiles := [{ key := key0, st := st, bytes := bs }, { wanting with key := key1 }] } }
    { tile := key1 }
set_option maxRecDepth 20000 in
theorem witness_no_frame (bs : List Byte) (h : bs.length = 131072) :
    frameFree (crowded .resident bs) key1 true = false ∧ frameFree (crowded .resident bs) key1 false = false ∧
    frameFree (crowded .spilling bs) key1 true = false := by
  have k0 (st : TileState) : bankOf (crowded st bs) key0 = (0, 255) := by cases st <;> rfl
  have k1 (st : TileState) : bankOf (crowded st bs) key1 = (0, 255) :=
    Eq.trans (show _ = bankOf (surfaced 1 0) key1 from rfl) (by decide)
  have tiles (st : TileState) : (crowded st bs).surf.tiles = [{ key := key0, st := st, bytes := bs }, { wanting with key := key1 }] := rfl
  have len (st : TileState) : (tileOf (crowded st bs) key1).bytes.length = 256 := by cases st <;> rfl
  have ctx : key0.ctx = key1.ctx := rfl
  refine ⟨?_, ?_, ?_⟩ <;> simp [frameFree, framesHeld, tiles, len, h, k0, k1, ctx, wanting]
def layers (f : Core → Core) : State := ev (user.modCore 0 f) { a := 0, b := 1 }
theorem witness_retention : (layers fun k => { k with retain := 1 }).sched.arg.b = 1 ∧
    (((layers fun k => { k with retain := 1 }).core 0).retain ≠ 0) ∧ ((layers id).core 0).retained = [] ∧
    alookup ((layers fun k => { k with waking := [(1, 0)] }).core 0).waking 1 = some 0 ∧
    alookup ((layers fun k => { k with waking := [(1, 9)] }).core 0).waking 1 = some 9 ∧ alookup ((layers id).core 0).waking 1 = none ∧
    ((layers fun k => { k with retain := 1 }).modSched fun x => { x with clk := 5 }).sched.clk = 5 ∧ (layers id).sched.clk = 0 := by decide
def job0 : Job := { id := 91, team := 3, record := 0, plan := 1, op := 0, tile := key0, alpha := 0x3F800000, beta := 0 }
def jobs (j : Job) (tiles : List Tile) : State :=
  ev { banks [(0, { busy := true, jobs := 1 })] with surf := { bound := [(0, ste0 1)], tiles := tiles, jobs := [j] } } { a := 91 }
set_option maxRecDepth 20000 in
theorem witness_bank_events : jobOf (jobs job0 []) 91 = some job0 ∧ jobNext (jobs job0 []) job0 = true ∧
    jobNext (jobs { job0 with suspended := true } []) { job0 with suspended := true } = false ∧
    notResident (jobs { job0 with running := true } [tile0 1]) (jobTiles job0) = [] ∧
    notResident (jobs { job0 with running := true } []) (jobTiles job0) = [key0] ∧ bankFmtOk 0 1 = true ∧
    (tileOf (jobs job0 [tile0 1]) key0).bytes.length = tileLen 1 ∧ 3 < bpp 1 ∧ (3 + 1) * 64 = tileLen 1 ∧
    alookup ((jobs job0 []).team 3).banks 0 = some { busy := true, jobs := 1 } := by decide
set_option maxRecDepth 20000 in
theorem test_rowstep : after (exec .rowStep (jobs { job0 with running := true, rc := 3 } [tile0 1]))
    (fun t => ((bankRec t 3 0).jobs, t.surf.jobs.length, (tileOf t key0).bytes.drop 252)) = some (0, 0, [0, 0, 0x80, 0x3F]) := by decide

/-! Configuration. -/

def cfgd (a v : DWord) : State := ev user { cfg := ⟨32, a, v⟩ }
theorem witness_config : (cfgWrite user 32 0x100000 1).isSome ∧ (cfgWrite user 0 0x100000 1).isSome ∧ cfgWrite user 1 0x100000 1 = none ∧
    cfgWrite user 32 0x100000 2 = none ∧ cfgUnit 0x100000 = .core ∧ (cfgWrite user 32 0x0 0).isSome ∧ (cfgWrite user 32 0x4000 9).isSome ∧
    (cfgWrite user 32 0x4008 9).isSome ∧ (cfgWrite user 32 0x10000 9).isSome ∧ (cfgWrite user 32 0x100040 64).isSome ∧
    cfgWrite user 32 0x100040 65 = none ∧ (cfgWrite user 32 0x8000 1).isSome ∧ (cfgWrite user 32 0x100100 0).isSome ∧
    (cfgWrite user 32 0x100120 1).isSome ∧ (cfgWrite user 32 0x200000 7).isSome ∧ cfgWrite user 32 0x200000 8 = none ∧
    (passAt (passes { free0 with holder := some 0 }) 0).holder ≠ none := by decide
theorem test_quota : after (exec .ccQuotaWrite (cfgd 0x100040 1)) (fun t => cfgRead t 32 0x100040) = some (some 1) := by decide
def boundary : State := { user with
  cfg := { user.cfg with deferred := true, ctxs := [(0, { stepsP := 2 })] }
  work := { user.work with plans := amodify user.work.plans 1 fun p => { p with begun := true, done := true } } }
theorem witness_boundary : boundary.cfg.deferred = true ∧ (∀ p ∈ boundary.work.plans, p.2.begun = true → p.2.done = true) ∧
    boundary.mem.copies = [] ∧ boundary.mem.stages = [] ∧ (∀ e ∈ boundary.surf.bound, e.2.keep = false) ∧ user.cfg.deferred = false := by decide
theorem test_boundary : after (exec .contextBoundary boundary) (fun t => (ctxOf t 0).steps) = some 2 := by decide
theorem witness_window_events : (ev both { a := 0, value := 0x100000000 }).sched.arg.value.toNat / 2 ^ 16 % 256 = 0 ∧
    (ev both { a := 1, value := 0 }).sched.arg.value.toNat / 2 ^ 16 % 256 ≠ 1 ∧ handleCohort both (both.core 0).dwsel = none ∧
    handleCohort selected (selected.core 0).dwsel = some 13 := by decide

/-! Cohorts and bins. -/

def mine (f : Cohort → Cohort) : State := ev (user.modCohort 6 f) { a := 6 }
def capped : State := (mine fun c => { c with issued := 256 }).modCore 0 fun k => { k with current := [(0, 6)] }
theorem witness_cohort_events : (select user 0).map Prod.fst = some 6 ∧ (select (mine fun c => { c with capMark := true }) 0).map Prod.fst = some 6 ∧
    alookup (capped.core 0).current 0 = some 6 ∧ (capped.cohort? 6).isSome ∧ unpublished passing 6 1 1 4 = false ∧
    unpublished (passing.modThread 4 fun t => { t with lin := 1 }) 6 1 1 4 = true := by decide
theorem test_cap : after (exec .issueCap capped) (fun t => (t.cohort 6).capMark) = some true := by decide
def arriving : State := ev (user.modThread 4 fun t => { t with writes := [{ id := 99, tgt := .name 8, var := true, due := 0, val := 7, row := some 0 }] }) { b := 99 }
theorem witness_result : (arriving.thread 4).writes.length = 1 ∧ (∀ p ∈ (arriving.thread 4).writes, p.seat = none) ∧
    (alookup arriving.work.threads 4).isSome := by decide
theorem test_result : after (exec .variableLatencyResult arriving) (fun t => ((t.thread 4).readName 8, (t.thread 4).writes.length)) =
    some (7, 0) := by decide
def binned (cond : BinCond) : State :=
  ev { (user.modThread 4 fun t => { t with place := .bin 0 0 }).modCore 0 (fun k => { k with bins := [(0, ⟨2, 20, cond, [{ thread := 4, time := 0 }], [], false, false⟩)] }) with
         work := { (user.modThread 4 fun t => { t with place := .bin 0 0 }).work with cohorts := [] } } { a := 0, b := 0 }
def full24 : State := { binned .openBin with work := { (binned .openBin).work with
  cohorts := (List.range 24).map fun i => (100 + i, { user.cohort 6 with ctx := i }) } }
def waitsCtx : State := { binned .openBin with work := { (binned .openBin).work with
  lcohs := [(7, { team := 3, unit := 0, part := 0, threads := [4], waiting := some 30 })] } }
theorem witness_formation : freeCtx (binned .openBin) 0 0 = some 0 ∧ waitingLcoh (binned .openBin) 0 0 = none ∧
    (formationBin (binned .openBin) 0 0).map Prod.fst = some 0 ∧ freeCtx full24 0 0 = none ∧ (waitingLcoh waitsCtx 0 0).map Prod.fst = some 7 ∧
    cohortsIn (binned .openBin) 0 0 = [] ∧ (formationBin user 0 1).isNone ∧ freeCtx user 0 0 = some 1 := by decide
theorem test_formation : after (exec .cohortFormation (binned .openBin)) (fun t => ((t.core 0).bins.length, t.work.cohorts.map fun c => (c.2.pc, c.2.nextIssue))) =
    some (0, [(20, 4)]) := by decide
def filing (w : Wait) (clk : Nat) : State := (mine fun c => { c with wait := w }).modSched fun x => { x with clk := clk }
def inUse (s : State) : State := s.modCore 0 fun k => { k with bins := [(1, ⟨2, 20, .openBin, [{ thread := 4, time := 0 }], [], false, false⟩)] }
theorem witness_filing : filingOf (inUse (filing (.barrier [] true [4]) 2000)) ((inUse (filing (.barrier [] true [4]) 2000)).cohort 6) =
      some (9, .barrier, [{ thread := 4, time := 2000, waits := true }]) ∧
    ((inUse (filing (.barrier [] true [4]) 2000)).planC ((inUse (filing (.barrier [] true [4]) 2000)).cohort 6)).age = 1024 ∧
    binsInUse (inUse (filing (.barrier [] true [4]) 2000)) 0 = true ∧ 0 ∉ ((inUse (filing (.barrier [] true [4]) 2000)).core 0).bins.map Prod.fst ∧
    binsInUse (filing (.barrier [] true [4]) 2000) 0 = false := by decide
theorem test_filing : after (exec .waitAgeFiling (inUse (filing (.barrier [] true [4]) 2000))) (fun t => ((t.thread 4).place, (t.cohort? 6).isNone)) =
    some (.bin 0 0, true) := by decide

/-! The cloakroom. -/

def stuck : Wait := .stall (.grow [1]) 0
/-- Two cohorts of a partition: 6 waits on a barrier and holds row 512, 20 finds no free row of bank 1. -/
def barred : State :=
  (user.modCohort 6 fun c => { c with wait := .barrier [] true [4] }).modThread 4 fun t => { t with names := [(5, ⟨512, 7⟩)] }
def hungry (ws : List Pend) : Thread := { user.thread 4 with lin := 1, place := .cohort 20, writes := ws }
def crowd (ws : List Pend) : State :=
  ev { barred with work := { barred.work with
    cohorts := barred.work.cohorts ++ [(20, { user.cohort 6 with ctx := 1, stamp := 5, active := [21], wait := stuck })]
    threads := barred.work.threads ++ [(21, hungry ws)] } } { a := 0, b := 0 }
theorem firstFree_none (used : List Nat) (n start : Nat) (h : ∀ k, start ≤ k → k < start + n → k ∈ used) :
    firstFree used start n = none := by
  induction n generalizing start with
  | zero => rfl
  | succ n ih =>
    have h0 := h start (Nat.le_refl _) (by omega)
    simp only [firstFree, List.contains_iff_mem, h0, if_true]
    exact ih _ fun k a b => h k (by omega) (by omega)
theorem witness_cloak (ws : List Pend) (h : ∀ k, 513 ≤ k → k < 1024 → k ∈ ws.filterMap Pend.row) :
    cloakChoice (crowd ws) 0 0 = some (6, true) := by
  have u : rowsUsed (crowd ws) 0 0 = 512 :: (ws.filterMap Pend.row ++ []) := rfl
  have g : stallOver (crowd ws) ((crowd ws).cohort 20) (.grow [1]) = false := by
    show rowsFit (rowsUsed (crowd ws) 0 0) [1] = false
    rw [u, rowsFit, freeRow, firstFree_none]
    · intro k a b
      by_cases e : k = 512
      · simp [e]
      · have := h k (by omega) (by omega)
        simp only [List.append_nil, List.mem_cons]
        exact .inr this
  have cs : cohortsIn (crowd ws) 0 0 = [(6, (crowd ws).cohort 6), (20, (crowd ws).cohort 20)] := rfl
  have w20 : ((crowd ws).cohort 20).wait = stuck := rfl
  have s20 : ((crowd ws).cohort 20).stop = none := rfl
  have g20 : growBanks (crowd ws) ((crowd ws).cohort 20) = [1] := by
    have h : rowsFit (rowsUsed (crowd ws) ((crowd ws).cohort 20).unit ((crowd ws).cohort 20).part) [1] = false := g
    simp [growBanks, w20, s20, stuck, h]
  have b20 : blocked (crowd ws) ((crowd ws).cohort 20) = true := by simp [blocked, w20, s20, stuck, g, Stall.blocks]
  have g6 : growBanks (crowd ws) ((crowd ws).cohort 6) = [] := rfl
  have b6 : blocked (crowd ws) ((crowd ws).cohort 6) = true := rfl
  have n6 : ((crowd ws).cohort 6).cloak = .no := rfl
  have n20 : ((crowd ws).cohort 20).cloak = .no := rfl
  have p6 : physRowsOf (crowd ws) ((crowd ws).cohort 6).members = [(512, 5)] := rfl
  simp [cloakChoice, cs, g20, b20, g6, b6, n6, n20, p6, Cloak.out, youngest]
theorem witness_cloak_rows : ∃ ws : List Pend, ∀ k, 513 ≤ k → k < 1024 → k ∈ ws.filterMap Pend.row :=
  ⟨(List.range 1024).map fun i => { id := 9, tgt := .pred 0, var := true, due := 0, val := 0, row := some i }, fun k _ h => by
    simp only [List.mem_filterMap, List.mem_map, List.mem_range]
    exact ⟨_, ⟨k, h, rfl⟩, rfl⟩⟩
theorem witness_cloak_none : cloakChoice user 0 0 = none ∧ binChoice user 0 0 = none ∧
    cloakingNow (mine fun c => { c with cloak := .cloaking 9 true }) 0 0 = true := by decide
def longer : State := inUse (filing (.overlay ⟨0, 0, 3⟩ 0 0) 4000)
theorem witness_long_wait : longWait longer (longer.cohort 6) = true ∧ cloakingNow longer 0 0 = false ∧
    (formationBin longer 0 0).isSome ∧ (longer.cohort 6).priv = false := by decide
theorem test_long_wait : after (exec .longWaitCloak longer) (fun t => (t.cohort 6).cloak) = some (.cloaking 4016 true) := by decide
def going (c : Cloak) (row : Nat) : State := ev ((user.modCohort 6 fun x => { x with cloak := c }).modThread 4 fun t => { t with names := [(5, ⟨row, 7⟩)] })
  { a := 6 }
theorem witness_cloak_done : ((going (.cloaking 0 true) 512).cohort 6).cloak = .cloaking 0 true ∧ cloakRowsUsed (going (.cloaking 0 true) 512) 0 0 = [] ∧
    ((going (.cloaking 9 true) 512).cohort 6).cloak = .cloaking 9 true := by decide
theorem test_cloak_done : after (exec .cloakDone (going (.cloaking 0 true) 512)) (fun t => ((t.thread 4).names.map fun n => (n.2.row, n.2.val))) =
    some [(2048, 7)] := by decide
def cloaked : State := ev (going (.cloaked false) 2048) { a := 0, b := 0 }
theorem witness_recall : freeCtx cloaked 0 0 = some 0 ∧ waitingLcoh cloaked 0 0 = none ∧
    (cohortsIn cloaked 0 0).any (fun x => recallable cloaked x.2) = true ∧ cloaked.work.cohorts.map Prod.fst = [6] ∧
    (cohortsIn user 0 0).any (fun x => recallable user x.2) = false ∧ freeCtx full24 0 0 = none := by decide
theorem test_recall : after (exec .recall cloaked) (fun t => ((t.cohort 6).cloak, (t.thread 4).names.map fun n => n.2.row)) =
    some (.recalling 17, [512]) := by decide
theorem test_recall_done : after (exec .recallDone (going (.recalling 0) 512)) (fun t => (t.cohort 6).cloak) = some .no := by decide
def bin0 : State := (binned .openBin).modThread 4 fun t => { t with names := [(5, ⟨2048, 7⟩)] }
theorem witness_bin_uncloak : (uncloakThreads bin0 0 0 [4]).isSome ∧ condHolds bin0 0 .openBin { thread := 4, time := 0 } = true ∧ (bin0.thread 4).part < 4 ∧
    alookup (user.core 0).bins 0 = none := by decide
theorem test_bin_uncloak : after (exec .binUncloak bin0) (fun t => allPhysical t 4) = some true := by decide

/-! Ends of operations. -/

def copying (c : Copy) : State := ev { win with mem := { win.mem with copies := [c] } } { a := 60 }
def nosource : State := copying { cp0 with a := 0, b := 16, len := 8, tag := 1 }
theorem witness_copy_complete : (nosource.mem.copies.find? fun c => c.id == 60) = some { cp0 with a := 0, b := 16, len := 8, tag := 1 } ∧
    alookup (nosource.team 3).windows 0 = some 0 ∧ (nosource.plan (nosource.launch (nosource.team 3).launch).plan).spwin = 1 ∧
    win.mem.copies = [] := by decide
theorem test_copy_complete : after (exec .copyComplete { nosource with cores := holding.cores }) (fun t => ((t.core 0).scratch.get 16, t.mem.copies.length)) =
    some (0x78, 0) := by decide
def staged (c : Copy) (q : List MCmd) (m : MCmd) : State :=
  (copying { c with slot := some 0 }).modCore 0 fun k => { k with mx := { k.mx with slots := [(0, .occupied m)], queue := q } }
theorem witness_staged_entry : ((staged { cp0 with landed := true } [] m0).mem.copies.find? fun c => c.id == 60) = some { cp0 with landed := true, slot := some 0 } ∧
    alookup ((staged { cp0 with landed := true } [] m0).core 0).mx.slots 0 = some (.occupied m0) ∧
    (mxWaiting ((staged { cp0 with landed := true } (List.replicate 16 m0) m0).core 0).mx).length = 16 ∧
    ((staged { cp0 with landed := true, failed := true } [] m0).mem.copies.map Copy.failed) = [true] := by decide
theorem test_staged_entry : after (exec .stagedCommandEntry (staged { cp0 with landed := true } [] m0)) (fun t => (t.core 0).mx.queue.length) = some 1 ∧
    after (exec .stagedCommandEntry (staged { cp0 with landed := true, failed := true } [] m0)) (fun t => ((t.core 0).mx.queue.length, (tagAt t 0 1).err)) =
      some (0, true) := by decide
def stages (q : List StageReq) (a : Nat) : State := ev { win with mem := { win.mem with stages := q } } { a := a }
theorem witness_stage_complete : ((stages [rq 0 0 256, { rq 3 0 4096 with id := 1 }] 0).mem.stages.find? fun q => q.id == 0) = some (rq 0 0 256) ∧
    ((stages [rq 3 0 4096, { rq 3 0 4096 with id := 1 }] 1).mem.stages.find? fun q => q.id == 1) = some { rq 3 0 4096 with id := 1 } ∧
    ((stages [rq 3 0 4096, { rq 3 0 4096 with id := 1 }] 1).mem.stages.find? fun x => x.kind == 3 && !x.squashed) = some (rq 3 0 4096) := by decide
theorem test_transition : after (exec .transitionEnd (ev moving { a := 16 })) (fun t => (segAt t 16).trn) = some false := by decide
def ringing : State := ev ((line { target := 1, gen := 1, releasing := [⟨1, 0, true⟩] }).modCohort 6 fun c => { c with wait := .bell 0 [4] }) { a := 0 }
theorem witness_release : ((alookup ringing.mem.bells 0).map fun b => b.releasing.filter fun x => decide (x.due ≤ ringing.sched.clk)) = some [⟨1, 0, true⟩] ∧
    (ringing.cohort 6).wait = .bell 0 [4] ∧ alookup (line { target := 1 }).mem.bells 0 = some { target := 1 } := by decide
theorem test_release : after (exec .bellRelease ringing) (fun t => (t.cohort 6).wait) = some .none := by decide
def load0 : Load := { id := 92, ref := ⟨0, 0, 3⟩, priv := false, tags := [(5, 3)], fail := some 3 }
def loading : State := ev (user.modCore 0 fun k => { k with loads := [load0] }) { a := 0, b := 92 }
theorem witness_load_complete : ((loading.core 0).loads.find? fun x => x.id == 92 && x.follows.isNone) = some load0 ∧
    (∀ x ∈ (loading.core 0).loads, x.follows ≠ some load0.id) ∧ (loading.cohort 6).wait = .none := by decide
theorem test_load_complete : after (exec .overlayLoadComplete loading) (fun t => ((t.core 0).loads.length, (tagAt t 0 5).err)) = some (0, true) := by
  decide
def heldRec (q : List TrapRec) : State :=
  ev { user.modCore 0 (fun k => { k with held := [{ code := .swTrap }] }) with host := { user.host with faultq := [(0, q)] } } { a := 0 }
set_option maxRecDepth 20000 in
theorem witness_enqueue : ((heldRec []).core 0).held = [{ code := .swTrap }] ∧ (user.core 0).held = [] ∧
    ((alookup (heldRec (List.replicate 256 { code := .race })).host.faultq 0).getD []).length = 256 := by decide
theorem test_enqueue : after (exec .faultRecordEnqueue (heldRec [])) (fun t => ((t.core 0).held.length, (alookup t.host.faultq 0).map List.length)) =
    some (0, some 1) := by decide

/-! Control messages: every message has a tag under which it is accepted. -/

theorem leBytes_leNat (l : List Byte) : leBytes l.length (leNat l) = l := by
  induction l with
  | nil => rfl
  | cons b r ih =>
    have hb := b.isLt
    simp only [leNat, List.length_cons, leBytes]
    rw [show (b.toNat + 256 * leNat r) / 256 = leNat r by omega, ih]
    congr 1
    apply BitVec.eq_of_toNat_eq
    simp only [BitVec.toNat_ofNat]
    omega
theorem leNat_lt (l : List Byte) : leNat l < 2 ^ (8 * l.length) := by
  induction l with
  | nil => simp [leNat]
  | cons b r ih =>
    have hb := b.isLt
    simp only [leNat, List.length_cons]
    rw [show 8 * (r.length + 1) = 8 * r.length + 8 by omega, Nat.pow_add]
    omega
theorem keccakRound_length (a : List Nat) (c : Nat) : (keccakRound a c).length = 25 := by
  simp only [keccakRound]
  split
  · rename_i h; simpa [h] using congrArg List.length h
  · rename_i h; simpa using congrArg List.length h
theorem keccakF_length (a : List Nat) (h : a.length = 25) : (keccakF a).length = 25 := by
  unfold keccakF
  generalize keccakRc = l
  induction l generalizing a with
  | nil => simpa
  | cons c l ih => exact ih _ (keccakRound_length a c)
theorem absorb_length (rate : Nat) (st : List Nat) (m : List Byte) (n : Nat) (h : st.length = 25) : (absorb rate st m n).length = 25 := by
  induction n generalizing st m with
  | zero => exact h
  | succ n ih => exact ih _ _ (keccakF_length _ (by simp))
theorem kmac_length (k m c : List Byte) : (kmac256 k m c).length = 32 := by
  simp only [kmac256, sponge, List.length_take, List.length_flatMap]
  rw [show (fun a => (laneBytes a).length) = fun _ => 8 from funext fun _ => by simp [laneBytes]]
  simp only [List.map_const', List.sum_replicate_nat, absorb_length _ _ _ _ (List.length_replicate)]
  decide
def signed (key : List Byte) (ty : Nat) (m : CtlMsg) : CtlMsg := { m with tag := BitVec.ofNat 256 (leNat (tagOf key ty m)) }
theorem accept_signed (s : State) (key : List Byte) (ty : Nat) (m : CtlMsg) (hv : m.ver = 1) (hb : m.body.length ≤ 4000)
    (h0 : m.rsv0 = 0) (h1 : m.rsv1 = 0) (hk : controlKey s m.ctx.toNat = some key) : acceptKey s ty (signed key ty m) = some key := by
  have ht : tagOf key ty (signed key ty m) = tagOf key ty m := rfl
  have hl : leBytes 32 (BitVec.ofNat 256 (leNat (tagOf key ty m))).toNat = tagOf key ty m := by
    have a := leBytes_leNat (tagOf key ty m)
    have b := leNat_lt (tagOf key ty m)
    rw [show (tagOf key ty m).length = 32 from kmac_length _ _ _] at a b
    rw [BitVec.toNat_ofNat, Nat.mod_eq_of_lt (by simpa using b), a]
  have c1 : (m.ver != 1 || decide (4000 < m.body.length) || m.rsv0 != 0 || m.rsv1 != 0) = false := by
    simp [hv, h0, h1]; omega
  have e1 : (signed key ty m).ver = m.ver ∧ (signed key ty m).body = m.body ∧ (signed key ty m).rsv0 = m.rsv0 ∧ (signed key ty m).rsv1 = m.rsv1 ∧
    (signed key ty m).ctx = m.ctx ∧ (signed key ty m).tag = BitVec.ofNat 256 (leNat (tagOf key ty m)) := ⟨rfl, rfl, rfl, rfl, rfl, rfl⟩
  obtain ⟨v1, v2, v3, v4, v5, v6⟩ := e1
  unfold acceptKey
  rw [v1, v2, v3, v4, c1]
  simp only [v5, v6, hk, ht, hl]
  simp
def msg0 (c : Nat) (body : List Byte) : CtlMsg := ⟨7, 1, 3, 0, BitVec.ofNat 4 c, 0, 0, 0, 0, 0, body⟩
def asked (m : CtlMsg) (mode : Mode) : State := ev { user with host := { user.host with mode := mode, keys := [(2, [1])] } } { msg := m }
theorem witness_accepted (ty : Nat) : acceptKey (asked (signed (List.replicate 32 0) ty (msg0 0 [])) .running) ty (signed (List.replicate 32 0) ty (msg0 0 [])) =
    some (List.replicate 32 0) := accept_signed _ _ _ _ rfl (by decide) rfl rfl rfl
theorem witness_accepted_other (ty : Nat) : acceptKey (asked (signed [1] ty (msg0 2 (leBytes 8 1))) .safe) ty (signed [1] ty (msg0 2 (leBytes 8 1))) = some [1] :=
  accept_signed _ _ _ _ rfl (by decide) rfl rfl rfl
set_option maxRecDepth 20000 in
theorem witness_requests : acceptKey user 1 { msg0 0 [] with ver := 2 } = none ∧ storedReply user (msg0 0 []) = none ∧
    (storedReply { user with host := { user.host with replay := [(0, 7, 3, [[1]])] } } (msg0 0 [])) = some [[1]] ∧
    (ctxOf win 0).xlen = true ∧ (ctxOf user 2).xlen = false ∧ (submitPlan win 0 0x30000).1 = 0 ∧ (submitPlan win 0 0x900000000).1 = 9 ∧
    (submitPlan { win with work := { win.work with queues := [(0, List.replicate 256 1)] } } 0 0x30000).1 = 1 ∧
    (writeQp user (leBytes 8 0x1000)).isSome ∧ writeQp user (leBytes 8 0x3000) = none ∧
    (writeRegion user (leBytes 8 0x3000000001 ++ leBytes 8 0x1000 ++ leBytes 8 0x1000)).isSome ∧ (writeRegion user []).isSome := by decide
theorem test_submit : ((submitPlan win 0 0x30000).2.work.queues) = [(0, [8])] := by decide

/-! The port. -/

def ready : Qp := { qpn := 1, peer := 2, ctx := 0, prio := 3, st := 1, rkey := 9, rbase := 0, paddr := 0, rq := 0x20000 }
def ported (a : EvArg) : State := ev { queued 0 1 [(0x20002, 3), (0x2000D, 0x10), (0x2001A, 4)] with
  host := { user.host with qps := [(1, ready)], regions := [(0, ⟨0, true, true, 0, 5, 0x1000, 0x1000⟩)] } } a
def inb (va : DWord) (n : Nat) (d : List Byte) : State := ported { rdma := ⟨1, 5, va, n, d⟩, a := 1, data := d, value := 7 }
def moved1 (s : State) : State := { s with mem := { s.mem with dir := [(1, { trn := true })] } }
def held1 (s : State) : State := { s with mem := { s.mem with dir := [(1, { own := true, holders := [(9, none)] })] } }
def queuedRead (s : State) : State :=
  ev { moved1 s with
    mem := { (moved1 s).mem with waiting := [(.req 90, [1])] }, host := { s.host with inbox := [(90, inRead, s.sched.arg)] } } { a := 1 }
set_option maxRecDepth 20000 in
theorem witness_rdma : (inb 0x1000 16 []).host.mode = .running ∧ alookup (inb 0x1000 16 []).host.qps 1 = some ready ∧
    (regionOf (inb 0x1000 16 []) 5).isSome ∧ regionOf (inb 0x1000 16 []) 6 = none ∧
    (pieces (inb 0x1FF0 16 []) 0 0x1FF0 16 false (pageCount 16)).1 = some [(0x1FF0, 16, 0)] ∧
    (pieces (inb 0x1FF0 16 []) 0 0x80000000 16 true (pageCount 16)).1 = none ∧
    (0x1000, 16) ∈ inboundSpans (inb 0x1000 16 []) inRead (inb 0x1000 16 []).sched.arg ∧ (segAt (inb 0x1000 16 []) 1).trn = false ∧
    (inb 0x1000 16 []).host.inbox = [] ∧ (segAt (moved1 (inb 0x1000 16 [])) 1).trn = true ∧
    (segAt (held1 (inb 0x1000 16 [])) 1).holders ≠ [] ∧ (held1 (inb 0x1000 16 [])).mem.passes = [] ∧
    (takeTurn (setSeg (queuedRead (inb 0x1000 16 [])) 1 {}) (.req 90) (inboundSpans (setSeg (queuedRead (inb 0x1000 16 [])) 1 {}) inRead
      (inb 0x1000 16 []).sched.arg)).1 = true ∧
    (segAt (queuedRead (inb 0x1000 16 [])) 1).trn = true ∧ (queuedRead (inb 0x1000 16 [])).mem.waiting.all (fun w => w.1 == .req 90) = true ∧
    (placeSend (inb 0x1000 0 [1, 2]) 1 (leBytes 4 7)).toOption.isSome ∧ (placeSend (inb 0x1000 0 [1, 2]) 2 (leBytes 4 7)).toOption.isNone ∧
    ready.rq % 32 = 0 ∧ ((queueAt (inb 0 0 []) 0 0x20000).map fun q => (q.size, q.slots, q.held)) = some (16, 2, 0) ∧
    (pieces (inb 0 0 []) 0 0x20000 32 true (pageCount 32)).1.isSome ∧ (pieces (inb 0 0 []) 0 0x30000 4 true (pageCount 4)).1.isSome ∧
    (pieces (inb 0 0 []) 0 0x40000 1 true (pageCount 1)).1.isSome := by decide
set_option maxRecDepth 40000 in
theorem test_rdma_write : after (exec .inboundRdmaWrite (inb 0x1FFF 1 [9])) (fun t => (t.mem.gddr.get 0x1FFF, t.host.outbox)) =
    some (9, [.rdma 1 0 []]) := by decide
set_option maxRecDepth 40000 in
theorem test_rdma_out : after (exec .inboundRdmaWrite (inb 0x1FFF 2 [9, 9])) (fun t => (t.mem.gddr.get 0x1FFF, t.host.outbox)) =
    some (0, [.rdma 1 1 []]) := by decide
set_option maxRecDepth 40000 in
theorem test_send : after (exec .inboundSend (inb 0 0 [9])) (fun t => (t.mem.gddr.get 0x30000, t.mem.gddr.get 0x20010)) = some (9, 1) := by decide
def asks (write : Bool) (n : Nat) : Await := { req := 70, qpn := 1, write := write, n := n, va := 0x1000, level := 3, leaf := 0x100000000001B }
def away (c : List Copy) (a : EvArg) : State :=
  let s := ported a
  { s with mem := { s.mem with copies := c }, host := { s.host with flights := [(1, 60, 70)] } }
def awaits (write : Bool) (n : Nat) : Copy := { cp0 with await := some (asks write n) }
set_option maxRecDepth 40000 in
theorem witness_remote : awaiting (away [awaits true 8] { a := 1 }) 1 = [awaits true 8] ∧ inFlight (away [] { a := 1 }) 1 = true ∧
    awaiting (away [] { a := 1 }) 1 = [] ∧ inFlight (ported { a := 1 }) 1 = false ∧
    ((away [awaits false 1] { a := 60, data := [5] }).mem.copies.find? fun c => c.id == 60) = some (awaits false 1) ∧
    ((away [awaits false 1] { a := 60 }).host.flights.find? fun x => x.2.1 == 60) = some (1, 60, 70) ∧
    alookup ((away [cp0] {}).team 3).windows 0 = some 0 ∧ ready.retries < 7 ∧ alookup (ported { a := 1 }).host.pauses 0 = none ∧
    alookup (ported { a := 1 }).host.qps 1 = some ready ∧ alookup user.host.qps 1 = none := by decide
theorem test_remote : after (exec .remoteResponse (away [awaits false 1] { a := 60, data := [5] }))
    (fun t => ((t.core 0).scratch.get 16, t.mem.copies.map Copy.done, t.host.flights)) = some (5, [1], []) := by decide
theorem test_nak : after (exec .peerNak (away [] { a := 1, b := 3 })) (fun t => ((alookup t.host.qps 1).map Qp.st, t.host.flights)) =
    some (some 2, []) := by decide
theorem test_retry : after (exec .transportRetry (away [awaits true 8] { a := 1 })) (fun t => t.host.outbox) =
    some [.retry 1] := by decide
theorem test_cnp : after (exec .cnpReceived (ported { a := 1 })) (fun t => (alookup t.host.qps 1).map Qp.rate) = some (some 128) := by decide
set_option maxRecDepth 40000 in
theorem test_inbox : after (exec .inboundRdmaRead (moved1 (inb 0x1000 16 []))) (fun t => (t.host.inbox.map fun x => x.2.1, t.host.outbox)) =
    some ([inRead], []) ∧ after (exec .transitionEnd (queuedRead (inb 0x1000 16 []))) (fun t => (t.host.inbox.length, t.host.outbox.length)) =
    some (0, 1) := by decide
theorem witness_neighbour : (user.host.link = false) ∧ (∀ x ∈ user.host.addrs, x.2 ≠ 5) ∧
    (∃ x ∈ ({ user with host := { user.host with addrs := [(0, 5)] } }).host.addrs, x.2 = 5) := by decide

/-! Errors, power, boot. -/

def erring (x : ErrorSite) : State := ev { holding with mem := { holding.mem with gddr := [(64, 5), (128, 6)] } } { site := x }
theorem witness_errors : (∀ k ∈ (erring (.gddr 1)).cores, k.2.uefence = 0) ∧ (alookup (erring (.checkpoint 4)).work.threads 4).isSome ∧
    (tileOf { surfaced 1 0 with sched := (erring (.surface key0 0)).sched } key0).st = .resident ∧
    (((erring (.istore 0)).modCore 0 fun k => { k with uefence := 1 }).core 0).uefence ≠ 0 := by decide
theorem test_uncorrected : after (exec .uncorrectedError (erring (.gddr 1))) (fun t => (t.mem.gddr, (t.core 0).uecnt)) = some ([(128, 6)], 1) := by decide
theorem witness_boot : State.reset.host.mode = .booting ∧ State.reset.host.fwA = none ∧ State.reset.host.fwB = none ∧ user.host.mode ≠ .booting := by decide
theorem test_boot : after (exec .boot State.reset) (fun t => t.host.mode) = some .safe := by decide
/-- A slot that verifies, if there is one: whether a signature does is no value of the model's. -/
theorem witness_boot_slot (f : Firmware) (_ : slotOk f = true) : ∃ s : State, s.host.mode = .booting ∧ s.host.fwA = some f ∧
    (∀ g, s.host.fwA = some g → slotOk g = true → g.svn < f.svn ∨ g = f) ∧ s.host.fwB = none :=
  ⟨{ State.reset with host := { State.reset.host with fwA := some f } }, rfl, rfl, fun g hg _ => .inr (by cases hg; rfl), rfl⟩

/-! The dispatcher. -/

def waiting1 : State :=
  let s := (user.modLaunch 2 fun l => { l with total := 1, nextTeam := 0, fixed := some 0 }).modCore 0 fun k => { k with ovfl := 1 }
  { s with work := { s.work with queues := [(0, [1])], teams := [], threads := [], cohorts := [], lcohs := [] } }
def unloaded : State := waiting1.modCore 0 fun k => { k with images := [] }
set_option maxRecDepth 40000 in
theorem witness_decision : waiting1.host.mode = .running ∧ itemOrder (grantOwed (examineHeads waiting1)) = [⟨1, 2, none, 0, false⟩] ∧
    attempt (grantOwed (examineHeads waiting1)) ⟨1, 2, none, 0, false⟩ = .place [(0, 1)] none ∧ itemOrder (grantOwed (examineHeads user)) = [] ∧
    (alookup (grantOwed (examineHeads waiting1)).work.launches 2).isSome ∧
    (cohortSizes ((grantOwed (examineHeads waiting1)).launch 2)).length = 1 ∧ dispatcherLast unloaded 0 = true ∧
    (itemOrder unloaded) = [⟨1, 2, none, 0, false⟩] ∧ attempt unloaded ⟨1, 2, none, 0, false⟩ = .load [0] := by decide
set_option maxRecDepth 40000 in
theorem witness_not_last : dispatcherLast (user.modSched fun x => { x with cur := none }) 0 = false := by decide
set_option maxRecDepth 40000 in
theorem test_decision : after (exec .placementDecision waiting1) (fun t => (t.work.threads.map fun x => (x.2.lin, x.2.unit), t.work.cohorts.length)) =
    some ([(0, 0)], 1) := by decide
set_option maxRecDepth 40000 in
theorem test_preload : after (exec .dispatcherPreload (ev unloaded { a := 0, b := 1, c := 0 })) (fun t => (t.core 0).loads.map fun l => (l.ref, l.disp)) =
    some [(⟨0, 0, 0⟩, [(1, 0)])] := by decide
def consuming (s : State) : State :=
  ev { s with work := { s.work with plans := amodify s.work.plans 1 fun p => { p with begun := true } } } { a := 1, b := 1 }
def ringed : State := { consuming (queued 0 1 one0) with work := { (consuming (queued 0 1 one0)).work with
  rings := [(71, { plan := 1, stage := 1, unit := 0, slots := 1, size := 16, base := 512, held := [0] })] } }
def emptied (c : Conv) : State := ev (waiting1.modCore 0 fun k => { k with conv := c }) { a := 0 }
theorem witness_conversion : coreHolds (emptied (.draining 1 2)) 0 = false ∧ coreHolds user 0 = true ∧ ((emptied (.draining 1 2)).core 0).conv = .draining 1 2 ∧ (((emptied (.draining 1 2)).core 0).l1.any fun l => l.dirty) = false ∧
    ((emptied (.converting 1 2 0)).core 0).conv = .converting 1 2 0 ∧ ((emptied (.converting 1 2 9)).core 0).conv = .converting 1 2 9 ∧
    (emptied (.converting 1 2 9)).sched.clk < 9 := by decide
theorem witness_cores_rise : Rising (emptied (.converting 1 2 0)).cores ∧ Rising (consuming (queued 0 1 one0)).work.rings ∧
    Rising ringed.work.rings := by unfold Rising; decide
theorem test_conversion : after (exec .carveoutConversion (emptied (.draining 1 2))) (fun t => (t.core 0).conv) = some (.converting 1 2 4096) := by decide
def produced : State :=
  let s := queued 0 1 one0
  { s with work := { s.work with threads := [], cohorts := [], lcohs := [], teams := amodify s.work.teams 3 fun t => { t with exited := true } } }
set_option maxRecDepth 40000 in
theorem witness_consumer : (consumes (consuming (queued 0 1 one0)) 1 1).map Stage.batch = some 1 ∧ claimable (consuming (queued 0 1 one0)) 1 1 = 1 ∧
    claimable (consuming (room 0 1)) 1 1 = 0 ∧ stageRings (consuming (queued 0 1 one0)) 1 1 = [] ∧
    returnedTo (consuming (queued 0 1 one0)) 1 1 = [] ∧ consumes user 1 1 = none ∧ completeUpTo (consuming produced) 1 0 = true ∧
    nextRing ringed 1 1 = some 71 ∧ (consumes ringed 1 1).map Stage.batch = some 1 ∧ claimable ringed 1 1 = 2 ∧
    unclaimedMem (consuming (queued 0 1 one0)) 1 1 = 1 := by decide
set_option maxRecDepth 40000 in
theorem test_consumer : after (exec .consumerLaunch (consuming (queued 0 1 one0)))
    (fun t => (t.work.launches.filterMap fun x => if x.2.stage == 1 then some x.2.claim else none, t.mem.gddr.get 0x20008)) =
    some ([[.mem 0]], 1) := by decide
set_option maxRecDepth 40000 in
/-- A launch takes the records of its ring before those in memory (R61). -/
theorem test_consumer_ring : after (exec .consumerLaunch ringed)
    (fun t => (t.work.launches.filterMap fun x => if x.2.ring.isSome then some x.2.claim else none, (alookup t.work.rings 71).map Ring.held)) =
    some ([[.ring 71 0]], some []) := by decide
def assigned : State := (consuming (queued 0 1 one0)).modSched fun x => { x with clk := 4096 }
set_option maxRecDepth 40000 in
theorem witness_reassign : assigned.work.reassigned + 4096 ≤ assigned.sched.clk ∧ (assigned.work.plans.map Prod.fst) = [1] ∧
    planCores assigned 1 = [0] ∧ ((activeStages assigned 1).map Prod.fst) = [0, 1] := by decide
def finished : State := ev { waiting1 with work := { waiting1.work with
  plans := amodify waiting1.work.plans 1 fun p => { p with left := true, sigen := true, signal := 5 }
  launches := amodify waiting1.work.launches 2 fun l => { l with nextTeam := 1 } } } { a := 1 }
set_option maxRecDepth 40000 in
theorem witness_complete : planComplete finished 1 = true ∧ planComplete user 1 = false ∧ (alookup finished.work.plans 1).isSome := by decide
set_option maxRecDepth 40000 in
theorem test_complete : after (exec .planComplete finished) (fun t => (counterAt t 5, (t.plan 1).done)) = some (1, true) := by decide

/-! Pre-emption. -/

def leaving (f : Cohort → Cohort) (g : Thread → Thread) : State :=
  ev ((roomy.modCohort 13 fun c => f { c with leave := .since 0 }).modThread 11 g |>.modTeam 10 fun t => { t with leaving := some 0 }) { a := 13 }
def soon (s : State) : State := s.modCore 0 fun k => { k with safelim := 0 }
set_option maxRecDepth 40000 in
theorem witness_leaving : ((leaving id id).cohort? 13).isSome ∧ ((leaving id id).cohort 13).leave = .since 0 ∧ ((leaving id id).cohort 13).stop = none ∧
    ((leaving id id).cohort 13).members = [11] ∧ ((leaving id id).thread 11).restartable = true ∧
    ((leaving id fun t => { t with restartable := false }).thread 11).restartable = false ∧ (user.cohort 6).leave = .no ∧
    ((soon (leaving id id)).core 0).safelim = 0 ∧ (both.cohort 13).stop.isSome ∧
    ((soon (both.modCohort 13 fun c => { c with leave := .since 0 })).cohort 13).leave = .since 0 := by decide
set_option maxRecDepth 40000 in
theorem test_safe_point : after (exec .safePointStop (leaving id id)) (fun t => ((t.team 10).save.isSome, (t.thread 11).place)) = some (true, .saved) := by
  decide
def stopped10 : State := ev (leaving (fun c => { c with leave := .stopped false }) id) { a := 10 }
set_option maxRecDepth 40000 in
theorem witness_drain : (stopped10.team 10).leaving ≠ none ∧ leavingTeams stopped10 = [10] ∧ leavingWith stopped10 [10] = [10] ∧ allStopped stopped10 10 = true ∧
    stopped10.mem.copies = [] ∧ stopped10.mem.stages = [] ∧ ((ev both { a := 10 }).team 10).leaving = none ∧ allStopped (leaving id id) 10 = false := by decide
def savedS : State := ((after (exec .drainExpiry stopped10) id).getD stopped10).modTeam 10 fun t => { t with held := false }
def resuming : State := savedS.modCore 0 fun k => { k with ovfl := 1 }
set_option maxRecDepth 40000 in
theorem witness_resume : firstPlaceable user (itemOrder user) = none ∧ (savedS.team 10).save.isSome ∧
    (firstPlaceable resuming (itemOrder resuming)).map (fun x => (x.1.team, x.2.1)) = some (some 10, [(0, 1)]) := by decide
set_option maxRecDepth 40000 in
theorem test_resume : after (exec .teamResume (ev resuming { a := 10 })) (fun t => ((t.team 10).save.isSome, (t.thread 11).place == .saved)) =
    some (false, false) := by decide

/-! Values of the float, converting and crossbar words: operands that meet the clauses, at the ends of their ranges. -/

def one32 : Nat := 0x3F800000
theorem witness_float_operands : F32.Finite 0x7F7FFFFF ∧ F32.Finite 0x80000000 ∧ ¬F32.Finite 0x7F800000 ∧ F32.IsInf 0xFF800000 ∧
    F32.IsNan 0x7F800001 ∧ F16.IsInf 0x7C00 ∧ F16.IsNan 0xFE00 ∧ BF16.Finite 0x7F7F ∧ F32.units one32 + F32.units one32 ≠ 0 ∧
    F32.units one32 + F32.units (one32 + 2 ^ 31) = 0 ∧ F32.units one32 * F32.units 1 ≠ 0 ∧ F32.units one32 * F32.units 0 = 0 ∧
    F32.units one32 * F32.units one32 + F32.units 1 * F32.one ≠ 0 ∧
    F32.units one32 * F32.units one32 + F32.units (one32 + 2 ^ 31) * F32.one = 0 ∧ (F32.units (one32 + 2 ^ 31)) < 0 := by decide
set_option exponentiation.threshold 300 in
theorem witness_float_exact : F32.units 0 = ((149 : Nat) - 149 : Int) * F32.one ∧ F32.units 0x42FE0000 = ((276 : Nat) - 149 : Int) * F32.one ∧
    F32.units 1 = 2 ^ 0 ∧ F32.units 0x7F000000 = 2 ^ 276 ∧ F32.units 0xC0000000 = (-2 : Int) * F32.one ∧
    2 * F32.units 0xBF000000 = (2 * (-1) + 1 : Int) * F32.one := by decide
theorem witness_convert : F8A.Finite 0x7E ∧ F8A.IsNan 0x7F ∧ F8B.IsInf 0x7C ∧ (fmtOf 0).Finite one32 ∧ (fmtOf 3).IsNan 0xFF ∧
    (fmtOf 0).units 0x80000000 = 0 ∧ (BitVec.ofNat 32 0x80000000).toInt = -2 ^ 31 ∧
    (∃ p ∈ [0, 0x7E00, 0, 0], F16.IsNan p) ∧ (∀ p ∈ [0x3C00, 0x7BFF, 0, 0xFBFF], F16.Finite p) := by decide
/-- The examples of R105 for ties and for the largest finite number of F8A. -/
theorem test_convert : convert 0 2 0 0x3F808000 = 0x3F80 ∧ convert 0 2 0 0x3F818000 = 0x3F82 ∧ convert 0 5 0 0x7FC00000 = 0 := by decide
theorem witness_lanes : fld (0x012 : BitVec 10) 5 4 = 1 ∧ fld (0x003 : BitVec 10) 3 0 = 3 ∧ fld (0x00A : BitVec 10) 3 0 = 10 := by decide

/-! Control. -/

def briF (tt : BitVec 10) (pg : BitVec 3) : ExtForm := ⟨{ x0 with a := v 6, mod := tt, pg := pg }, none⟩
def indexed : State := table.modThread 4 fun t => { t with names := [(6, ⟨1024, 1⟩)] }
def briAcc (f : ExtForm) : Acc := { (extAcc f.x false).reads [.name 6 false] with marks := opndMarks f.x.a 1 false }
theorem witness_bri_bad : goes table (briAcc (briF 1 7)) [4] ∧ goes table (briAcc (briF 1 0)) [] ∧ goes table (briAcc (briF 0 0)) [] ∧
    ¬(1 : Nat) < (tableImage.words.getD 1 0).toNat % 65536 ∧ goes indexed (briAcc (briF 0 7)) [4] ∧
    (srcVal indexed (indexed.cohort 6) 4 (.name 6 false)).toNat % 2 ^ 32 = 0x0001000D / 65536 := by decide
theorem test_bri_bad : after (exec (.bri (briF 0 7)) indexed) (fun t => (t.cohort 6).stop.map Stop.code) = some (some .badTarget) ∧
    after (exec (.bri (briF 1 0)) table) (fun t => (t.cohort 6).stop.map Stop.code) = some (some .badTarget) := by decide
theorem test_loop_outside : after (exec (.loop ⟨{ loopF.x with imm := 0x8000 }, none⟩) user) (fun t => (t.cohort 6).stop.map Stop.code) =
    some (some .badTarget) ∧
    after (exec (.brc ⟨{ x0 with imm := 0xFFF6 }, none⟩) user) (fun t => (t.cohort 6).stop.map Stop.code) = some (some .badTarget) ∧
    after (exec (.callBase 0 0x1FFF6) user) (fun t => (t.cohort 6).stop.map Stop.code) = some (some .badTarget) := by decide

/-- The cohort with a second thread, 5, which the guard p1 keeps from executing; and with a pending group. -/
def two (g : List Group) : State :=
  (({ user with work := { user.work with threads := user.work.threads ++ [(5, { user.thread 4 with lin := 1, seat := 1, lane := 1 })]
                                         teams := amodify user.work.teams 3 fun t => { t with threads := [4, 5] } } }).modThread 4
    fun t => { t with preds := 2 }).modCohort 6 fun c => { c with active := if g = [] then [4, 5] else [4], groups := g }
def exitF (pg : BitVec 3) : ExtForm := ⟨{ x0 with pg := pg }, none⟩
def pend0 : Pend := { id := 99, tgt := .name 5, var := false, due := 9, val := 1, row := some 512 }
def req0 (k : Nat) : SurfReq := { id := 97, thread := 4, kind := k, ctx := 0, slot := 0, level := 0 }
theorem witness_exit_forms : goes user (extAcc x0 false) [4] ∧ goes (two []) (extAcc (exitF 1).x false) [4] ∧
    without ((two []).cohort 6).active [4] = [5] ∧ goes (two [⟨20, [5]⟩]) (extAcc x0 false) [4] ∧
    ((two [⟨20, [5]⟩]).cohort 6).groups ≠ [] ∧ ((user.modThread 4 fun t => { t with writes := [pend0] }).thread 4).writes ≠ [] ∧
    ((user.modCohort 6 fun c => { c with writes := [pend0] }).cohort 6).writes ≠ [] ∧
    goes (user.modThread 4 fun t => { t with writes := [pend0] }) (extAcc x0 false) [4] ∧
    teamScope (remote.modLaunch 2 fun l => { l with levels := [⟨4, 0, 5⟩], teamlv := 0 }) 4 = 5 ∧ (remote.mem.copies.any fun k => k.remote && k.thread == 4) ∧
    (user.launch (user.teamOf 4).launch).taken = [] := by decide
theorem test_exit_waits : after (exec (.exitBase 0) (user.modThread 4 fun t => { t with writes := [pend0] }))
    (fun t => ((t.cohort 6).pc, (t.cohort 6).wait)) = some (9, .stall .settle 0) ∧
    after (exec (.exit (exitF 1)) (two [])) (fun t => ((t.cohort 6).pc, (t.cohort 6).active)) = some (12, [5]) ∧
    after (exec (.exitBase 0) (two [⟨20, [5]⟩])) (fun t => ((t.cohort 6).pc, (t.cohort 6).active)) = some (20, [5]) := by decide

/-- A marked name, a slow write of a live name, and the refusals of PASS. -/
def slowed (var : Bool) (n : Nat) : State := user.modThread 4 fun t => { t with writes := [{ pend0 with tgt := .name n, var := var }] }
def regF : ExtForm := ⟨{ x0 with mod := 1, imm := 0x0060 }, none⟩
def passF : ExtForm := ⟨{ x0 with a := v 6 }, none⟩
def passA : Acc := { extAcc passF.x false with marks := opndMarks (v 6) 1 false }
theorem witness_region_live : listNames regF.x none = [21, 22] ∧ goes (slowed true 21) (extAcc regF.x false) [4] ∧
    goes (slowed false 21) (extAcc regF.x false) [4] := by decide
theorem test_region : after (exec (.region regF) (slowed true 21)) (fun t => (t.cohort 6).wait) = some (.stall .scoreboard 0) ∧
    after (exec (.region regF) (slowed false 21)) (fun t => ((t.cohort 6).wait, (t.thread 4).ckpt.live)) =
      some (.clock 17 false, [(21, some 1), (22, none)]) := by decide
def passed (f : Thread → Thread) : State := passing.modThread 4 f
theorem witness_pass_forms : goes user passA [4] ∧ 6 ∉ (user.planOf 4).pass.map Prod.fst ∧
    goes (passed fun t => { t with published := [6] }) passA [4] ∧
    goes (passed fun t => { t with writes := [{ pend0 with tgt := .name 6 }] }) passA [4] ∧ passing.work.notes = [] := by decide
theorem test_pass_traps : after (exec (.pass passF) user) (fun t => (t.cohort 6).stop.map Stop.code) = some (some .passbackRange) ∧
    after (exec (.pass passF) (passed fun t => { t with published := [6] })) (fun t => (t.cohort 6).stop.map Stop.code) =
      some (some .passbackTwice) := by decide
/-- Two threads, so that the first has a successor, to which EXIT publishes (R290). -/
def succeeded : State := { two [⟨20, [5]⟩] with work := { (two [⟨20, [5]⟩]).work with
  plans := passing.work.plans, launches := amodify user.work.launches 2 fun l => { l with total := 2 } } }
theorem witness_exit_publishes : goes succeeded (extAcc x0 false) [4] ∧ 6 ∉ (succeeded.thread 4).published ∧
    0 < (succeeded.planOf 4).passk ∧ (succeeded.thread 4).lin + 1 < (succeeded.launchOf 4).total ∧
    (∀ y ∈ succeeded.work.threads, y.2.launch = 2 → y.2.lin = 1 → y.1 ∉ [4] ∧ y.2.place ≠ .exited ∧ y.2.place ≠ .lost) := by decide
theorem test_exit_publishes : after (exec (.exitBase 0) succeeded) (fun t => t.work.notes.map fun v => (v.name, v.lin)) =
    some [(6, 0)] := by decide
theorem witness_specials : (user.launchOf 4).levels.length ≤ 8 ∧ (∀ e ∈ (user.launchOf 4).levels, 0 < e.extent) ∧
    (user.thread 4).lin < (user.launchOf 4).levels.foldl (fun p e => p * e.extent) 1 ∧ (user.thread 4).stack.length ≤ 16 := by decide
theorem witness_specials_tags : Rising (tagged { done := true }).cores ∧ Rising ((tagged { done := true }).core 0).tags := by
  unfold Rising; decide

/-! Accesses: the leaf's low byte says what the page is. -/

def leafed (b : Byte) : State := { win with mem := { win.mem with gddr := [(0x2000, 0x01), (0x2001, 0x40), (0x4000, b)] } }
theorem entry_of (s : State) (va e : Nat)
    (h0 : leNat (readPa s (nfld (ctxOf s 0).ptroot.toNat 51 12 * 4096 + 8 * vaIndex va 0) 8) = 0x4001)
    (h1 : leNat (readPa s (0x4000 + 8 * vaIndex va 1) 8) = e) : EntryAt s 0 va 1 e :=
  ⟨0x4001, h0.symm, by unfold IsTable; decide, by rw [show nfld 0x4001 37 12 * 4096 = 0x4000 by decide]; exact h1.symm⟩
theorem witness_entry (b : Byte) (h : b ∈ [0x0B, 0x2B, 0x1B, 0x09, 0x4B, 0x10, 0x3B]) : EntryAt (leafed b) 0 0x10000 1 b.toNat := by
  simp only [List.mem_cons, List.not_mem_nil, or_false] at h
  rcases h with rfl | rfl | rfl | rfl | rfl | rfl | rfl <;> exact entry_of _ _ _ (by decide) (by decide)
theorem witness_leaf : IsLeaf 1 0x0B ∧ IsLeaf 1 0x2B ∧ IsLeaf 1 0x1B ∧ IsLeaf 1 0x09 ∧ IsLeaf 1 0x4B ∧ ¬IsLeaf 1 0x3B ∧
    ¬IsTable 1 0x3B ∧ ¬IsLeaf 1 0x10 ∧ ¬IsTable 1 0x10 := by
  refine ⟨?_, ?_, ?_, ?_, ?_, ?_, ?_, ?_, ?_⟩ <;> first | (unfold IsLeaf; decide) | (unfold IsTable; decide)
theorem tlb_empty (s : State) (unit ctx va l e : Nat) (h : (s.core unit).tlb ++ clusterTlb s unit = []) : TlbAgrees s unit ctx va l e := by
  intro x hx; simp [h] at hx
theorem witness_tlb : TlbAgrees (leafed 0x0B) 0 0 0x10000 1 0x0B := tlb_empty _ _ _ _ _ _ (by decide)
def passed16 (h : Nat) : State := { leafed 0x0B with mem := { (leafed 0x0B).mem with
  passes := [(0, { valid := true, base := 16, nseg := 1, holder := some h, count := 1 })] } }
def heldBy (m : Option Nat) : State := { leafed 0x0B with mem := { (leafed 0x0B).mem with dir := [(16, { own := true, holders := [(9, m)] })] } }
theorem witness_access : (leafed 0x0B).mem.waiting = [] ∧ ctxOfThread (leafed 0x0B) 4 = 0 ∧ leafTarget 1 0x0B 0x10000 / 4096 = 16 ∧
    16 ∉ walkSegs (leafed 0x0B) (some 0) 0 0x10000 ∧ (segAt moving 16).trn = true ∧
    (passOver (passed16 9) 16).map (fun p => p.2.holder) = some (some 9) ∧ (passOver (passed16 0) 16).map (fun p => p.2.holder) = some (some 0) ∧
    ((segAt (heldBy none) 16).holders.any fun q => q.1 != 0 && q.2.isNone) = true ∧ covers 1 9 0 = false ∧ covers 4 9 0 = true ∧
    tlbHeld (leafed 0x10) (some 0) 0 0x10000 = none ∧ (∀ n ∈ (heldBy none).mem.dir, n.2.trn = false) := by decide
def codeOf : Checked → Nat
  | .ok _ _ => 0
  | .stall _ => 1
  | .trap c _ => c.num
def look (s : State) (ea : DWord) (k : Nat) : Nat := codeOf (checkAccess s 6 0 false { g4 with kind := k } [⟨4, ea.toNat, 0⟩] (sameWay { g4 with kind := k }))
theorem test_access : [look (leafed 0x2B) 0x10000 0, look (leafed 0x1B) 0x10000 0, look (leafed 0x10) 0x10000 0] =
      List.replicate 3 TrapCode.pageFault.num ∧
    [look (leafed 0x4B) 0x10000 0, look (leafed 0x09) 0x10000 1] = List.replicate 2 TrapCode.protection.num ∧
    [look (leafed 0x09) 0x10000 0, look (passed16 0) 0x10000 1, look (heldBy (some 4)) 0x10000 1] = [0, 0, 0] ∧
    [look (passed16 9) 0x10000 0, look (heldBy none) 0x10000 0] = List.replicate 2 TrapCode.race.num := by decide
def tierqs (s : State) : State := ureg s 4 0x10000
def tqF : ExtForm := ⟨{ x0 with a := u 4, d := u 3 }, none⟩
theorem witness_tierq : goes (tierqs (leafed 0x2B)) { (engAcc tqF 1 1 0).reads (addrM tqF 0).srcs with wUregs := [3], once := true } [4] ∧
    ((addrM tqF 0).lane (tierqs (leafed 0x2B)) ((tierqs (leafed 0x2B)).cohort 6) 4).ea = 0x10000 ∧ (leafed 0x2B).mem.l2 = [] := by decide
theorem test_tierq_kinds : ([0x0B, 0x2B, 0x1B, 0x10].map fun b => after (exec (.tierq tqF) (tierqs (leafed b))) fun t =>
    (t.cohort 6).writes.map fun p => p.val.toNat) = [some [0x10001], some [0x10002], some [0x10003], some [0]] := by decide

/-! Barriers, bells and passes beside an outstanding surface write; a second arrival; waiters that the last arrival lets go. -/

def drawnTo (s : State) (k : Nat) : State := { s with surf := { s.surf with reqs := [req0 k] } }
def endF2 : ExtForm := ⟨{ x0 with pd := 1 }, none⟩
theorem witness_drawn : goes (drawnTo user 1) (engAcc f0 0 0 0) [4] ∧ goes (drawnTo (line { target := 2 }) 2) (bellAcc f0) [4] ∧
    goes (drawnTo (passes { free0 with holder := some 0, count := 1 }) 1) { passAcc f0 with wPreds := [] } [4] ∧
    goes (passes { free0 with queue := [9] }) (passAcc f0) [4] ∧ goes (passes { free0 with holder := some 0, count := 1, queue := [9] }) (passAcc f0) [4] ∧
    goes (passes { free0 with holder := some 0, count := 2 }) { passAcc endF2 with wPreds := [1] } [4] ∧
    goes (drawnTo stored5 1) { (engAcc stF 1 1 1).reads ((addrM stF 0).srcs ++ storeSrcs stF.x 1) with } [4] ∧
    releaseWait (drawnTo stored5 1) [4] 4 = true := by decide
theorem test_drawn : [after (exec (.bar f0) (drawnTo user 1)) fun t => (t.cohort 6).wait, after (exec (.fence f0) (drawnTo user 2)) fun t => (t.cohort 6).wait,
      after (exec (.bell f0) (drawnTo (line { target := 2 }) 1)) fun t => (t.cohort 6).wait,
      after (exec (.regrel f0) (drawnTo (passes { free0 with holder := some 0, count := 1 }) 1)) fun t => (t.cohort 6).wait] =
    List.replicate 4 (some (.stall .drain 0)) := by decide
/-- A pass with cores in line: REGTRY fails though its own core holds it (R190). -/
theorem test_regtry_line : after (exec (.regtry endF2) (passes { free0 with holder := some 0, count := 1, queue := [9] }))
    (fun t => (t.thread 4).writes.map Pend.val) = some [0] := by decide
/-- A team of two, whose thread 5 waits in cohort 20 for generation 0. -/
def arrived : State :=
  let s := two [⟨20, [5]⟩]
  ({ s with work := { s.work with
      launches := amodify s.work.launches 2 fun l => { l with teamSize := 2 }
      teams := amodify s.work.teams 3 fun t => { t with counted := [5] }
      cohorts := s.work.cohorts ++ [(20, { s.cohort 6 with active := [5], groups := [], wait := .barrier [] true [5] })] } }.modCohort 6
    fun c => { c with groups := [] }).modThread 5 fun t => { t with barRec := some 0, place := .cohort 20 }
def again : State := arrived.modTeam 3 fun t => { t with counted := [4] }
theorem witness_bar_full : goes arrived (engAcc f0 0 0 0) [4] ∧ (arrived.team 3).counted ++ [4] = [5, 4] ∧ exitedOf arrived 3 = [] ∧
    (arrived.launch (arrived.team 3).launch).teamSize = 2 ∧ (arrived.cohort 20).wait = .barrier [] true [5] ∧
    (arrived.thread 5).barRec = some 0 ∧ (arrived.team 3).barGen = 0 ∧ goes again (engAcc f0 0 0 0) [4] ∧
    ([4].filter fun x => (again.team 3).counted.contains x) = [4] ∧ (again.work.cohorts.map Prod.fst) = [6, 20] := by decide
theorem test_bar_full : after (exec (.bar f0) arrived) (fun t => ((t.team 3).barGen, (t.cohort 20).wait, (t.thread 5).barRec, (t.team 3).counted)) =
    some (1, .none, none, []) ∧
    after (exec (.bar f0) again) (fun t => ((t.team 3).barGen, (t.cohort 6).wait, (t.team 3).counted)) =
      some (0, .barrier [4] true [4], [4]) := by decide

/-! Copies: a move to global memory, and a record whose segment is in transition. -/

def toGlobal : Copy := { cp0 with dsp := false, b := 0x30000 }
theorem witness_copy_move : (∃ t c, copyStep (lin 8) toGlobal = .go t c ∨ copyStep (lin 8) toGlobal = .halt t c) ∧ linPiece toGlobal ≠ 0 ∧
    EntryAt (lin 8) 0 0x30000 1 0x0B ∧ TlbAgrees (lin 8) 0 0 0x30000 1 0x0B :=
  ⟨by cases copyStep (lin 8) toGlobal with
    | go t c => exact ⟨t, c, .inl rfl⟩
    | halt t c => exact ⟨t, c, .inr rfl⟩, by decide, entry_of _ _ _ (by decide) (by decide), tlb_empty _ _ _ _ _ _ (by decide)⟩
def boxMoving : State := { boxed 16 with mem := { (boxed 16).mem with dir := [(0x20, { trn := true })] } }
theorem witness_copy_blocked : goes boxMoving (cpAcc (cpF 0 0) 0) [4] ∧ (takeTurn boxMoving (.req 6) (recordSpans boxMoving (cpB 0 16))).1 = false ∧
    (takeTurn (boxed 16) (.req 6) (recordSpans (boxed 16) (cpB 0 16))).1 = true := by decide
theorem test_copy_blocked : after (exec (.copyBox (cpF 0 0)) boxMoving) (fun t => ((t.cohort 6).pc, (t.cohort 6).wait, t.mem.waiting)) =
    some (9, .stall .transition 0, [(.req 6, [4, 2, 0x20])]) := by decide

/-! Queues: their object, slot and bitmap in pages of GDDR7. -/

theorem hub_of (s : State) (va n : Nat) (hx : (ctxOf s 0).xlen = true) (hv : va < 2 ^ 31) (hn : va % 4096 + n ≤ 4096)
    (he : EntryAt s 0 va 1 0x0B) : HubAt s 0 va n va :=
  ⟨by omega, hx, hn, 1, 0x0B, he, witness_leaf.1, by decide, by decide, by
    have h : nfld 0x0B 51 12 = 0 := by decide
    show va = nfld 0x0B 51 12 * 4096 + va % 2 ^ 31
    rw [h]; omega⟩
def qobj (s : State) : QObj := (queueAt s 0 0x20000).getD ⟨0, 0, 0, 0, 0, 0, 0, 0⟩
set_option maxRecDepth 20000 in
theorem witness_queue_memory : HubAt (room 0 1) 0 0x20000 32 0x20000 ∧ HubAt (room 0 1) 0 0x30000 16 0x30000 ∧
    HubAt (room 0 1) 0 0x40000 1 0x40000 ∧ (∀ va ∈ [0x20000, 0x30000, 0x40000], ∀ pa ∈ [0x20000, 0x30000, 0x40000],
      ∀ g ∈ walkSegs (room 0 1) none 0 va, g * 4096 + 4096 ≤ pa) :=
  ⟨hub_of _ _ _ (by decide) (by decide) (by decide) (entry_of _ _ _ (by decide) (by decide)),
   hub_of _ _ _ (by decide) (by decide) (by decide) (entry_of _ _ _ (by decide) (by decide)),
   hub_of _ _ _ (by decide) (by decide) (by decide) (entry_of _ _ _ (by decide) (by decide)), by decide⟩
def taking : State := (consumer (queued 0 1 one0)).modLaunch 2 fun l => { l with claim := [], taken := [.mem 0] }
def qrelAcc : Acc := { (engAcc (quF 1) 0 0 1).reads [.name 6 false] with once := true }
set_option maxRecDepth 20000 in
theorem witness_qrel : goes taking qrelAcc [4] ∧ okQ taking 1 false true = some (2, 16, 1) ∧ memRecs ((taking.launch 2).taken.take 1) = [0] ∧
    (qobj taking).addr = 0x20000 ∧ (qobj taking).bitAddr 1 = 0x40000 ∧ (qobj taking).rd = 0 ∧ filled taking 0 (qobj taking) 0 = true ∧
    (admitQueue taking (.req 6) 0 (qobj taking) [0]).1 = true ∧ taking.mem.waiting = [] ∧ taking.mem.dir = [] ∧
    (admitQueue { taking with mem := { taking.mem with dir := [(0x20, { trn := true })] } } (.req 6) 0 (qobj taking) [0]).1 = false := by decide
set_option maxRecDepth 20000 in
theorem test_qrel : after (exec (.qrel (quF 1)) taking) (fun t => (t.mem.gddr.get 0x20014, t.mem.gddr.get 0x40000, (t.launch 2).taken)) =
    some (1, 0, []) := by decide
/-- A launch with a ring claims the ring's record first (R61). -/
theorem witness_claim : [QRec.mem 0, .ring 71 0].Nodup ∧ (nextClaim { fused.launch 70 with claim := [.mem 0, .ring 71 0], ring := some 71 } [] 2).1 =
    [.ring 71 0, .mem 0] := by decide

/-! Matrix commands, surface accesses that come to their turn, formats. -/

theorem witness_mdrain : ((running { m0 with op := 4, fmt := 2, due := some 0 }).core 0).mx.queue.find? (fun q => q.id == 80) =
      some { m0 with op := 4, fmt := 2, due := some 0 } ∧
    alookup ((running { m0 with op := 4 }).team 3).windows 0 = some 0 ∧ ({ m0 with op := 1, row0 := 112, rows := 16 } : MCmd).row0 + 16 ≤ 128 ∧
    goes full16 { engAcc (mxF 1 0) 0 0 0 with wUregs := [2], once := true } [4] := by decide
theorem test_mstat_waits : after (exec (.mstat (mxF 1 0)) { full16 with sched := full16.sched }) (fun t => (t.cohort 6).wait) =
    some (.mstat (List.replicate 16 80) 2) := by decide
def turned (fmt : Nat) (d : Nat) : State := (surfaced fmt 0).modThread 4 fun t =>
  { t with writes := [{ id := 99, tgt := .name d, var := true, due := 3, val := 0, row := some 7, held := true }] }
def turn (k : Nat) (w : List Word) : SurfReq := { req0 k with data := w, chans := [0], d := 8, word := 99 }
set_option maxRecDepth 20000 in
theorem witness_turn : (surfSte (turned 1 8) 0 0 0).isSome ∧ (ste0 1).fmt ≤ 6 ∧ (∀ c ∈ (turn 1 [7]).chans, c < channels 1) ∧
    (alookup (turned 1 8).work.threads 4).isSome ∧ (parseSampler (turn 3 [0, 0, 0]).sampler.toNat).isSome ∧
    (ste0 1).inside 0 (turn 1 [7]).x (turn 1 [7]).y = true ∧ (tileOf (turned 1 8) key0).bytes.length = tileLen 1 ∧
    (turned 6 8).surf.bound.map (fun e => e.2.fmt) = [6] := by decide
set_option maxRecDepth 20000 in
theorem test_turn : ((performReq (turned 1 11) (turn 0 []) [key0]).thread 4).writes.map (fun p => (p.held, p.due, p.val)) =
      [(false, 3, 0x3F800000)] ∧
    (tileOf (performReq (turned 1 8) (turn 1 [7]) [key0]) key0).bytes.take 4 = [7, 0, 0, 0] ∧
    (tileOf (performReq (turned 6 8) (turn 2 [0, 0]) [key0]) key0).bytes.take 1 = [0] := by decide
set_option maxRecDepth 20000 in
theorem witness_servable : servable (surfaced 1 0) 0 [key0] = true ∧ servable (unbacked 1) 0 [key0] = false ∧
    (unbacked 1).surf.reqs = [] ∧ (unbacked 1).surf.order = [] ∧ (surfaced 1 0).surf.order = [] := by decide
theorem witness_formats : ([1, 2, 3, 4] : List Byte).length = bpp 3 ∧ 3 < channels 3 ∧ 0 < channels 5 ∧ (255 : Nat) ≤ 255 ∧
    (3 : Nat) < 15 ∧ (dr0.blend.map fun b => b.wmask.getLsbD 3) = [true] := by decide
/-- 0x80 of a normalised byte is 128/255, and 0.5 stores as 128: 127.5 rounds to the even neighbour (R108, R129). -/
theorem test_formats : chanF32 3 0x80 = 0x3F008081 ∧ chanOfF32 3 0x3F000000 = 128 ∧ chanF32 4 65535 = 0x3F800000 ∧
    chanOfF32 3 0xBF800000 = 0 := by decide
theorem test_texels : texels true 0x3F000000 2 = [(0, 128), (1, 128)] ∧ texels false 0xFF800000 4 = [(-2 ^ 24, 256)] ∧
    legalIndex 2 4 (-1) = 0 ∧ legalIndex 0 4 (-1) = 3 := by decide

/-! The blend with a depth surface in slot 1, whose pixels hold 0. -/

def drD : Draw := { dr0 with den := true, dwrite := true, dfunc := 1, dslot := 1 }
def depthed (z : Word) (js : List Job) : State :=
  let s := blending { done0 with pixels := [(0, some z, [(0, [7, 0, 0, 0])])] } []
  let tiles := [tile0 1, { tile0 5 with key := { key0 with slot := 1 } }]
  { s.modPlan 1 fun p => { p with draws := [drD] } with surf := { bound := [(0, ste0 1), (1, ste0 5)], tiles := tiles, jobs := js } }
def blendKey : TileKey := { key0 with slot := drD.orderSlot }
set_option maxRecDepth 20000 in
theorem witness_depth : drD.orderSlot = 0 ∧ (blendable (depthed 0 [])).length = 1 ∧ (boundSte (depthed 0 []) 0 1).map Ste.fmt = some 5 ∧
    (tileOf (depthed 0 []) { key0 with slot := 1 }).bytes.length = tileLen 5 ∧ (∀ i, i < drD.nct → drD.ct[i]? ≠ some drD.dslot) ∧
    servable (depthed 0 []) 90 (quadTiles drD key0) = true ∧ depthPass 1 0xBF800000 0 = true ∧ depthPass 1 0x3F800000 0 = false := by decide
set_option maxRecDepth 20000 in
theorem test_depth : ([0xBF800000, 0x3F800000].map fun z => after (exec .quadBlend (depthed z [])) fun t =>
      ((tileOf t key0).bytes.take 1, (tileOf t { key0 with slot := 1 }).bytes.take 4)) =
    [some ([7], [0, 0, 0x80, 0xBF]), some ([0], [0, 0, 0, 0])] := by decide
set_option maxRecDepth 20000 in
/-- While a row step of the bank is due, its unit blends no quad (R233). -/
theorem test_rows_first : rowReady (depthed 0 [{ job0 with running := true }]) { job0 with running := true } = true ∧
    after (exec .quadBlend (depthed 0 [{ job0 with running := true }])) (fun t => t.draw.quads.length) = some 1 := by decide

/-! Transfers that a transition holds up, failed spill blocks, requests that wait in turn. -/

def inTrn (s : State) (n : Nat) : State := { s with mem := { s.mem with dir := [(n, { trn := true })] } }
def busyStage : State := inTrn (stages [{ rq 1 0x30000 4096 with dst := 0x40000 }] 0) 0x40
theorem witness_stage_busy : (admitStage busyStage { rq 1 0x30000 4096 with dst := 0x40000 }).1 = false ∧
    (admitStage (stages [rq 0 0 256] 0) (rq 0 0 256)).1 = true ∧ (inTrn win 0x40).host.inbox = [] ∧ nosource.mem.copies.map Copy.bad = [[]] := by decide
def loadAt : State := inTrn (ev ((mapped user).modCore 0 fun k => { k with loads := [{ load0 with fail := none, image := 0x30000, len := 64 }] }) { a := 0, b := 92 }) 0x30
theorem witness_image_busy : (takeTurn loadAt (.req 92) (imageSpans loadAt 0 ((loadAt.core 0).loads.headD load0))).1 = false ∧
    (takeTurn loading (.req 92) (imageSpans loading 0 load0)).1 = true ∧
    ((loadAt.core 0).loads.find? fun x => x.id == 92 && x.follows.isNone).isSome := by decide
theorem test_busy_waits : after (exec .stageComplete busyStage) (fun t => t.mem.stages.length) = some 1 ∧
    after (exec .overlayLoadComplete loadAt) (fun t => (t.core 0).loads.length) = some 1 := by decide
def spillingT : Tile := { tile0 1 with st := .spilling, bytes := List.replicate 256 5 }
def failing (l : List Nat) (ok : Bool) : State := ev (tiled spillingT) { tile := key0, ok := ok, list := l }
set_option maxRecDepth 20000 in
theorem witness_tile_busy : (admitTile (inTrn (tiled fillingT) 0x30) fillingT).1 = false ∧
    (admitTile (tiled fillingT) fillingT).1 = true ∧ (failing [1] false).sched.arg.ok = false ∧
    (tileOf (failing [1] false) key0).bytes.length % 64 = 0 ∧ 64 ≤ (tileOf (failing [1] false) key0).bytes.length ∧
    (admitTile (failing [1] false) (tileOf (failing [1] false) key0)).1 = true ∧
    (spillPa (failing [1] false) key0 true).1.map Prod.fst = some 0x30000 ∧ (failing [1] false).surf.reqs = [] := by decide
def waitsFill : State := { tiled fillingT with
  surf := { (tiled fillingT).surf with reqs := [turn 1 [7]], order := [(97, [key0])] } }
set_option maxRecDepth 20000 in
theorem test_fill_serves : after (exec .fillComplete waitsFill) (fun t => ((tileOf t key0).bytes.take 4, t.surf.reqs, t.surf.order)) =
    some ([7, 0, 0, 0], [], []) := by decide
def behind : State := { surfaced 1 0 with surf := { (surfaced 1 0).surf with reqs := [turn 1 [7]], order := [(97, [key0])] } }
set_option maxRecDepth 20000 in
theorem witness_behind : servable behind 0 [key0] = false ∧ servable behind 97 [key0] = true ∧ tokenLive behind 97 = true := by decide

/-! Bank jobs beside a rival, and behind an access that came before. -/

def rivals : State := ev { (jobs job0 [tile0 1]) with surf := { (jobs job0 [tile0 1]).surf with
  jobs := [{ job0 with id := 90, running := true }, { job0 with running := false }] } } { a := 91 }
def queuedJob : State := { jobs { job0 with running := true } [tile0 1] with
  surf := { (jobs { job0 with running := true } [tile0 1]).surf with reqs := [turn 1 [7]], order := [(97, [key0])] } }
def summing : State := jobs { job0 with op := 4, running := true, acc := List.replicate 16 0x3F800000 } [{ tile0 1 with bytes := List.replicate 256 0 }]
set_option maxRecDepth 20000 in
theorem witness_job_turn : (jobOf rivals 91).isSome ∧ (rivals.surf.jobs.any fun x => x.id != 91 && x.running && !x.suspended) = true ∧
    (jobOf queuedJob 91).isSome ∧ tokenLive queuedJob 97 = true ∧ (jobTiles job0) = [key0] ∧
    (queuedJob.draw.quads.map Quad.id) = [] ∧ bankFmtOk 4 1 = true ∧ (jobOf summing 91).map Job.op = some 4 := by decide
set_option maxRecDepth 20000 in
theorem test_jobs : after (exec .bankopJobStart rivals) (fun t => t.surf.jobs.map Job.running) = some [true, false] ∧
    after (exec .rowStep queuedJob) (fun t => t.surf.jobs.map Job.rc) = some [0] ∧
    after (exec .rowStep summing) (fun t => t.surf.jobs.map fun j => j.acc.take 1) = some [[0x3F800000]] := by decide
/-- SCALE, AXPBY and CONVERT of one channel, and DEPTHCLEAR of a visibility pixel (R232). -/
theorem test_row_pixel : rowPixel { job0 with op := 1, alpha := 0x40000000 } 1 0 [0, 0, 0x80, 0x3F] [] = [0, 0, 0, 0x40] ∧
    rowPixel { job0 with op := 2, beta := 0x3F800000 } 1 1 [0, 0, 0x80, 0x3F] [0, 0, 0x80, 0x3F] = [0, 0, 0, 0x40] ∧
    rowPixel { job0 with op := 5, alpha := 0x3F800000 } 6 0 [] [] = [255, 255, 255, 255, 0, 0, 0x80, 0x3F] := by decide

/-! Passback filters, events at their bounds, boot of a cluster proctor, cache errors. -/

def passWait : State := { mine (fun c => { c with wait := .stall (.passback 6 1 1 [4]) 0 }) with work := (passing.modCohort 6 fun c => { c with wait := .stall (.passback 6 1 1 [4]) 0 }).work }
def succWait : State := passWait.modThread 4 fun t => { t with lin := 1 }
theorem witness_passback : unpublished passWait 6 1 1 4 = false ∧ unpublished succWait 6 1 1 4 = true ∧
    (succWait.cohort 6).wait = .stall (.passback 6 1 1 [4]) 0 := by decide
theorem test_passback : after (exec .passbackPublished passWait) (fun t => (t.cohort 6).wait) = some .none ∧
    after (exec .passbackPublished succWait) (fun t => (t.cohort 6).wait) = some (.stall (.passback 6 1 1 [4]) 0) := by decide
def cachey : State := erring (.cache 4)
theorem test_cache_error : homeOf cachey 256 = 1 ∧ after (exec .uncorrectedError cachey) (fun t => ((t.core 1).uecnt, (t.core 0).uecnt)) = some (1, 0) := by decide

/-! The other windows, and queues whose slots no page maps. -/

def paramed : State := win.modPlan 1 fun p => { p with wins := [(0, (0x50000, 64))] }
def sp (n : Nat) : How := { space := n, size := 4, kind := 0 }
theorem witness_spaces : (win.launchOf 4).teamSize = 1 ∧ (seatUnit win 3 0).isSome ∧
    kindOf (checkAccess win 6 0 false (sp 2) [⟨4, 1020, 0⟩] (sameWay (sp 2))) = 0 ∧
    kindOf (checkAccess win 6 0 false (sp 2) [⟨4, 0, 1⟩] (sameWay (sp 2))) = 2 ∧
    (alookup (paramed.planOf 4).wins 0).map Prod.snd = some 64 ∧
    kindOf (checkAccess paramed 6 0 false (sp 3) [⟨4, 64, 0⟩] (sameWay (sp 3))) = 0 ∧
    kindOf (checkAccess paramed 6 0 false (sp 3) [⟨4, 0, 1⟩] (sameWay (sp 3))) = 2 := by decide
def farBytes (n : Nat) : List Host.Cell := [(0x20002, 3), (0x20003, 0x80)] ++ one0.drop n
def farTaken : State := consumer (queued 0 1 (farBytes 1))
def farRoom : State := queued 0 1 [(0x20002, 3), (0x20003, 0x80), (0x2000D, 0x10), (0x2001A, 4)]
set_option maxRecDepth 20000 in
theorem witness_far_queue : goes farTaken (quAcc true true true) [4] ∧ okQ farTaken 1 false true = some (2, 16, 1) ∧
    (unreachable farTaken 4 0 false false [(qobj farTaken).slotAddr 0]).isSome ∧ goes farRoom (quAcc true true false) [4] ∧
    okQ farRoom 1 true false = some (2, 16, 0) ∧ (pushAll farRoom 6 4 0 1 0x20000 0 false 16 1).toOption.isNone ∧
    (unpushable oneSlot 4 0x20000 16).isNone ∧
    unreachable (consumer (queued 0 1 one0)) 4 0 false false [0x30000, 0x40000] = none ∧
    (admitPush (room 0 1) 6 4 false (qobj (room 0 1))).1 = true ∧ (admitPush (room 0 0) 6 4 true (qobj (room 0 0))).1 = true ∧
    (admitPush (inTrn (room 0 0) 0x20) 6 4 true (qobj (room 0 0))).1 = false := by decide
set_option maxRecDepth 20000 in
theorem test_far_queue : after (exec (.qawait (quF 1)) farTaken) (fun t => ((t.cohort 6).stop.map Stop.code, (t.launch 2).taken)) =
      some (some .pageFault, []) ∧
    after (exec (.qpush (quF 1)) farRoom) (fun t => ((t.cohort 6).stop.map Stop.code, t.mem.gddr.get 0x20010)) =
      some (some .pageFault, 0) := by decide
/-- An overlay of which a load has begun; teams of a plan that draws nothing and waits for no surface access. -/
theorem witness_load_of : (loadOf loading 0 ⟨0, 0, 3⟩).isSome ∧ inView loading 0 ⟨0, 0, 3⟩ = none ∧ (loading.core 0).lastLoads = [] ∧
    stopped10.surf.reqs = [] ∧ (stopped10.plan (stopped10.launch (stopped10.team 10).launch).plan).draw = false := by decide

/-! What is waited for, and what goes on beside it: a state for each clause. -/

def owing : State := slowed true 8
theorem witness_drain_word : goes owing (extAcc x0 false) [4] ∧ (owing.thread 4).writes ≠ [] ∧ goes (drawnTo user 1) (extAcc x0 false) [4] ∧
    (user.cohort 6).members = [4] := by decide
theorem test_drain_word : [owing, drawnTo user 1, user].map (fun s => after (exec (.waitDrain f0) s) fun t => (t.cohort 6).wait) =
    [some (.stall .drain 0), some (.stall .drain 0), some .none] := by decide
def keyed (l : AMap Bin) : State := user.modCore 0 fun k => { k with bins := l }
def bin10 : Bin := ⟨2, 10, .openBin, [{ thread := 9, time := 0 }], [], false, false⟩
def allBins : AMap Bin := (List.range 64).map fun i => (i, { bin10 with pc := 11 })
theorem witness_reform_bins : goes (keyed [(3, bin10)]) { st := 0 } [4] ∧ alookup ((keyed [(3, bin10)]).core 0).bins 3 = some bin10 ∧
    pcAdd (user.cohort 6).pc 1 = 10 ∧ (∀ x ∈ ((keyed [(3, bin10)]).core 0).bins, x.1 = 3) ∧ goes (keyed allBins) { st := 0 } [4] ∧
    (∀ x ∈ ((keyed allBins).core 0).bins, x.2.pc ≠ 10) ∧ firstFree (((keyed allBins).core 0).bins.map Prod.fst) 0 64 = none ∧
    (user.cohort 6).groups = [] ∧ (user.cohort 6).active = [4] := by decide
theorem test_reform_bins : after (exec (.reformBase 0) (keyed [(3, bin10)])) (fun t => ((t.thread 4).place,
      (t.core 0).bins.map fun b => b.2.threads.map Filed.thread)) = some (.bin 0 3, [[9, 4]]) ∧
    after (exec (.reformBase 0) (keyed allBins)) (fun t => ((t.cohort 6).pc, (t.cohort 6).active)) = some (10, [4]) := by decide
/-- Threads 4 and 5, which return to 20 and to 30. -/
def parting : State := ((two []).modThread 4 fun t => { t with stack := [20] }).modThread 5 fun t => { t with stack := [30] }
theorem witness_parting : goes parting { st := 0 } [4, 5] ∧ (parting.thread 4).stack.headD 0 ≠ (parting.thread 5).stack.headD 0 ∧
    (parting.cohort? 6).isSome := by decide
theorem test_parting : after (exec (.retBase 0) parting) (fun t => ((t.cohort 6).pc, (t.cohort 6).active, (t.core 0).bins.map fun b => b.2.threads.map Filed.thread)) =
    some (20, [4], [[5]]) := by decide
theorem witness_pair_short : shortRead (slowed false 1 |>.modPlan 1 fun p => { p with check := true })
    ((slowed false 1).cohort 6) (halfAcc pairW.x pairW) [4] = some (0, 1) ∧ shortRead (slowed false 1) ((slowed false 1).cohort 6) (halfAcc pairW.x pairW) [4] = none ∧
    (user.plan 1).check = false := by decide
theorem test_pair_short : after (exec (.pairWord pairW) (slowed false 1 |>.modPlan 1 fun p => { p with check := true }))
    (fun t => (t.cohort 6).stop.map Stop.code) = some (some .stallShort) := by decide
theorem witness_seat_waits : goes (slowed true 6) (({ seatU with acc := { seatU.acc with names := seatU.b.names } } : Alu).full 0x80) [4] [(5, 513)] ∧
    (srcVal (slowed true 6) ((slowed true 6).cohort 6) 4 seatU.b).toNat = 0 ∧ (0 < ((slowed true 6).launchOf 4).teamSize) ∧
    seatRead (slowed true 6) ((slowed true 6).cohort 6) 4 0 = .fast 4 ∧ seatU.a.names.headD 0 = 6 := by decide
theorem test_seat_waits : after (exec (.xseat (.e .vec { x0 with d := v 5, a := v 6, b := v 7, pd := 0 })) (slowed true 6))
    (fun t => ((t.cohort 6).pc, (t.cohort 6).wait)) = some (9, .stall .scoreboard 0) := by decide

/-! Threads that a CKILL does not name, a group of two cohorts, a record that joins another. -/

def lead13 : Option Stop := (named.cohort 13).stop.map fun st => { st with handle := 7, lead := 0x100000000 }
/-- Cohort 20 of thread 21 has stopped with cohort 13's record. -/
def group2 : State := { named with work := { named.work with
  threads := named.work.threads ++ [(21, { named.thread 11 with place := .cohort 20, names := [(5, ⟨512, 7⟩)] })]
  cohorts := named.work.cohorts ++ [(20, { named.cohort 13 with active := [21], groups := [], stop := lead13 })] } }
theorem witness_group : groupOf group2 0x100000000 = [13, 20] ∧ goes group2 (procAcc (pf 0) [1] [2] false) [4] ∧ reaches 32 0 = true ∧
    ([13, 20].flatMap fun k => (group2.cohort k).members) = [11, 21] ∧ 11 ∉ (group2.cohort 6).members ∧
    (∀ x ∈ (group2.cohort 6).members, x ∉ [11, 21]) := by decide
theorem test_group : after (exec (.ckill (pf 0)) group2) (fun t => ([11, 21, 4].map fun x => (t.thread x).place, (t.cohort 6).active)) =
    some ([.exited, .exited, .cohort 6], [4]) := by decide
def fault0 : TrapRec := { code := .pageFault, info0 := 0x10000, handle := 7 }
def fault1 (i : TrapInfo) : State := { user with host := { user.host with faultq := [(0, [{ code := .race }, { fault0 with cause := i.cause }])] } }
def info1 : TrapInfo := { i0 := 0x10008 }
theorem witness_joins : (fault1 info1).cohort? 6 = some (user.cohort 6) ∧ ((fault1 info1).core 0).held = [] ∧
    fault0.info0.toNat / 4096 = info1.i0.toNat / 4096 ∧ ((fault1 info1).planC (user.cohort 6)).ctx = 0 ∧ fault0.nostop = false ∧
    fault0.isWrite = TrapRec.isWrite { code := .pageFault, ctx := 0, info0 := 0x10008 } ∧ fault0.count < 65535 := by decide
theorem test_joins : ((alookup (takeTrap (fault1 info1) 6 3 .pageFault info1).host.faultq 0).getD []).map TrapRec.count = [1, 2] ∧
    ((takeTrap (fault1 info1) 6 3 .pageFault info1).cohort 6).stop.map Stop.lead = some 7 := by decide

/-! Barriers beside bins; bells whose generation was written; rows of two banks. -/

def filedLate : State := inUse (filing (.barrier [4] true [4]) 2000)
theorem witness_late : filingOf filedLate (filedLate.cohort 6) =
      some (9, .barrier, [{ thread := 4, time := 2000, waits := true, late := true, gens := [(3, 1)] }]) ∧
    condHolds filedLate 0 .barrier { thread := 4, time := 0, gens := [(3, 1)] } = false ∧
    condHolds gen5 0 .barrier { thread := 4, time := 0, gens := [(3, 4)] } = true ∧
    (∀ b ∈ ((arrived.core 0)).bins, ∀ x ∈ b.2.threads, x.late = false) := by decide
def turns (l : List BellTurn) : State :=
  ev ((line { target := 1, gen := 1, releasing := l }).modCohort 6 fun c => { c with wait := .bell 0 [4] }) { a := 0 }
theorem witness_turns : ((alookup (turns [⟨1, 0, false⟩]).mem.bells 0).map fun b => b.releasing.filter fun x => decide (x.due ≤ 0)) =
    some [⟨1, 0, false⟩] ∧ alookup ((turns [⟨1, 0, false⟩]).thread 4).bells 0 = none := by decide
theorem test_turns : after (exec .bellRelease (turns [⟨9, 0, true⟩, ⟨0, 0, false⟩])) (fun t => (alookup t.mem.bells 0).map fun b => (b.opened, b.releasing)) =
    some (some (9, [])) := by decide
set_option maxRecDepth 20000 in
theorem test_rows : rowsFit [] [1, 1] = true ∧ growBanks user { user.cohort 6 with wait := .stall (.grow [0, 1]) 0 } = [] ∧
    rowsFit (List.range 511) [0] = true ∧ rowsFit (List.range 511) [0, 0] = false := by decide
def stillCloaked : State := going (.recalling 0) 2048
theorem witness_recalled_row : (stillCloaked.cohort 6).cloak = .recalling 0 ∧
    (∃ x ∈ (stillCloaked.cohort 6).members, ∃ e ∈ (stillCloaked.thread x).names, 2048 ≤ e.2.row) := by decide
theorem test_recalled_row : after (exec .recallDone stillCloaked) (fun t => (t.cohort 6).cloak) = some (.cloaked false) := by decide

/-! Moves of copies between the window and memory, of lines and of boxes; a staged command that is another team's. -/

theorem nothing_asleep (s : State) (h : ∀ k ∈ s.cores, k.2.retained = [] ∧ k.2.waking = []) (x d : Nat) : domainAsleep s x d = false := by
  have key : (s.core x).retained = [] ∧ (s.core x).waking = [] := by
    unfold State.core
    cases e : alookup s.cores x with
    | none => exact ⟨rfl, rfl⟩
    | some k =>
      generalize s.cores = l at h e
      induction l with
      | nil => simp at e
      | cons y r ih =>
        by_cases q : x = y.1
        · simp [alookup, q] at e; subst e; exact h _ (List.mem_cons_self ..)
        · simp [alookup, q] at e; exact ih (fun k hk => h k (List.mem_cons_of_mem _ hk)) e
  simp [domainAsleep, key.1, key.2]
def moves (r : Prog) (f : State → List Byte) : Option (List Byte × Nat) :=
  match r with
  | .go t c => some (f t, c.done)
  | .halt .. => none
def fresh (s : State) : State := { s with mem := { s.mem with gddr := s.mem.gddr ++ [(0x30000, 5), (0x30001, 6)] } }
def onFlash : State := { leafed 0x2B with mem := { (leafed 0x2B).mem with flash := [(0x30000, 8)] } }
def lay0 : Layout := ⟨false, 1, 3, 0, 0x30000, [2], [0, 0, 0, 0, 0], [2], [0], [0], 0, false, 0⟩
def cpL (kind : Nat) : Copy := { cp0 with kind := kind, a := 0x20000, b := 16, len := 0, dsp := kind == 0, ssp := kind == 1, lay := some lay0, origin := [1] }
theorem witness_moves : (∀ s ∈ [lin 8, fresh win, holding, onFlash], s.mem.waiting = [] ∧ s.mem.dir = [] ∧ s.mem.passes = [] ∧
      alookup (s.team 3).windows 0 = some 0 ∧ (∀ k ∈ s.cores, k.2.retained = [] ∧ k.2.waking = []) ∧ (ctxOf s 0).xlen = true) ∧
    copySize { cp0 with dsp := false, b := 0x30000 } = 8 ∧ elemBits 3 = 8 ∧ copySize (cpL 0) = 2 ∧
    lay0.source [1] 0 = some [1] ∧ lay0.source [1] 1 = none ∧ lay0.target [1] 0 = some [1] ∧ lay0.target [1] 1 = none ∧
    lay0.elemBit [1] / 8 = 0x30001 ∧ nfld 0x0B 6 6 = 0 ∧ nfld 0x0B 5 4 = 0 ∧ nfld 0x0B 1 1 = 1 ∧ nfld 0x2B 5 5 = 1 ∧
    leafTarget 1 0x2B 0x30000 = 0x30000 ∧ (lay0.imageByte 0 0 = 0) ∧ onFlash.sched.arg.list = [] := by decide
theorem witness_moves_entry : EntryAt (fresh win) 0 0x30000 1 0x0B ∧ EntryAt (fresh win) 0 0x30001 1 0x0B ∧ EntryAt holding 0 0x30000 1 0x0B ∧
    EntryAt onFlash 0 0x30000 1 0x2B :=
  ⟨entry_of _ _ _ (by decide) (by decide), entry_of _ _ _ (by decide) (by decide), entry_of _ _ _ (by decide) (by decide),
   entry_of _ _ _ (by decide) (by decide)⟩
theorem test_moves : moves (copyStep (fresh win) { cp0 with ssp := false, a := 0x30000 }) (fun t => (t.core 0).scratch.bytes 16 2) = some ([5, 6], 8) ∧
    moves (copyStep holding { cp0 with dsp := false, b := 0x30000 }) (fun t => t.mem.gddr.bytes 0x30000 2) = some ([0x78, 0x56], 8) ∧
    moves (copyStep onFlash { cp0 with ssp := false, a := 0x30000 }) (fun t => (t.core 0).scratch.bytes 16 2) = some ([8, 0], 8) := by decide
theorem test_boxes : moves (copyStep (fresh win) (cpL 0)) (fun t => (t.core 0).scratch.bytes 16 1) = some ([6], 1) ∧
    moves (copyStep (fresh win) { cpL 0 with done := 1 }) (fun t => (t.core 0).scratch.bytes 17 1) = some ([0], 2) ∧
    moves (copyStep (win.modCore 0 fun k => { k with scratch := [(16, 7)] }) (cpL 1)) (fun t => t.mem.gddr.bytes 0x30001 1) = some ([7], 1) ∧
    moves (copyStep win { cpL 1 with done := 1 }) (fun t => t.mem.gddr.bytes 0x30001 1) = some ([0], 2) := by decide
theorem test_staged_other : after (exec .stagedCommandEntry (staged { cp0 with landed := true } [] { m0 with team := 9 }))
    (fun t => ((t.core 0).mx.queue.length, (t.core 0).mx.slots.length, t.mem.copies.length)) = some (0, 1, 0) := by decide

/-! Accesses that wait their turn: at the directory, for a bank, at the hub. -/

def banked : State := win.modCore 0 fun k => { k with retained := [1] }
theorem witness_turns_at_home : (admitTo win (.req 6) [5] [(0, 1)]).1 = true ∧ (admitTo moving (.req 6) [16] []).1 = false ∧
    domainAsleep banked 0 1 = true ∧ (admitTo banked (.req 6) [5] [(0, 1)]).1 = false ∧
    stillWaits { user with host := { user.host with launches := [(90, {})] } } (.req 90) = true := by decide
theorem test_turns_at_home : (admitTo moving (.req 6) [16] []).2.mem.waiting = [(.req 6, [16])] ∧
    (alookup ((admitTo banked (.req 6) [5] [(0, 1)]).2.core 0).waking 1).isSome = true := by decide
def launchMsg : CtlMsg := signed (List.replicate 32 0) 1 (msg0 0 (leBytes 8 0x30000))
theorem launch_accepted (s : State) (h : controlKey s 0 = some (List.replicate 32 0)) :
    acceptKey s 1 launchMsg = some (List.replicate 32 0) := accept_signed s _ 1 _ rfl (by decide) rfl rfl h
def launched : State := ev (inTrn win 0x30) { msg := launchMsg }
theorem witness_launch_waits : (admitLaunch launched 90 launchMsg).1 = false ∧ (admitLaunch (ev win { msg := launchMsg }) 90 launchMsg).1 = true ∧
    launched.host.launches = [] := by
  refine ⟨?_, ?_, rfl⟩ <;> rw [admitLaunch, launchReads, launch_accepted _ (by decide)] <;> decide
def keepSte : Ste := { ste0 1 with spill := 0x30000, keep := true }
def keeping (s : State) : State := { s with surf := { s.surf with bound := [(0, keepSte)], tiles := [tile0 1] } }
def keepingB : State := keeping { mapped boundary with cfg := { boundary.cfg with ctxs := [(0, { xlen := true, ptroot := 0x2000 })] } }
set_option maxRecDepth 20000 in
theorem witness_boundary_waits : let l := keepingB.surf.bound.flatMap fun x => unbindSpans keepingB (x.1 / 256) (x.1 % 256)
    (takeTurn keepingB .boundary l).1 = true ∧ (takeTurn (inTrn keepingB 0x30) .boundary l).1 = false := by decide
set_option maxRecDepth 20000 in
theorem test_boundary_waits : after (exec .contextBoundary (inTrn keepingB 0x30)) (fun t => (t.cfg.deferred, t.mem.waiting.map Prod.fst)) =
    some (true, [.boundary]) := by decide
def unreadLoad : State := ev ((mapped user).modCore 0 fun k => { k with loads := [{ load0 with fail := none, unread := true }] }) { a := 0, b := 92 }
theorem witness_unread : ((unreadLoad.core 0).loads.find? fun x => x.id == 92 && x.follows.isNone).map Load.unread = some true := by decide

/-! Queue words that wait or trap on their way; the dispatcher behind a transition; a core that leaves one. -/

/-- Three slots of 256 bytes, of which the last, still filled, lies in a page that no table maps. -/
def halfFar : State := queued 0 2
  [(0x20001, 0xFE), (0x20002, 0xFF), (0x20003, 0x7F), (0x2000D, 0x20), (0x2000F, 0xF0), (0x20010, 3), (0x20014, 1), (0x2001A, 4)]
set_option maxRecDepth 20000 in
theorem witness_half_far : goes halfFar (quAcc true true false) [4] ∧ okQ halfFar 1 true false = some (3, 256, 2) ∧
    (pushAll halfFar 6 4 0 1 0x20000 0 false 256 2).toOption.map (fun x => (x.count, x.waits)) = some (1, false) ∧
    (unpushable halfFar 4 0x20000 256).isSome := by decide
set_option maxRecDepth 20000 in
theorem test_half_far : after (exec (.qpush (quF 1)) halfFar) (fun t => ((t.cohort 6).stop.map Stop.code, t.mem.gddr.get 0x20010)) =
    some (some .pageFault, 3) := by decide
set_option maxRecDepth 20000 in
theorem witness_qrel_waits : (admitQueue (inTrn taking 0x20) (.req 6) 0 (qobj taking) [0]).1 = false ∧
    (admitPush (inTrn (room 0 1) 0x30) 6 4 false (qobj (room 0 1))).1 = false := by decide
set_option maxRecDepth 20000 in
theorem test_qrel_waits : after (exec (.qrel (quF 1)) (inTrn taking 0x20)) (fun t => ((t.cohort 6).wait, (t.launch 2).taken)) =
    some (.stall .transition 0, [.mem 0]) ∧
    after (exec (.qpush (quF 1)) (inTrn (room 0 1) 0x30)) (fun t => ((t.cohort 6).wait, (t.cohort 6).pushed)) =
      some (.stall .transition 0, 0) := by decide
set_option maxRecDepth 40000 in
theorem witness_consumer_waits :
    (admitRanges (consuming (queued 0 1 one0)) (.plan 1 1) 0 [(stageQueue ((consuming (queued 0 1 one0)).plan 1) 1, 32)]).1 = true ∧
    (admitRanges (inTrn (consuming (queued 0 1 one0)) 0x20) (.plan 1 1) 0 [(stageQueue ((consuming (queued 0 1 one0)).plan 1) 1, 32)]).1 = false := by
  decide
set_option maxRecDepth 40000 in
theorem test_consumer_waits : after (exec .consumerLaunch (inTrn (consuming (queued 0 1 one0)) 0x20)) (fun t => (t.work.launches.length, t.mem.waiting.map Prod.fst)) =
    some (1, [.plan 1 1]) := by decide
def leavesOne : State := { emptied (.draining 1 2) with mem := { (emptied (.draining 1 2)).mem with
  dir := [(5, { trn := true, own := true, holders := [(0, none)] }), (6, { holders := [(0, none), (9, none)] })] } }
theorem witness_leaves : movingSeg leavesOne 5 = true ∧ movingSeg leavesOne 6 = false ∧ coreHolds leavesOne 0 = false := by decide
theorem test_leaves : after (exec .carveoutConversion leavesOne) (fun t => (t.mem.dir.map fun g => (g.1, g.2.holders.map Prod.fst), t.mem.waiting.map Prod.snd)) =
    some ([(5, [0]), (6, [9])], [[5]]) := by decide
theorem test_leaves_after : after (exec .transitionEnd (ev { leavesOne with mem := { leavesOne.mem with waiting := [(.act 90 (.leave 0), [5])] } } { a := 5 }))
    (fun t => ((segAt t 5).holders, t.mem.waiting)) = some ([], []) := by decide

/-! A leaving team with a copy in flight, with a cohort that has stopped whole, with a window. -/

def awayS (n : Nat) : State := { stopped10 with mem := { stopped10.mem with copies := [{ cp0 with team := 10, plan := 8, done := 4 }] } }.modCore 0
  fun k => { k with drain := BitVec.ofNat _ n, tags := [(1, { count := 1 })] }
def wholeS : State := (stopped10.modCohort 13 fun c => { c with leave := .stopped true }).modThread 11 fun t => { t with writes := [pend0] }
set_option maxRecDepth 40000 in
theorem witness_away : opsOn (awayS 9) 10 0 = true ∧ ((awayS 9).team 10).units = [0] ∧ ((awayS 9).team 10).still.getD 0 + 9 > (awayS 9).sched.clk ∧
    ((awayS 0).team 10).still = none ∧ leavingTeams (awayS 0) = [10] ∧ allStopped (awayS 0) 10 = true ∧ (awayS 0).surf.reqs = [] ∧
    ((awayS 0).plan 8).draw = false ∧ ((awayS 0).plan 8).acct = 0 ∧ ((awayS 0).core 0).loads = [] ∧
    ((wholeS).cohort 13).leave = .stopped true ∧ (wholeS.cohort 13).members = [11] ∧ (wholeS.thread 11).writes.map Pend.held = [false] ∧
    (∀ b ∈ (wholeS.core 0).bins, 11 ∉ b.2.ids) ∧ (∀ l ∈ wholeS.work.lcohs, l.2.waiting = none) := by decide
set_option maxRecDepth 40000 in
theorem test_away : after (exec .drainExpiry (awayS 9)) (fun t => ((t.team 10).save.isSome, t.mem.copies.map Copy.squashed)) = some (false, [false]) ∧
    after (exec .drainExpiry (awayS 0)) (fun t => ((t.team 10).save.isSome, t.mem.copies.map fun c => (c.squashed, c.done), (tagAt t 0 1).count)) =
      some (true, [(true, 0)], 0) ∧
    after (exec .drainExpiry wholeS) (fun t => ((t.thread 11).place, (t.thread 11).writes.length, (t.thread 11).readName 5)) = some (.saved, 0, 1) := by
  decide

/-- A release postponed twice in a row waits once (R178, log entry 68). -/
theorem test_postpone_once : (postpone (postpone moving (.release 0 4) [16]) (.release 0 4) [16]).mem.waiting.length = 1 := by
  decide
/-- A release moves no data of a clean segment (R179). -/
theorem test_clean_release : ((Segment.released ⟨true, [(0, none)], false, none⟩ 0 4 false).trn = false) ∧
    (Segment.released ⟨true, [(0, none)], false, none⟩ 0 4 true).trn = true := by decide

end Sys2Proof.Tests
end

/-! SUPPORT. What an access at home does to the machine: caches, directory, power domains, TLBs and the lists of those that wait
change, and of the bytes of memory only those of GDDR7 that a queue object holds. -/

namespace Sys2Proof.Machine

/-- What holds of every thread and itself, and of every thread and its changed form, holds of a thread before and after the change. -/
theorem thread_modThread_rel {R : Thread → Thread → Prop} (s : State) (n : Nat) {f : Thread → Thread} (hr : ∀ th, R th th)
    (hf : ∀ th, R th (f th)) (x : Nat) : R (s.thread x) ((s.modThread n f).thread x) := by
  rw [thread_modThread]
  split
  · next e =>
    subst e
    rw [State.thread]
    cases alookup s.work.threads x with
    | none => exact hr _
    | some th => exact hf th
  · exact hr _

section HubFrames

/-- What the hub's own accesses leave as it was: every record of the dispatcher but the list of released queue records, flash, the
scratchpads, the surfaces, the draw pipeline, the configuration, the port. -/
structure HubOnly (s t : State) : Prop where
  sched : t.sched = { s.sched with fresh := t.sched.fresh, next := t.sched.next }
  work : t.work = { s.work with released := t.work.released }
  flash : t.mem.flash = s.mem.flash
  scratch : ∀ u, (t.core u).scratch = (s.core u).scratch
  surf : t.surf = s.surf
  draw : t.draw = s.draw
  cfg : t.cfg = s.cfg
  host : t.host = s.host

/-- What caches, directory and TLBs leave as it was: the bytes of GDDR7 as well. -/
structure Quiet (s t : State) : Prop extends HubOnly s t where
  released : t.work.released = s.work.released
  gddr : t.mem.gddr = s.mem.gddr

variable {s t v : State}

theorem HubOnly.refl (s : State) : HubOnly s s := ⟨rfl, rfl, rfl, fun _ => rfl, rfl, rfl, rfl, rfl⟩

theorem HubOnly.trans (h : HubOnly s t) (k : HubOnly t v) : HubOnly s v where
  sched := by rw [k.sched, h.sched]
  work := by rw [k.work, h.work]
  flash := k.flash.trans h.flash
  scratch u := (k.scratch u).trans (h.scratch u)
  surf := k.surf.trans h.surf
  draw := k.draw.trans h.draw
  cfg := k.cfg.trans h.cfg
  host := k.host.trans h.host

theorem HubOnly.foldl {α : Type} {f : State → α → State} (hf : ∀ s x, HubOnly s (f s x)) (l : List α) (s : State) :
    HubOnly s (l.foldl f s) :=
  foldl_keeps (P := HubOnly s) (fun t x h => h.trans (hf t x)) l (.refl s)

theorem Quiet.refl (s : State) : Quiet s s := ⟨.refl s, rfl, rfl⟩

theorem Quiet.trans (h : Quiet s t) (k : Quiet t v) : Quiet s v :=
  ⟨h.toHubOnly.trans k.toHubOnly, k.released.trans h.released, k.gddr.trans h.gddr⟩

theorem Quiet.foldl {α : Type} {f : State → α → State} (hf : ∀ s x, Quiet s (f s x)) (l : List α) (s : State) :
    Quiet s (l.foldl f s) :=
  foldl_keeps (P := Quiet s) (fun t x h => h.trans (hf t x)) l (.refl s)

/-- The dispatcher's records are untouched. -/
theorem Quiet.work_eq (h : Quiet s t) : t.work = s.work := by rw [h.work, h.released]

theorem HubOnly.thread (h : HubOnly s t) (x : Nat) : t.thread x = s.thread x := by
  rw [State.thread, State.thread, h.work]

theorem HubOnly.cohort? (h : HubOnly s t) (x : Nat) : t.cohort? x = s.cohort? x := by
  rw [State.cohort?, State.cohort?, h.work]

theorem HubOnly.team (h : HubOnly s t) (x : Nat) : t.team x = s.team x := by
  rw [State.team, State.team, h.work]

theorem HubOnly.launch (h : HubOnly s t) (x : Nat) : t.launch x = s.launch x := by
  rw [State.launch, State.launch, h.work]

theorem HubOnly.plan (h : HubOnly s t) (x : Nat) : t.plan x = s.plan x := by
  rw [State.plan, State.plan, h.work]

theorem HubOnly.clk (h : HubOnly s t) : t.sched.clk = s.sched.clk := by rw [h.sched]

theorem Quiet.modMem (s : State) (f : Mem → Mem) (hg : (f s.mem).gddr = s.mem.gddr) (hf : (f s.mem).flash = s.mem.flash) :
    Quiet s (s.modMem f) :=
  ⟨⟨rfl, rfl, hf, fun _ => rfl, rfl, rfl, rfl, rfl⟩, rfl, hg⟩

theorem scratch_modCore (s : State) (u : Nat) (f : Core → Core) (h : (f (s.core u)).scratch = (s.core u).scratch) (w : Nat) :
    ((s.modCore u f).core w).scratch = (s.core w).scratch := by
  rw [core_modCore]
  split
  · next e => rw [e, h]
  · rfl

theorem Quiet.modCore (s : State) (u : Nat) (f : Core → Core) (h : (f (s.core u)).scratch = (s.core u).scratch) :
    Quiet s (s.modCore u f) :=
  ⟨⟨rfl, rfl, rfl, scratch_modCore s u f h, rfl, rfl, rfl, rfl⟩, rfl, rfl⟩

theorem Quiet.ite {c : Prop} [Decidable c] (h : c → Quiet s t) (k : ¬c → Quiet s v) : Quiet s (if c then t else v) := by
  split
  · next hc => exact h hc
  · next hc => exact k hc

theorem quiet_newId (s : State) : Quiet s s.newId.2 := ⟨⟨rfl, rfl, rfl, fun _ => rfl, rfl, rfl, rfl, rfl⟩, rfl, rfl⟩

theorem quiet_freeBit (s : State) : Quiet s s.freeBit.2 := ⟨⟨rfl, rfl, rfl, fun _ => rfl, rfl, rfl, rfl, rfl⟩, rfl, rfl⟩

end HubFrames

section Caches

theorem quiet_wakeDomain (s : State) (col layer : Nat) : Quiet s (wakeDomain s col layer) := by
  unfold wakeDomain
  split
  · exact .modCore _ _ _ rfl
  · exact .refl s

theorem quiet_touchDomain (s : State) (col layer : Nat) : Quiet s (touchDomain s col layer) :=
  (quiet_wakeDomain s col layer).trans (.modCore _ _ _ rfl)

theorem quiet_setDead (s : State) (slice line n : Nat) : Quiet s (setDead s slice line n) := by
  unfold setDead
  exact .modMem _ _ rfl rfl

theorem quiet_evictLine (s : State) (l : Line) : Quiet s (evictLine s l) := by
  unfold evictLine
  dsimp only
  split
  · exact .modMem _ _ rfl rfl
  · exact (Quiet.modMem s _ rfl rfl).trans (quiet_setDead ..)

theorem quiet_allocLine (s : State) (l : Line) (ef : Bool) : Quiet s (allocLine s l ef) := by
  unfold allocLine
  dsimp only
  refine Quiet.trans (.ite (fun _ => .refl s) fun _ => ?_) (.modMem _ _ rfl rfl)
  split
  · exact quiet_evictLine ..
  · exact .refl s

theorem quiet_touchL2 (s : State) (pa ctx cp : Nat) (write : Bool) : Quiet s (touchL2 s pa ctx cp write) := by
  have h (slice set : Nat) : Quiet s (touchDomain s slice (setLayer set)) := quiet_touchDomain ..
  unfold touchL2
  dsimp only
  split
  · exact ((h ..).trans (.modMem _ _ rfl rfl)).trans (quiet_setDead ..)
  · split
    · exact h ..
    · exact (h ..).trans (quiet_allocLine ..)

theorem quiet_touchLines (s : State) (pa n ctx cp : Nat) (write : Bool) : Quiet s (touchLines s pa n ctx cp write) :=
  .foldl (fun _ _ => quiet_touchL2 ..) _ _

theorem quiet_writeBack (s : State) (l : L1Line) : Quiet s (writeBack s l) := by
  unfold writeBack
  split
  · exact quiet_touchL2 ..
  · exact .refl s

theorem quiet_cleanL1 (s : State) (unit : Nat) (f : Nat → Bool) : Quiet s (cleanL1 s unit f) := by
  unfold cleanL1
  split
  · exact (Quiet.foldl quiet_writeBack _ s).trans (.modCore _ _ _ rfl)
  · exact .refl s

theorem quiet_dropL1 (s : State) (unit : Nat) (f : Nat → Bool) : Quiet s (dropL1 s unit f) := by
  unfold dropL1
  split
  · exact (quiet_cleanL1 ..).trans (.modCore _ _ _ rfl)
  · exact .refl s

end Caches

section Directory

theorem quiet_setSeg (s : State) (n : Nat) (g : Segment) : Quiet s (setSeg s n g) := .modMem _ _ rfl rfl

theorem quiet_dropHolders (s : State) (n : Nat) (old new : Segment) : Quiet s (dropHolders s n old new) := by
  refine .foldl (fun s h => ?_) _ _
  dsimp only
  split
  · exact quiet_dropL1 ..
  · split
    · exact quiet_cleanL1 ..
    · exact .refl s

theorem quiet_changeSeg (s : State) (n : Nat) (g : Segment) : Quiet s (changeSeg s n g) :=
  (quiet_dropHolders ..).trans (quiet_setSeg ..)

theorem quiet_homeRead (s : State) (n : Nat) : Quiet s (homeRead s n) := by
  unfold homeRead
  dsimp only
  split
  · exact quiet_changeSeg ..
  · exact .refl s

theorem quiet_homeWrite (s : State) (n : Nat) : Quiet s (homeWrite s n) := by
  unfold homeWrite
  dsimp only
  split
  · exact .refl s
  · exact quiet_changeSeg ..

theorem quiet_enqueueFor (s : State) (w : Waiter) (segs : List Nat) : Quiet s (enqueueFor s w segs) := by
  unfold enqueueFor
  exact .modMem _ _ rfl rfl

theorem quiet_dequeueFor (s : State) (w : Waiter) : Quiet s (dequeueFor s w) := by
  unfold dequeueFor
  split
  · exact .modMem _ _ rfl rfl
  · exact .refl s

theorem quiet_takeTurn (s : State) (w : Waiter) (l : List (Nat × Nat)) : Quiet s (takeTurn s w l).2 := by
  unfold takeTurn admitTo
  split
  · exact quiet_enqueueFor ..
  · dsimp only
    split
    · exact quiet_dequeueFor ..
    · exact (Quiet.foldl (fun _ _ => quiet_wakeDomain ..) _ s).trans (quiet_enqueueFor ..)

theorem quiet_postpone (s : State) (what : HubAct) (segs : List Nat) : Quiet s (postpone s what segs) := by
  unfold postpone
  split
  · exact .refl s
  · exact (quiet_newId s).trans (quiet_enqueueFor ..)

theorem quiet_releaseCore (s : State) (core scope : Nat) : Quiet s (releaseCore s core scope) := by
  unfold releaseCore
  split
  · exact .refl s
  · exact ((quiet_cleanL1 ..).trans (.modMem _ _ rfl rfl)).trans (.foldl (fun _ _ => quiet_postpone ..) _ _)

/-- A release changes the caches and the directory (R180). -/
theorem quiet_release (s : State) (unit scope : Nat) (priv : Bool) : Quiet s (release s unit scope priv) := by
  unfold release
  split
  · exact .refl s
  · exact quiet_releaseCore ..

theorem quiet_unrecord (s : State) (pa n : Nat) (agent : Option Nat) : Quiet s (unrecord s pa n agent) := by
  unfold unrecord
  dsimp only
  split
  · split
    · exact quiet_setSeg ..
    · exact .refl s
  · exact .refl s

theorem quiet_passBlocks (s : State) (pa n : Nat) (write : Bool) : Quiet s (passBlocks s pa n write) := by
  unfold passBlocks
  split
  · split
    · exact quiet_dropL1 ..
    · exact quiet_cleanL1 ..
  · exact .refl s

theorem quiet_homeAccess (s : State) (pa n ctx cp : Nat) (write : Bool) : Quiet s (homeAccess s pa n ctx cp write) := by
  unfold homeAccess
  refine Quiet.trans (t := _) ?_ ((quiet_passBlocks ..).trans (quiet_touchLines ..))
  split
  · exact quiet_homeWrite ..
  · exact quiet_homeRead ..

end Directory

section Passes

/-- A pass that goes on writes back and invalidates the range of its holders (R190). -/
theorem quiet_passOn (s : State) (n : Nat) : Quiet s (passOn s n) := by
  unfold passOn
  split
  · exact .refl s
  · split
    · exact .modMem _ _ rfl rfl
    · refine Quiet.trans (.foldl (fun s g => ?_) _ s) (.modMem _ _ rfl rfl)
      split
      · exact quiet_postpone ..
      · exact quiet_changeSeg ..

theorem quiet_relHolds (s : State) (n unit k : Nat) : Quiet s (relHolds s n unit k) := by
  unfold relHolds
  split
  · exact .refl s
  · split
    · split
      · exact .modMem _ _ rfl rfl
      · exact ((quiet_dropL1 ..).trans (quiet_releaseCore ..)).trans (quiet_passOn ..)
    · exact .refl s

end Passes

section HubAccesses

theorem quiet_tlbInstall (s : State) (unit : Option Nat) (e : TlbEntry) (walked : Bool) : Quiet s (tlbInstall s unit e walked) := by
  unfold tlbInstall
  split
  · exact .refl s
  · next u =>
    have h : Quiet s (if (s.core u).tlb.contains e then s else s.modCore u fun k => { k with tlb := tlbPut k.tlb 64 e }) := by
      split
      · exact .refl s
      · exact .modCore _ _ _ rfl
    dsimp only
    split
    · exact h.trans (.modMem _ _ rfl rfl)
    · exact h

/-- A translation reads tables at home and fills TLBs (R417, R418). -/
theorem quiet_translate (s : State) (unit : Option Nat) (ctx va : Nat) (write priv copy : Bool) :
    Quiet s (translate s unit ctx va write priv copy).2 := by
  unfold translate
  split
  · exact .refl s
  · split
    next found stop _ =>
    extract_lets missed
    have hm (t : State) : Quiet t (missed t).2 := by
      have hw : Quiet t (stop.foldl (fun s a => homeAccess s a 8 ctx 0 false) t) := .foldl (fun _ _ => quiet_homeAccess ..) _ _
      dsimp only [missed]
      split
      · exact hw.trans (quiet_tlbInstall ..)
      · exact hw
    split
    · exact hm s
    · next h _ =>
      extract_lets used
      have hu (t : State) : Quiet t (used t).2 := quiet_tlbInstall ..
      split
      · exact hu s
      · have hf := quiet_freeBit s
        split
        next b t hb =>
        rw [hb] at hf
        refine hf.trans ?_
        split
        · exact hu t
        · exact hm t

theorem quiet_pieces (s : State) (ctx va n : Nat) (write : Bool) (fuel : Nat) : Quiet s (pieces s ctx va n write fuel).2 := by
  induction fuel generalizing s va n with
  | zero => exact .refl s
  | succ fuel ih =>
    unfold pieces
    split
    · exact .refl s
    · dsimp only
      have ht := quiet_translate s none ctx va write false false
      split
      · next h => rw [h] at ht; exact ht.trans (ih ..)
      · next h => rw [h] at ht; exact ht

theorem quiet_visitHome (s : State) (ctx va n : Nat) : Quiet s (visitHome s ctx va n) := by
  have hp := quiet_pieces s ctx va n false (pageCount n)
  unfold visitHome
  split
  · next h => rw [h] at hp; exact hp.trans (.foldl (fun _ _ => quiet_homeAccess ..) _ _)
  · next h => rw [h] at hp; exact hp

theorem hubOnly_writePa (s : State) (pa : Nat) (bs : List Byte) : HubOnly s (writePa s pa bs) :=
  ⟨rfl, rfl, rfl, fun _ => rfl, rfl, rfl, rfl, rfl⟩

theorem hubOnly_homePut (s : State) (pa ctx cp : Nat) (bs : List Byte) : HubOnly s (homePut s pa ctx cp bs) :=
  ((quiet_homeAccess ..).trans (quiet_unrecord ..)).toHubOnly.trans (hubOnly_writePa ..)

theorem hubOnly_writePages (s : State) (ctx va : Nat) (bs : List Byte) (fuel : Nat) : HubOnly s (writePages s ctx va bs fuel) := by
  induction fuel generalizing s va bs with
  | zero => exact .refl s
  | succ fuel ih =>
    unfold writePages
    split
    · exact .refl s
    · dsimp only
      have ht := (quiet_translate s none ctx va true false false).toHubOnly
      split
      · next h => rw [h] at ht; exact (ht.trans (hubOnly_homePut ..)).trans (ih ..)
      · next h => rw [h] at ht; exact ht.trans (ih ..)

theorem hubOnly_writeHome (s : State) (ctx va : Nat) (bs : List Byte) : HubOnly s (writeHome s ctx va bs) :=
  hubOnly_writePages ..

theorem hubOnly_setFilled (s : State) (ctx : Nat) (q : QObj) (n : Nat) (v : Bool) : HubOnly s (setFilled s ctx q n v) := by
  unfold setFilled
  split
  · exact hubOnly_writeHome ..
  · exact .refl s

theorem hubOnly_orLater (s : State) (w : Waiter) (ctx : Nat) (l : List (Nat × Nat)) {f : State → State}
    (hf : ∀ t, HubOnly t (f t)) : HubOnly s (orLater s w ctx l f) := by
  have ht : HubOnly s (admitRanges s w ctx l).2 := (quiet_takeTurn ..).toHubOnly
  unfold orLater
  split
  · next h => rw [h] at ht; exact ht.trans (hf _)
  · next h => rw [h] at ht; exact ht

theorem hubOnly_release (s : State) (f : List (Nat × Nat × Nat) → List (Nat × Nat × Nat)) :
    HubOnly s { s with work := { s.work with released := f s.work.released } } :=
  ⟨rfl, rfl, rfl, fun _ => rfl, rfl, rfl, rfl, rfl⟩

/-- The advance of a queue's RD writes the queue object and its bitmap (R375). -/
theorem hubOnly_advanceRd (s : State) (w : Waiter) (plan stage fuel : Nat) : HubOnly s (advanceRd s w plan stage fuel) := by
  induction fuel generalizing s with
  | zero => exact (quiet_dequeueFor ..).toHubOnly
  | succ fuel ih =>
    unfold advanceRd
    dsimp only
    split
    · exact (quiet_dequeueFor ..).toHubOnly
    · split
      · refine hubOnly_orLater _ _ _ _ fun t => ?_
        refine HubOnly.trans ?_ (ih _)
        refine HubOnly.trans ?_ (hubOnly_release _ fun l => l.erase _)
        exact ((quiet_visitHome ..).toHubOnly.trans (hubOnly_setFilled ..)).trans (hubOnly_writeHome ..)
      · exact (quiet_dequeueFor ..).toHubOnly

theorem hubOnly_advanceQueue (s : State) (w : Waiter) (plan stage : Nat) : HubOnly s (advanceQueue s w plan stage) :=
  hubOnly_advanceRd ..

end HubAccesses

end Sys2Proof.Machine

/-! SUPPORT. What the end of threads brings about beyond the threads themselves (R290, steps 3 and 4): barriers, meshlets, quads and
teams that it completes. -/

namespace Sys2Proof.Machine

/-- A thread before and after barriers and meshlets have completed: its barrier record and its arrival may differ. -/
def Thread.Alike (a b : Thread) : Prop := ∃ r m, b = { a with barRec := r, meshArr := m }

/-- A cohort before and after the waits that its members' ends complete: its wait and its outstanding writes may differ. -/
def Cohort.Alike (a b : Cohort) : Prop := ∃ w ws, b = { a with wait := w, writes := ws }

theorem Thread.Alike.refl (a : Thread) : a.Alike a := ⟨_, _, rfl⟩

theorem Thread.Alike.trans {a b c : Thread} : a.Alike b → b.Alike c → a.Alike c := by
  rintro ⟨_, _, rfl⟩ ⟨_, _, rfl⟩
  exact ⟨_, _, rfl⟩

theorem Cohort.Alike.refl (a : Cohort) : a.Alike a := ⟨_, _, rfl⟩

theorem Cohort.Alike.trans {a b c : Cohort} : a.Alike b → b.Alike c → a.Alike c := by
  rintro ⟨_, _, rfl⟩ ⟨_, _, rfl⟩
  exact ⟨_, _, rfl⟩

/-- An entry of a changed map is an old one, or the changed value of an old one. -/
theorem mem_amodify {β : Type} {m : AMap β} {n : Nat} {f : β → β} {y : Nat × β} (h : y ∈ amodify m n f) :
    y ∈ m ∨ ∃ v, (n, v) ∈ m ∧ y = (n, f v) := by
  have mem_of_alookup {l : AMap β} {v : β} (hv : alookup l n = some v) : (n, v) ∈ l := by
    induction l with
    | nil => cases hv
    | cons x r ih =>
      obtain ⟨k, w⟩ := x
      simp only [alookup] at hv
      split at hv
      · next e => cases hv; rw [e]; exact List.mem_cons_self ..
      · exact List.mem_cons_of_mem _ (ih hv)
  unfold amodify at h
  split at h
  · next v hv =>
    rcases mem_keys_ainsert h with rfl | h
    · exact .inr ⟨v, mem_of_alookup hv, rfl⟩
    · exact .inl h
  · exact .inl h

/-- What the ends of threads of some teams leave as it was. Records of a launch's queue that are still held are released in GDDR7
(R375); the teams' windows are cleared (R15). -/
structure EndsOnly (ms : List Nat) (s t : State) : Prop where
  thread : ∀ x, (s.thread x).Alike (t.thread x)
  listed : ∀ y ∈ t.work.threads, ∃ z, (y.1, z) ∈ s.work.threads ∧ z.Alike y.2
  cohort : ∀ k, (s.cohort? k = none → t.cohort? k = none) ∧
    ∀ c, s.cohort? k = some c → ∃ d, t.cohort? k = some d ∧ c.Alike d
  team : ∀ m, (t.team m).launch = (s.team m).launch ∧ (t.team m).windows ⊆ (s.team m).windows
  launch : ∀ l, (t.launch l).plan = (s.launch l).plan ∧ (t.launch l).total = (s.launch l).total ∧
    ((s.launch l).taken = [] → (t.launch l).taken = [])
  plans : t.work.plans = s.work.plans
  notes : t.work.notes = s.work.notes
  flash : t.mem.flash = s.mem.flash
  gddr : (∀ m ∈ ms, (s.launch (s.team m).launch).taken = []) → t.mem.gddr = s.mem.gddr
  scratch : ∀ u b, (∀ m ∈ ms, ∀ w, (u, w) ∈ (s.team m).windows →
      ¬(w ≤ b ∧ b < w + (s.plan (s.launch (s.team m).launch).plan).spwin * 1024)) →
    (t.core u).scratch.get b = (s.core u).scratch.get b

namespace EndsOnly
variable {ms : List Nat} {s t v : State}

theorem plan (h : EndsOnly ms s t) (p : Nat) : t.plan p = s.plan p :=
  congrArg (fun m : AMap Plan => (alookup m p).getD .nil) h.plans

theorem trans (h : EndsOnly ms s t) (k : EndsOnly ms t v) : EndsOnly ms s v where
  thread x := (h.thread x).trans (k.thread x)
  listed y hy := by
    obtain ⟨z, hz, hzy⟩ := k.listed y hy
    obtain ⟨w, hw, hwz⟩ := h.listed _ hz
    exact ⟨w, hw, hwz.trans hzy⟩
  cohort n := by
    refine ⟨fun hn => (k.cohort n).1 ((h.cohort n).1 hn), fun c hc => ?_⟩
    obtain ⟨d, hd, hcd⟩ := (h.cohort n).2 c hc
    obtain ⟨e, he, hde⟩ := (k.cohort n).2 d hd
    exact ⟨e, he, hcd.trans hde⟩
  team m := ⟨(k.team m).1.trans (h.team m).1, fun _ hx => (h.team m).2 ((k.team m).2 hx)⟩
  launch l := by
    obtain ⟨hp, ht, hk⟩ := h.launch l
    obtain ⟨kp, kt, kk⟩ := k.launch l
    exact ⟨kp.trans hp, kt.trans ht, fun e => kk (hk e)⟩
  plans := k.plans.trans h.plans
  notes := k.notes.trans h.notes
  flash := k.flash.trans h.flash
  gddr hm := by
    refine (k.gddr fun m hms => ?_).trans (h.gddr hm)
    rw [(h.team m).1]
    exact (h.launch _).2.2 (hm m hms)
  scratch u b hw := by
    refine (k.scratch u b fun m hms w hwt => ?_).trans (h.scratch u b hw)
    rw [(h.team m).1, (h.launch _).1, h.plan]
    exact hw m hms w ((h.team m).2 hwt)

theorem refl (s : State) : EndsOnly ms s s where
  thread _ := .refl _
  listed y hy := ⟨y.2, hy, .refl _⟩
  cohort _ := ⟨id, fun c hc => ⟨c, hc, .refl _⟩⟩
  team _ := ⟨rfl, fun _ => id⟩
  launch _ := ⟨rfl, rfl, id⟩
  plans := rfl
  notes := rfl
  flash := rfl
  gddr _ := rfl
  scratch _ _ _ := rfl

/-- Accesses of the hub may follow, if they leave GDDR7 as it is where no records are held. -/
theorem then_hubOnly (h : EndsOnly ms s t) (k : HubOnly t v)
    (hg : (∀ m ∈ ms, (s.launch (s.team m).launch).taken = []) → v.mem.gddr = t.mem.gddr) : EndsOnly ms s v where
  thread x := by rw [k.thread]; exact h.thread x
  listed := by rw [k.work]; exact h.listed
  cohort n := by rw [k.cohort?]; exact h.cohort n
  team m := by rw [k.team]; exact h.team m
  launch l := by rw [k.launch]; exact h.launch l
  plans := by rw [k.work]; exact h.plans
  notes := by rw [k.work]; exact h.notes
  flash := k.flash.trans h.flash
  gddr hd := (hg hd).trans (h.gddr hd)
  scratch u b hw := by rw [k.scratch]; exact h.scratch u b hw

theorem of_quiet (h : Quiet s t) : EndsOnly ms s t := (refl s).then_hubOnly h.toHubOnly fun _ => h.gddr

theorem foldl_mem {α : Type} {f : State → α → State} (l : List α) (hf : ∀ s, ∀ x ∈ l, EndsOnly ms s (f s x)) (s : State) :
    EndsOnly ms s (l.foldl f s) := by
  induction l generalizing s with
  | nil => exact .refl s
  | cons x r ih =>
    exact (hf s x (List.mem_cons_self ..)).trans (ih (fun s y hy => hf s y (List.mem_cons_of_mem _ hy)) _)

theorem foldl {α : Type} {f : State → α → State} (hf : ∀ s x, EndsOnly ms s (f s x)) (l : List α) (s : State) :
    EndsOnly ms s (l.foldl f s) := foldl_mem l (fun s x _ => hf s x) s

theorem modCore (s : State) (u : Nat) (f : Core → Core) (h : (f (s.core u)).scratch = (s.core u).scratch := by rfl) :
    EndsOnly ms s (s.modCore u f) := of_quiet (.modCore s u f h)

theorem modThread (s : State) (n : Nat) (f : Thread → Thread)
    (hf : ∀ th : Thread, th.Alike (f th) := by exact fun _ => ⟨_, _, rfl⟩) :
    EndsOnly ms s (s.modThread n f) :=
  { refl s with
    thread := thread_modThread_rel s n .refl hf
    listed := fun y hy => by
      rcases mem_amodify hy with hy | ⟨z, hz, rfl⟩
      · exact ⟨y.2, hy, .refl _⟩
      · exact ⟨z, hz, hf z⟩ }

theorem modCohort (s : State) (n : Nat) (f : Cohort → Cohort)
    (hf : ∀ c : Cohort, c.Alike (f c) := by exact fun _ => ⟨_, _, rfl⟩) :
    EndsOnly ms s (s.modCohort n f) :=
  { refl s with
    cohort := fun k => by
      rw [cohort?_modCohort]
      split
      · next e =>
        subst e
        exact ⟨fun h => by simp [h], fun c h => ⟨f c, by simp [h], hf c⟩⟩
      · exact ⟨id, fun c hc => ⟨c, hc, .refl _⟩⟩ }

theorem modTeam (s : State) (n : Nat) (f : Team → Team) (hl : ∀ x, (f x).launch = x.launch := by exact fun _ => rfl)
    (hw : ∀ x, (f x).windows ⊆ x.windows := by exact fun _ _ => id) :
    EndsOnly ms s (s.modTeam n f) :=
  { refl s with
    team := fun m => by
      rw [team_modTeam]
      split
      · next e =>
        subst e
        rw [State.team]
        cases alookup s.work.teams m with
        | none => exact ⟨rfl, fun _ => id⟩
        | some x => exact ⟨hl x, hw x⟩
      · exact ⟨rfl, fun _ => id⟩ }

theorem modLaunch (s : State) (n : Nat) (f : Launch → Launch) (hk : ∀ x, x.taken = [] → (f x).taken = [])
    (hp : ∀ x, (f x).plan = x.plan := by exact fun _ => rfl)
    (ht : ∀ x, (f x).total = x.total := by exact fun _ => rfl) :
    EndsOnly ms s (s.modLaunch n f) :=
  { refl s with
    launch := fun l => by
      rw [launch_modLaunch]
      split
      · next e =>
        subst e
        rw [State.launch]
        cases alookup s.work.launches l with
        | none => exact ⟨rfl, rfl, id⟩
        | some x => exact ⟨hp x, ht x, hk x⟩
      · exact ⟨rfl, rfl, id⟩ }

theorem draw (s : State) (d : DrawSt) : EndsOnly ms s { s with draw := d } := { refl s with }

theorem modHost (s : State) (f : HostSt → HostSt) : EndsOnly ms s (s.modHost f) := { refl s with }

theorem rings (s : State) (r : AMap Ring) : EndsOnly ms s { s with work := { s.work with rings := r } } := { refl s with }

theorem released (s : State) (r : List (Nat × Nat × Nat)) : EndsOnly ms s { s with work := { s.work with released := r } } :=
  { refl s with }

theorem logEvent (s : State) (src kind ctx : Nat) (a b : DWord) : EndsOnly ms s (Machine.logEvent s src kind ctx a b) := by
  unfold Machine.logEvent
  exact modHost s _

end EndsOnly

section Barriers
variable {ms : List Nat} (s : State)

theorem endsOnly_barArrive (unit : Nat) (priv : Bool) (t : Nat) : EndsOnly ms s (barArrive s unit priv t) :=
  ((EndsOnly.of_quiet (quiet_release ..)).trans (.modThread _ _ _)).trans
    (.modTeam _ _ _)

theorem endsOnly_barrierCohort (team id : Nat) : EndsOnly ms s (barrierCohort s team id) := by
  unfold barrierCohort
  split
  · refine EndsOnly.trans (.foldl (fun s t => ?_) _ s) (.modCohort _ _ _)
    split
    · exact endsOnly_barArrive ..
    · split
      · exact .modThread _ _ _
      · exact .refl s
  · exact .refl s

theorem endsOnly_barrierBins (team : Nat) : EndsOnly ms s (barrierBins s team) :=
  .foldl (fun _ _ => (EndsOnly.foldl (fun _ _ => endsOnly_barArrive ..) _ _).trans (.modCore _ _ _)) _ s

theorem endsOnly_barrierCheck (team fuel : Nat) : EndsOnly ms s (barrierCheck s team fuel) := by
  induction fuel generalizing s with
  | zero => exact .refl s
  | succ fuel ih =>
    unfold barrierCheck
    dsimp only
    split
    · refine EndsOnly.trans ?_ (ih _)
      refine EndsOnly.trans ?_ (endsOnly_barrierBins ..)
      exact (EndsOnly.modTeam s _ _).trans (.foldl (fun _ _ => endsOnly_barrierCohort ..) _ _)
    · exact .refl s

end Barriers

section MeshletsAndQuads
variable {ms : List Nat} (s : State)

theorem endsOnly_meshCheck (team : Nat) : EndsOnly ms s (meshCheck s team) := by
  unfold meshCheck
  dsimp only
  split
  · exact .refl s
  · split
    · exact .refl s
    · split
      · exact .refl s
      · split
        · refine EndsOnly.trans ?_ (.modTeam _ _ _)
          exact (EndsOnly.logEvent s ..).trans (.foldl (fun _ _ => .modThread _ _ _) _ _)
        · refine EndsOnly.trans ?_ (.draw _ _)
          exact (EndsOnly.modTeam s _ _).trans (.modCore _ _ _)

theorem endsOnly_quadCheck (q : Nat) : EndsOnly ms s (quadCheck s q) := by
  unfold quadCheck
  dsimp only
  split
  · exact .draw _ _
  · exact .refl s

end MeshletsAndQuads

section Teams
variable {ms : List Nat} (s : State)

/-- A word that waits for teams to be saved ends, or goes on waiting (R310). -/
theorem endsOnly_preemptNote (team : Nat) (saved : Bool) : EndsOnly ms s (preemptNote s team saved) := by
  refine .foldl (fun s x => ?_) _ s
  obtain ⟨id, c⟩ := x
  dsimp only
  split
  · split
    · exact .refl s
    · split
      · refine EndsOnly.trans ?_ (.modCohort _ _ _)
        exact (EndsOnly.of_quiet (quiet_newId s)).trans (.modCohort _ _ _)
      · exact .modCohort _ _ _
  · exact .refl s

theorem endsOnly_meshStageEnd (plan : Nat) : EndsOnly ms s (meshStageEnd s plan) := by
  refine EndsOnly.trans (.draw s _) (.foldl (fun s x => ?_) _ _)
  dsimp only
  split
  · exact .logEvent ..
  · exact .refl s

/-- The release of all that a launch still holds: without records, memory is untouched (R375). -/
theorem endsOnly_releaseRecords {l m : Nat} (hm : m ∈ ms) (hl : (s.team m).launch = l) :
    EndsOnly ms s (releaseRecords s l (s.launch l).taken) := by
  unfold releaseRecords
  extract_lets la s1 _ s2 _ s3
  have h1 : EndsOnly ms s s1 := .modLaunch _ _ _ fun x hx => by simp [hx]
  have h2 : EndsOnly ms s s2 := h1.trans (.rings _ _)
  split
  · exact h2
  · next hn =>
    have h3 : EndsOnly ms s s3.newId.2 := (h2.trans (.released _ _)).trans (.of_quiet (quiet_newId s3))
    refine h3.then_hubOnly (hubOnly_advanceQueue ..) fun hk => ?_
    have := hk m hm
    rw [hl] at this
    simp [this, memRecs] at hn

theorem endsOnly_launchExit {l m : Nat} (hm : m ∈ ms) (hl : (s.team m).launch = l) : EndsOnly ms s (launchExit s l) :=
  ((endsOnly_releaseRecords s hm hl).trans (.modLaunch _ _ _ (by exact fun _ => id))).trans (.rings _ _)

theorem endsOnly_launchDone {l m : Nat} (hm : m ∈ ms) (hl : (s.team m).launch = l) : EndsOnly ms s (launchDone s l) := by
  have h := endsOnly_launchExit s hm hl
  unfold launchDone
  dsimp only
  split
  · exact .refl s
  · split
    · exact h.trans (endsOnly_meshStageEnd ..)
    · exact h

theorem get_clear (m : Memory) {a n k : Nat} (h : ¬(a ≤ k ∧ k < a + n)) : (Memory.clear m a n).get k = m.get k := by
  unfold Memory.get Memory.clear
  congr 1
  induction m with
  | nil => rfl
  | cons x r ih =>
    obtain ⟨j, b⟩ := x
    rw [List.filter_cons]
    split
    · simp only [alookup, ih]
    · next hc =>
      have : k ≠ j := fun e => by subst e; simp at hc; omega
      simp only [alookup, if_neg this, ih]

/-- Windows are cleared; the other bytes of the scratchpads stay (R15). -/
def clearWindows (s : State) (n : Nat) (l : List (Nat × Nat)) : State :=
  l.foldl (fun s (u, b) => s.modCore u fun c => { c with scratch := Memory.clear c.scratch b n }) s

theorem clearWindows_eq (n : Nat) (l : List (Nat × Nat)) : ∃ cs, clearWindows s n l = { s with cores := cs } :=
  foldl_keeps (P := fun t : State => ∃ cs, t = { s with cores := cs }) (fun _ _ ⟨_, h⟩ => by subst h; exact ⟨_, rfl⟩) l ⟨_, rfl⟩

theorem scratch_clearWindows {n : Nat} {l : List (Nat × Nat)} {u b : Nat}
    (h : ∀ w, (u, w) ∈ l → ¬(w ≤ b ∧ b < w + n)) :
    ((clearWindows s n l).core u).scratch.get b = (s.core u).scratch.get b := by
  refine foldl_same_mem (fun t : State => (t.core u).scratch.get b) l (fun t x hx => ?_) s
  obtain ⟨v, w⟩ := x
  dsimp only
  rw [core_modCore]
  split
  · next e => subst e; exact get_clear _ (h w hx)
  · rfl

theorem endsOnly_clearWindows {m : Nat} (hm : m ∈ ms) :
    EndsOnly ms s (clearWindows s ((s.plan (s.launch (s.team m).launch).plan).spwin * 1024) (s.team m).windows) := by
  obtain ⟨cs, hcs⟩ := clearWindows_eq s ((s.plan (s.launch (s.team m).launch).plan).spwin * 1024) (s.team m).windows
  have hs := fun u b => scratch_clearWindows s (n := (s.plan (s.launch (s.team m).launch).plan).spwin * 1024)
    (l := (s.team m).windows) (u := u) (b := b)
  rw [hcs] at hs ⊢
  exact { EndsOnly.refl s with scratch := fun u b hw => hs u b (hw m hm) }

/-- The exit of a team: its cores' releases, its holds, its windows, its meshlet, and its launch when it was the last (R15). -/
theorem endsOnly_teamExit {m : Nat} (hm : m ∈ ms) : EndsOnly ms s (teamExit s m) := by
  unfold teamExit
  extract_lets tm p s1 s2 s3 s5 s6
  split
  · exact .refl s
  · have h2 : Quiet s s2 := (Quiet.foldl (fun _ _ => quiet_releaseCore ..) _ s).trans (.foldl (fun _ _ => quiet_relHolds ..) _ s1)
    have h3 : EndsOnly ms s s3 := by
      have h := endsOnly_clearWindows s2 hm
      rw [h2.team, h2.launch, h2.plan] at h
      exact (EndsOnly.of_quiet h2).trans h
    have h5 : EndsOnly ms s s5 := by
      dsimp only [s5]
      split
      · split
        · exact h3
        · exact h3.trans (.logEvent ..)
      · exact h3
    have h6 : EndsOnly ms s (preemptNote s6 m false) :=
      (h5.trans (.modTeam _ _ _ (hw := fun _ => List.nil_subset _))).trans (endsOnly_preemptNote ..)
    exact h6.trans (endsOnly_launchDone _ hm (h6.team m).1)

end Teams

end Sys2Proof.Machine

/-! SUPPORT. The end of threads (R290, step 2): publication and the release of names, predicates and stack. -/

namespace Sys2Proof.Machine

section Present
variable {s : State} {x : Nat}

/-- A thread that exists is changed as the function says. -/
theorem thread_modThread_self (h : (alookup s.work.threads x).isSome) (f : Thread → Thread) :
    (s.modThread x f).thread x = f (s.thread x) := by
  obtain ⟨v, hv⟩ := Option.isSome_iff_exists.1 h
  simp [State.thread, hv]

end Present

/-- A thread as its end leaves it. -/
def Thread.ended (th : Thread) : Thread :=
  { th with place := .exited, names := [], writes := [], stack := [], preds := 0, barRec := none, bells := [] }

/-- One thread publishes and ends. -/
def endThread (s : State) (t : Nat) : State := (publishAll s t).modThread t Thread.ended

/-- The end of threads, step by step. -/
theorem endThreads_eq (s : State) (ths : List Nat) : endThreads s ths =
    let teams := distinct (ths.map fun t => (s.thread t).team)
    let s2 := teams.foldl (fun s m => barrierCheck s m 3) (ths.foldl endThread s)
    let s4 := (distinct (ths.filterMap fun t => (s.thread t).quad)).foldl quadCheck (teams.foldl meshCheck s2)
    (distinct (ths.map fun t => (s.thread t).launch)).foldl freeNotes (teams.foldl teamExit s4) := rfl

/-- The note that a thread's publication of a name leaves (R50, R54). -/
def noteBy (s : State) (t n : Nat) : Note :=
  let th := s.thread t
  ⟨th.launch, th.lin, n, th.readName n, th.unit, s.sched.clk⟩

/-- The value of a thread's name has been published. -/
def Noted (s : State) (t n : Nat) : Prop :=
  ∃ v ∈ s.work.notes, v.launch = (s.thread t).launch ∧ v.lin = (s.thread t).lin ∧ v.name = n

/-- What a thread's publications change: its published names, and notes of its own launch and LIN that come on top. -/
structure PublishesOnly (x : Nat) (s t : State) : Prop where
  others : ∀ y, y ≠ x → t.thread y = s.thread y
  self : ∃ p, t.thread x = { s.thread x with published := p } ∧ (s.thread x).published ⊆ p
  present : ∀ y, (alookup t.work.threads y).isSome = (alookup s.work.threads y).isSome
  listed : ∀ y ∈ t.work.threads, ∃ z, (y.1, z) ∈ s.work.threads ∧ ∃ p, y.2 = { z with published := p }
  rest : t = { s with work := { s.work with threads := t.work.threads, notes := t.work.notes } }
  notes : ∀ v ∈ t.work.notes, v ∈ s.work.notes ∨ v.launch = (s.thread x).launch ∧ v.lin = (s.thread x).lin
  kept : s.work.notes ⊆ t.work.notes

namespace PublishesOnly
variable {x : Nat} {s t v : State}

theorem refl (s : State) : PublishesOnly x s s where
  others _ _ := rfl
  self := ⟨_, rfl, fun _ => id⟩
  present _ := rfl
  listed y hy := ⟨y.2, hy, _, rfl⟩
  rest := rfl
  notes _ := .inl
  kept _ := id

theorem trans (h : PublishesOnly x s t) (k : PublishesOnly x t v) : PublishesOnly x s v := by
  obtain ⟨p, hp, hsub⟩ := h.self
  obtain ⟨q, hq, ksub⟩ := k.self
  rw [hp] at hq ksub
  refine ⟨fun y hy => (k.others y hy).trans (h.others y hy), ⟨q, hq, fun _ hn => ksub (hsub hn)⟩,
    fun y => (k.present y).trans (h.present y), fun y hy => ?_, ?_, fun n hn => ?_, fun _ hn => k.kept (h.kept hn)⟩
  · obtain ⟨z, hz, _, e⟩ := k.listed y hy
    obtain ⟨w, hw, _, e2⟩ := h.listed _ hz
    exact ⟨w, hw, _, by rw [e, show z = _ from e2]⟩
  · rw [k.rest, h.rest]
  · rcases k.notes n hn with hn | hn
    · exact h.notes n hn
    · rw [hp] at hn; exact .inr hn

end PublishesOnly

section Publication
variable (s : State) (x : Nat)

theorem publishName_eq (n : Nat) : ∃ l, (∀ v ∈ l, v = noteBy s x n) ∧ (¬Noted s x n → l = [noteBy s x n]) ∧
    publishName s x n = { s with work := { s.work with
      threads := amodify s.work.threads x fun th => { th with published := th.published ++ [n] }, notes := s.work.notes ++ l } } := by
  unfold publishName
  dsimp only
  split
  · next h =>
    refine ⟨[], by simp, fun hn => absurd ?_ hn, by simp [State.modThread]⟩
    obtain ⟨v, hv, hx⟩ := List.any_eq_true.1 h
    simp only [Bool.and_eq_true, beq_iff_eq] at hx
    exact ⟨v, hv, hx.1.1, hx.1.2, hx.2⟩
  · exact ⟨[noteBy s x n], by simp, fun _ => rfl, rfl⟩

theorem publishesOnly_publishName (n : Nat) : PublishesOnly x s (publishName s x n) := by
  obtain ⟨l, hl, _, he⟩ := publishName_eq s x n
  have hth (y : Nat) : (publishName s x n).thread y = (s.modThread x fun th => { th with published := th.published ++ [n] }).thread y := by
    rw [he]; rfl
  refine ⟨fun y hy => by simp [hth, hy], ?_, fun y => ?_, fun y hy => ?_, by rw [he], fun v hv => ?_, fun v hv => ?_⟩
  · rw [hth, thread_modThread, if_pos rfl, State.thread]
    cases alookup s.work.threads x with
    | none => exact ⟨_, rfl, fun _ => id⟩
    | some th => exact ⟨_, rfl, List.subset_append_left _ _⟩
  · rw [he]; exact isSome_amodify ..
  · rw [he] at hy
    rcases mem_amodify hy with hy | ⟨z, hz, rfl⟩
    · exact ⟨y.2, hy, _, rfl⟩
    · exact ⟨z, hz, _, rfl⟩
  · rw [he] at hv
    rcases List.mem_append.1 hv with hv | hv
    · exact .inl hv
    · rw [hl v hv]; exact .inr ⟨rfl, rfl⟩
  · rw [he]; exact List.mem_append_left _ hv

/-- The names that the end of a thread publishes. -/
def toPublish : List Nat := ((s.planOf x).pass.map Prod.fst).filter fun n => !(s.thread x).published.contains n

theorem publishAll_eq : publishAll s x =
    if (s.launchOf x).stage != 0 then s else (toPublish s x).foldl (fun s n => publishName s x n) s := rfl

theorem publishesOnly_foldl (l : List Nat) : PublishesOnly x s (l.foldl (fun s n => publishName s x n) s) :=
  foldl_keeps (P := PublishesOnly x s) (fun t n h => h.trans (publishesOnly_publishName t x n)) l (.refl s)

theorem publishesOnly_publishAll : PublishesOnly x s (publishAll s x) := by
  rw [publishAll_eq]
  split
  · exact .refl s
  · exact publishesOnly_foldl ..

variable {s x}

theorem mem_published_publishName (h : (alookup s.work.threads x).isSome) (n : Nat) :
    n ∈ ((publishName s x n).thread x).published := by
  obtain ⟨l, _, _, he⟩ := publishName_eq s x n
  have : (publishName s x n).thread x = (s.modThread x fun th => { th with published := th.published ++ [n] }).thread x := by
    rw [he]; rfl
  rw [this, thread_modThread_self h]
  simp

/-- A list of names is published, each with a note unless it had one. -/
theorem foldl_publishName {l : List Nat} {k : Nat} (h : (alookup s.work.threads x).isSome) (hk : k ∈ l) :
    let t := l.foldl (fun s n => publishName s x n) s
    k ∈ (t.thread x).published ∧ (¬Noted s x k → noteBy s x k ∈ t.work.notes) := by
  induction l generalizing s with
  | nil => cases hk
  | cons n r ih =>
    have h1 := publishesOnly_publishName s x n
    have h2 := publishesOnly_foldl (publishName s x n) x r
    obtain ⟨q, hq, hsub⟩ := h2.self
    obtain ⟨l, hl, hnew, he⟩ := publishName_eq s x n
    by_cases hkn : k = n
    · subst hkn
      refine ⟨?_, fun hnone => h2.kept ?_⟩
      · rw [List.foldl_cons, hq]; exact hsub (mem_published_publishName h k)
      · rw [he, hnew hnone]; simp
    · have hk' : k ∈ r := (List.mem_cons.1 hk).resolve_left hkn
      obtain ⟨ih1, ih2⟩ := ih (s := publishName s x n) (by rw [h1.present]; exact h) hk'
      obtain ⟨p, hp, _⟩ := h1.self
      refine ⟨ih1, fun hnone => ?_⟩
      have hsame : noteBy (publishName s x n) x k = noteBy s x k := by
        have hclk : (publishName s x n).sched = s.sched := by rw [he]
        unfold noteBy
        rw [hp, hclk]
        rfl
      rw [← hsame]
      refine ih2 fun ⟨v, hv, hvl, hvi, hvn⟩ => hnone ⟨v, ?_, ?_, ?_, hvn⟩
      · rw [he] at hv
        refine (List.mem_append.1 hv).resolve_right fun hv => hkn ?_
        rw [hl v hv] at hvn
        exact hvn.symm
      · rw [hvl, hp]
      · rw [hvi, hp]

/-- The end of a thread of stage 0 publishes every set name (R50). -/
theorem publishAll_published {k : Nat} (h : (alookup s.work.threads x).isSome) (hst : (s.launchOf x).stage = 0)
    (hk : k ∈ (s.planOf x).pass.map Prod.fst) : k ∈ ((publishAll s x).thread x).published := by
  rw [publishAll_eq, if_neg (by simp [hst])]
  by_cases hp : k ∈ (s.thread x).published
  · obtain ⟨q, hq, hsub⟩ := (publishesOnly_foldl s x (toPublish s x)).self
    rw [hq]
    exact hsub hp
  · exact (foldl_publishName h (List.mem_filter.2 ⟨hk, by simpa using hp⟩)).1

/-- With a note for each that had none (R50, R54). -/
theorem publishAll_noted {k : Nat} (h : (alookup s.work.threads x).isSome) (hst : (s.launchOf x).stage = 0)
    (hk : k ∈ (s.planOf x).pass.map Prod.fst) (hp : k ∉ (s.thread x).published) (hn : ¬Noted s x k) :
    noteBy s x k ∈ (publishAll s x).work.notes := by
  rw [publishAll_eq, if_neg (by simp [hst])]
  exact (foldl_publishName h (List.mem_filter.2 ⟨hk, by simpa using hp⟩)).2 hn

end Publication

/-- What the end of some threads changes, before what it completes: those threads, and notes of theirs that come on top. -/
structure EndedBy (ths : List Nat) (s t : State) : Prop where
  others : ∀ y, y ∉ ths → t.thread y = s.thread y
  ended : ∀ y ∈ ths, (alookup s.work.threads y).isSome →
    ∃ p, t.thread y = { (s.thread y).ended with published := p } ∧ (s.thread y).published ⊆ p
  present : ∀ y, (alookup t.work.threads y).isSome = (alookup s.work.threads y).isSome
  listed : ∀ y ∈ t.work.threads, ∃ z, (y.1, z) ∈ s.work.threads ∧ y.2.launch = z.launch ∧ y.2.lin = z.lin ∧
    (y.1 ∉ ths → y.2.place = z.place)
  rest : t = { s with work := { s.work with threads := t.work.threads, notes := t.work.notes } }
  notes : ∀ v ∈ t.work.notes, v ∈ s.work.notes ∨ ∃ y ∈ ths, v.launch = (s.thread y).launch ∧ v.lin = (s.thread y).lin
  kept : s.work.notes ⊆ t.work.notes

section Ending
variable (s : State)

theorem EndedBy.refl : EndedBy [] s s where
  others _ _ := rfl
  ended _ hy := by cases hy
  present _ := rfl
  listed y hy := ⟨y.2, hy, rfl, rfl, fun _ => rfl⟩
  rest := rfl
  notes _ := .inl
  kept _ := id

/-- A published name is one more of the old ones, whether the thread ends here or not. -/
theorem EndedBy.published {s t : State} {ths : List Nat} (h : EndedBy ths s t) {y : Nat} (hy : (alookup s.work.threads y).isSome) :
    (s.thread y).published ⊆ (t.thread y).published := by
  by_cases hm : y ∈ ths
  · obtain ⟨p, hp, hsub⟩ := h.ended y hm hy
    rw [hp]
    exact hsub
  · rw [h.others y hm]
    exact fun _ => id

/-- Ends keep who a thread is. -/
theorem EndedBy.same {s t : State} {ths : List Nat} (h : EndedBy ths s t) {y : Nat}
    (hy : y ∈ ths → (alookup s.work.threads y).isSome) :
    (t.thread y).launch = (s.thread y).launch ∧ (t.thread y).lin = (s.thread y).lin ∧ (t.thread y).seat = (s.thread y).seat ∧
      (t.thread y).lane = (s.thread y).lane := by
  by_cases hm : y ∈ ths
  · obtain ⟨p, hp, _⟩ := h.ended y hm (hy hm)
    rw [hp]
    exact ⟨rfl, rfl, rfl, rfl⟩
  · rw [h.others y hm]
    exact ⟨rfl, rfl, rfl, rfl⟩

theorem EndedBy.trans {s t v : State} {l r : List Nat} (h : EndedBy l s t) (k : EndedBy r t v)
    (hp : ∀ y ∈ l, (alookup s.work.threads y).isSome) : EndedBy (l ++ r) s v where
  others y hy := by
    rw [List.mem_append, not_or] at hy
    rw [k.others y hy.2, h.others y hy.1]
  ended y hy hs := by
    have hs' : (alookup t.work.threads y).isSome := by rw [h.present]; exact hs
    by_cases hr : y ∈ r
    · obtain ⟨q, hq, ksub⟩ := k.ended y hr hs'
      refine ⟨q, ?_, fun _ hn => ksub (h.published hs hn)⟩
      by_cases hl : y ∈ l
      · obtain ⟨p, he, _⟩ := h.ended y hl hs
        rw [hq, he]
        rfl
      · rw [hq, h.others y hl]
    · have hl : y ∈ l := (List.mem_append.1 hy).resolve_right hr
      rw [k.others y hr]
      exact h.ended y hl hs
  present y := (k.present y).trans (h.present y)
  listed y hy := by
    obtain ⟨z, hz, e1, e2, e3⟩ := k.listed y hy
    obtain ⟨w, hw, f1, f2, f3⟩ := h.listed _ hz
    exact ⟨w, hw, e1.trans f1, e2.trans f2, fun hn => by
      rw [List.mem_append, not_or] at hn
      exact (e3 hn.2).trans (f3 hn.1)⟩
  rest := by rw [k.rest, h.rest]
  notes n hn := by
    rcases k.notes n hn with hn | ⟨y, hy, e1, e2⟩
    · rcases h.notes n hn with hn | ⟨y, hy, e⟩
      · exact .inl hn
      · exact .inr ⟨y, List.mem_append_left _ hy, e⟩
    · obtain ⟨f1, f2, _⟩ := h.same (y := y) (hp y)
      exact .inr ⟨y, List.mem_append_right _ hy, e1.trans f1, e2.trans f2⟩
  kept _ hn := k.kept (h.kept hn)

theorem endedBy_endThread (x : Nat) : EndedBy [x] s (endThread s x) := by
  have h := publishesOnly_publishAll s x
  refine ⟨fun y hy => ?_, fun y hy hs => ?_, fun y => ?_, fun y hy => ?_, ?_, fun v hv => ?_, h.kept⟩
  · have hy : y ≠ x := by simpa using hy
    rw [endThread, thread_modThread, if_neg hy, h.others y hy]
  · obtain rfl : y = x := by simpa using hy
    obtain ⟨p, hp, hsub⟩ := h.self
    rw [endThread, thread_modThread_self (by rw [h.present]; exact hs), hp]
    exact ⟨p, rfl, hsub⟩
  · rw [← h.present]; exact isSome_amodify ..
  · have key : ∃ z, (y.1, z) ∈ (publishAll s x).work.threads ∧ y.2.launch = z.launch ∧ y.2.lin = z.lin ∧
        (y.1 ∉ [x] → y.2.place = z.place) := by
      rcases mem_amodify hy with hy | ⟨z, hz, rfl⟩
      · exact ⟨y.2, hy, rfl, rfl, fun _ => rfl⟩
      · exact ⟨z, hz, rfl, rfl, fun hn => absurd (List.mem_singleton.2 rfl) hn⟩
    obtain ⟨z, hz, e⟩ := key
    obtain ⟨w, hw, p, hp⟩ := h.listed _ hz
    rw [show z = _ from hp] at e
    exact ⟨w, hw, e⟩
  · rw [endThread, h.rest]; rfl
  · rcases h.notes v hv with hv | hv
    · exact .inl hv
    · exact .inr ⟨x, List.mem_singleton.2 rfl, hv⟩

variable {s}

theorem endedBy_foldl {ths : List Nat} (h : Present s ths) : EndedBy ths s (ths.foldl endThread s) := by
  induction ths generalizing s with
  | nil => exact .refl s
  | cons x r ih =>
    have h1 := endedBy_endThread s x
    have hx : Present s [x] := fun y hy => h y (by rw [List.mem_singleton.1 hy]; exact List.mem_cons_self ..)
    exact h1.trans (ih fun y hy => by rw [h1.present]; exact h y (List.mem_cons_of_mem _ hy)) hx

/-- An ended thread of stage 0 has published every set name, with a note of the value that stood where there was none (R50): no other
of the threads that end stands for the same LIN of its launch. -/
theorem foldl_endThread_publishes {ths : List Nat} {x k : Nat} (h : Present s ths) (hx : x ∈ ths)
    (hst : (s.launchOf x).stage = 0) (hk : k ∈ (s.planOf x).pass.map Prod.fst) :
    k ∈ ((ths.foldl endThread s).thread x).published ∧ (k ∉ (s.thread x).published → ¬Noted s x k →
      (∀ y ∈ ths, (s.thread y).launch = (s.thread x).launch → (s.thread y).lin = (s.thread x).lin → y = x) →
      noteBy s x k ∈ (ths.foldl endThread s).work.notes) := by
  have hxs := h x hx
  obtain ⟨l, r, rfl, hl⟩ := List.eq_append_cons_of_mem hx
  have h1 : EndedBy l s (l.foldl endThread s) := endedBy_foldl fun y hy => h y (List.mem_append_left _ hy)
  rw [List.foldl_append, List.foldl_cons]
  generalize l.foldl endThread s = s1 at h1 ⊢
  have hth : s1.thread x = s.thread x := h1.others x hl
  have hla : s1.launchOf x = s.launchOf x := by rw [State.launchOf, hth, h1.rest]; rfl
  have hpl : s1.planOf x = s.planOf x := by rw [State.planOf, hla, h1.rest]; rfl
  have hx1 : (alookup s1.work.threads x).isSome := by rw [h1.present]; exact hxs
  have h2 := endedBy_endThread s1 x
  have hpub := publishesOnly_publishAll s1 x
  have h3 : EndedBy r (endThread s1 x) (r.foldl endThread (endThread s1 x)) := endedBy_foldl fun y hy => by
    rw [h2.present, h1.present]
    exact h y (List.mem_append_right _ (List.mem_cons_of_mem _ hy))
  rw [← hla] at hst
  rw [← hpl] at hk
  refine ⟨h3.published (by rw [h2.present]; exact hx1) ?_, fun hp hn hu => h3.kept ?_⟩
  · rw [endThread, thread_modThread_self (by rw [hpub.present]; exact hx1)]
    exact publishAll_published hx1 hst hk
  · have hclk : s1.sched = s.sched := by rw [h1.rest]
    have hsame : noteBy s1 x k = noteBy s x k := by unfold noteBy; rw [hth, hclk]
    rw [← hsame]
    refine publishAll_noted hx1 hst hk (by rwa [hth]) fun ⟨v, hv, e1, e2, e3⟩ => ?_
    rw [hth] at e1 e2
    rcases h1.notes v hv with hv | ⟨y, hy, f1, f2⟩
    · exact hn ⟨v, hv, e1, e2, e3⟩
    · have : y = x := hu y (List.mem_append_left _ hy) (f1.symm.trans e1) (f2.symm.trans e2)
      exact hl (this ▸ hy)

end Ending

section FreedNotes

/-- A note that a thread of its launch has still to read stays (R54). -/
theorem mem_freeNotes {s : State} {l : Nat} {v : Note} (hv : v ∈ s.work.notes) (hk : 0 < (s.plan (s.launch v.launch).plan).passk)
    (ht : v.lin + 1 < (s.launch v.launch).total)
    (hr : ∀ y ∈ s.work.threads, y.2.launch = v.launch → y.2.lin = v.lin + 1 → y.2.place ≠ .exited ∧ y.2.place ≠ .lost) :
    v ∈ (freeNotes s l).work.notes := by
  refine List.mem_filter.2 ⟨hv, ?_⟩
  rw [Bool.or_eq_true, bne_iff_ne]
  by_cases hl : v.launch = l
  case neg => exact .inl hl
  subst hl
  right
  rw [Bool.not_eq_true', ← Bool.not_eq_true, List.all_eq_true]
  intro hall
  have h0 := hall 0 (List.mem_range.2 hk)
  rw [Nat.add_zero, Bool.or_eq_true, decide_eq_true_eq, List.any_eq_true] at h0
  rcases h0 with h0 | ⟨y, hy, h0⟩
  · omega
  · simp only [Bool.and_eq_true, Bool.or_eq_true, beq_iff_eq] at h0
    obtain ⟨⟨⟨e1, e2⟩, e3⟩, _⟩ := h0
    obtain ⟨n1, n2⟩ := hr y hy e1 e2
    exact e3.elim n1 n2

theorem foldl_freeNotes_eq (s : State) (ls : List Nat) :
    ∃ ns, ls.foldl freeNotes s = { s with work := { s.work with notes := ns } } :=
  foldl_keeps (P := fun t : State => ∃ ns, t = { s with work := { s.work with notes := ns } })
    (fun _ _ ⟨_, h⟩ => by subst h; exact ⟨_, rfl⟩) ls ⟨_, rfl⟩

theorem mem_foldl_freeNotes {s : State} {v : Note} (ls : List Nat) (hv : v ∈ s.work.notes)
    (hk : 0 < (s.plan (s.launch v.launch).plan).passk) (ht : v.lin + 1 < (s.launch v.launch).total)
    (hr : ∀ y ∈ s.work.threads, y.2.launch = v.launch → y.2.lin = v.lin + 1 → y.2.place ≠ .exited ∧ y.2.place ≠ .lost) :
    v ∈ (ls.foldl freeNotes s).work.notes := by
  induction ls generalizing s with
  | nil => exact hv
  | cons l r ih => exact ih (mem_freeNotes hv hk ht hr) hk ht hr

end FreedNotes

end Sys2Proof.Machine

/-! PROOFS. EXIT (R290). -/

namespace Sys2Proof.Machine

section Lists

theorem minBy_eq_none {α : Type} {key : α → Nat} {l : List α} (h : minBy key l = none) : l = [] := by
  cases l with
  | nil => rfl
  | cons x r =>
    simp only [minBy] at h
    split at h
    · cases h
    · split at h <;> cases h

/-- The first of least key is in the list, and no key is below its. -/
theorem minBy_eq_some {α : Type} {key : α → Nat} {l : List α} {x : α} (h : minBy key l = some x) :
    x ∈ l ∧ ∀ y ∈ l, key x ≤ key y := by
  induction l generalizing x with
  | nil => cases h
  | cons z r ih =>
    simp only [minBy] at h
    split at h
    · next hn =>
      cases h
      rw [minBy_eq_none hn]
      simp
    · next w hw =>
      obtain ⟨hm, hle⟩ := ih hw
      split at h
      · cases h
        exact ⟨List.mem_cons_self .., List.forall_mem_cons.2 ⟨Nat.le_refl _, fun y hy => by have := hle y hy; omega⟩⟩
      · cases h
        exact ⟨List.mem_cons_of_mem _ hm, List.forall_mem_cons.2 ⟨by omega, hle⟩⟩

theorem mem_of_mem_distinct {l : List Nat} {x : Nat} (h : x ∈ distinct l) : x ∈ l := by
  induction l with
  | nil => exact h
  | cons y r ih =>
    rcases List.mem_cons.1 h with h | h
    · exact h ▸ List.mem_cons_self ..
    · exact List.mem_cons_of_mem _ (ih (List.mem_filter.1 h).1)

end Lists

/-- What the issue of a word without writes and marks changes: its cohort, the cores' current cohorts, the model's own scheduling. -/
structure IssuesOnly (id : Nat) (s t : State) : Prop where
  thread : ∀ x, t.thread x = s.thread x
  present : ∀ x, (alookup t.work.threads x).isSome = (alookup s.work.threads x).isSome
  listed : ∀ y ∈ t.work.threads, y ∈ s.work.threads
  others : ∀ k, k ≠ id → t.cohort? k = s.cohort? k
  scratch : ∀ u, (t.core u).scratch = (s.core u).scratch
  clk : t.sched.clk = s.sched.clk
  rest : t = { s with
    work := { s.work with threads := t.work.threads, cohorts := t.work.cohorts }, cores := t.cores, sched := t.sched }

theorem listed_marked_nil (s : State) (ths : List Nat) {a : Acc} (ha : a.marks = []) :
    (∀ x, (marked s ths a).thread x = s.thread x) ∧ ∀ y ∈ (marked s ths a).work.threads, y ∈ s.work.threads := by
  unfold marked
  rw [ha]
  refine foldl_keeps (P := fun t : State => (∀ x, t.thread x = s.thread x) ∧ ∀ y ∈ t.work.threads, y ∈ s.work.threads)
    (fun t x ⟨h1, h2⟩ => ⟨fun y => ?_, fun y hy => ?_⟩) ths ⟨fun _ => rfl, fun _ => id⟩
  · rw [← h1]
    exact thread_modThread_rel (R := fun a b => b = a) t x (fun _ => rfl) (fun _ => rfl) y
  · rcases mem_amodify hy with hy | ⟨z, hz, rfl⟩
    · exact h2 y hy
    · exact h2 _ hz

theorem issuesOnly_plainIssue (s : State) (r : Ready) {a : Acc} (ha : a.marks = []) : IssuesOnly r.id s (plainIssue s r a) where
  thread := (listed_marked_nil s r.ths ha).1
  present x := isSome_marked ..
  listed := (listed_marked_nil s r.ths ha).2
  others k hk := cohort?_commit_ne _ _ _ _ hk
  scratch u := scratch_commit ..
  clk := clk_commit ..
  rest := by
    obtain ⟨th, co, cs, sc, h⟩ := commit_eq s r a []
    rw [plainIssue, h]

theorem issuesOnly_leaveActive {s t : State} {id : Nat} (h : IssuesOnly id s t) (ths : List Nat) :
    IssuesOnly id s (leaveActive t id ths) where
  thread := h.thread
  present := h.present
  listed := h.listed
  others k hk := by rw [leaveActive, cohort?_modCohort, if_neg hk, h.others k hk]
  scratch := h.scratch
  clk := h.clk
  rest := by
    have e := h.rest
    rw [leaveActive, State.modCohort]
    rw [e]

section Settling
variable (s : State) (id : Nat)

/-- The end of an active group changes its cohort and its partition's current one (R14, R43). -/
theorem settleGroup_eq : (∀ k, k ≠ id → (settleGroup s id).cohort? k = s.cohort? k) ∧
    (∀ u, ∃ m, (settleGroup s id).core u = { s.core u with current := m }) ∧
    ∃ co cs, settleGroup s id = { s with work := { s.work with cohorts := co }, cores := cs } := by
  have hfree : (∀ k, k ≠ id → (freeContext s id).cohort? k = s.cohort? k) ∧
      (∀ u, ∃ m, (freeContext s id).core u = { s.core u with current := m }) ∧
      ∃ co cs, freeContext s id = { s with work := { s.work with cohorts := co }, cores := cs } := by
    have hd (k : Nat) (hk : k ≠ id) : (s.dropCohort id).cohort? k = s.cohort? k := alookup_aerase_ne _ hk
    unfold freeContext
    dsimp only
    split
    · refine ⟨hd, fun u => ?_, _, _, rfl⟩
      rw [core_modCore]
      split
      · next e => subst e; exact ⟨_, rfl⟩
      · exact ⟨_, rfl⟩
    · exact ⟨hd, fun _ => ⟨_, rfl⟩, _, _, rfl⟩
  unfold settleGroup
  split
  · unfold nextGroup
    dsimp only
    split
    · exact hfree
    · exact ⟨fun k hk => by rw [cohort?_modCohort, if_neg hk], fun _ => ⟨_, rfl⟩, _, _, rfl⟩
  · exact ⟨fun _ _ => rfl, fun _ => ⟨_, rfl⟩, _, _, rfl⟩

variable {s id}

theorem settleGroup_of_active (h : (s.cohort id).active ≠ []) : settleGroup s id = s := by
  rw [settleGroup, if_neg (by simpa using h)]

/-- With no thread left the context is free (R43). -/
theorem settleGroup_of_empty (h : (s.cohort id).active = []) (hg : (s.cohort id).groups = []) :
    (settleGroup s id).cohort? id = none := by
  have hd : (s.dropCohort id).cohort? id = none := alookup_aerase_self ..
  rw [settleGroup, if_pos (by simp [h]), nextGroup, hg]
  dsimp only [minBy]
  unfold freeContext
  dsimp only
  split
  · rw [cohort?_modCore]; exact hd
  · exact hd

/-- The pending group with the lowest seat goes on (R43). -/
theorem settleGroup_of_groups (hc : s.cohort? id = some (s.cohort id)) (h : (s.cohort id).active = [])
    (hg : (s.cohort id).groups ≠ []) :
    ∃ g ∈ (s.cohort id).groups, ((settleGroup s id).cohort id).pc = g.pc ∧
      ((settleGroup s id).cohort id).active = byLane s g.threads ∧
      ∀ h ∈ (s.cohort id).groups, lowestSeat s g.threads ≤ lowestSeat s h.threads := by
  rw [settleGroup, if_pos (by simp [h]), nextGroup]
  split
  · next hn => exact absurd (minBy_eq_none hn) hg
  · next g hm =>
    obtain ⟨hm, hle⟩ := minBy_eq_some hm
    refine ⟨g, hm, ?_, ?_, hle⟩ <;> simp [hc]

end Settling

/-- The states through which an exit goes: its word has issued and its threads have left the active group; their releases are made;
they have ended; barriers, meshlets, quads and teams that their end completes are complete; the notes that nobody reads any more are
free (R54); its cohort goes on or is gone. -/
structure ExitRun (s : State) (r : Ready) (a : Acc) (s1 s2 s3 s4 t : State) : Prop where
  present : Present s r.ths
  issued : IssuesOnly r.id s s1
  cohort : ∃ i m, s1.cohort? r.id = some { s.cohort r.id with
    active := without (s.cohort r.id).active r.ths, pc := pcAdd (s.cohort r.id).pc a.len, nextIssue := s.sched.clk + 1 + a.st
    issued := i, capMark := m, wait := .none, pushed := 0 }
  quiet : Quiet s1 s2
  ended : s3 = r.ths.foldl endThread s2
  brought : EndsOnly (r.ths.map fun x => (s.thread x).team) s3 s4
  settled : ∃ ls : List Nat, t = settleGroup (ls.foldl freeNotes s4) r.id

/-- Beyond the threads themselves, their end completes barriers, meshlets, quads and teams. -/
theorem endThreads_brings (s : State) (ths : List Nat) :
    ∃ (s4 : State) (ls : List Nat), EndsOnly (ths.map fun x => (s.thread x).team) (ths.foldl endThread s) s4 ∧
      endThreads s ths = ls.foldl freeNotes s4 := by
  rw [endThreads_eq]
  extract_lets teams s2 s4
  refine ⟨teams.foldl teamExit s4, _, ?_, rfl⟩
  refine EndsOnly.trans (t := s4) ?_ (.foldl_mem _ (fun s m hm => endsOnly_teamExit s (mem_of_mem_distinct hm)) _)
  refine EndsOnly.trans ?_ (.foldl (fun _ _ => endsOnly_quadCheck ..) _ _)
  exact (EndsOnly.foldl (fun _ _ => endsOnly_barrierCheck ..) _ _).trans (.foldl (fun _ _ => endsOnly_meshCheck ..) _ _)

/-- A register write, a surface write or a copy under a SYSTEM release for which an exit waits (R199, R201, R290). -/
def exitWaits (s : State) (r : Ready) : Prop :=
  r.ths ≠ [] ∧ (s.cohort r.id).writes ≠ [] ∨ ∃ x ∈ r.ths, (s.thread x).writes ≠ [] ∨
    (∃ q ∈ s.surf.reqs, q.thread = x ∧ (q.kind = 1 ∨ q.kind = 2)) ∨
    teamScope s x = 5 ∧ ∃ k ∈ s.mem.copies, k.thread = x ∧ k.remote = true

theorem exitWaits_iff (s : State) (r : Ready) : exitWaits s r ↔
    ((r.ths.any fun t => !(s.thread t).writes.isEmpty) || (!r.ths.isEmpty && !(s.cohort r.id).writes.isEmpty) ||
      (r.ths.any fun t => releaseWait s [t] (teamScope s t))) = true := by
  simp only [exitWaits, releaseWait, surfaceWrites, remoteCopies, Bool.or_eq_true, List.any_eq_true, Bool.and_eq_true,
    Bool.not_eq_true', List.isEmpty_eq_false_iff, beq_iff_eq, List.mem_singleton, exists_eq_left]
  constructor
  · rintro (h | ⟨x, hx, h | h | h⟩)
    · exact .inl (.inr h)
    · exact .inl (.inl ⟨x, hx, h⟩)
    · exact .inr ⟨x, hx, .inl h⟩
    · exact .inr ⟨x, hx, .inr h⟩
  · rintro ((⟨x, hx, h⟩ | h) | ⟨x, hx, h | h⟩)
    · exact .inr ⟨x, hx, .inl h⟩
    · exact .inl h
    · exact .inr ⟨x, hx, .inr (.inl h)⟩
    · exact .inr ⟨x, hx, .inr (.inr h)⟩

theorem exitWord_waits {s : State} {a : Acc} {r : Ready} (h : prep s a = .go r) (hw : exitWaits s r) :
    exitWord s a = .next (stallAt s r.id .settle) := by
  rw [exitWord, withPrep_go h]
  dsimp only
  rw [if_pos ((exitWaits_iff s r).1 hw)]
  rfl

theorem exitWord_runs {s : State} {a : Acc} {r : Ready} (h : prep s a = .go r) (ha : a.marks = []) (hp : Present s r.ths)
    (hw : ¬exitWaits s r) : ∃ s1 s2 s3 s4 t, exitWord s a = .next t ∧ ExitRun s r a s1 s2 s3 s4 t := by
  have hi := issuesOnly_leaveActive (issuesOnly_plainIssue s r ha) r.ths
  obtain ⟨i, m, hc⟩ := cohort_commit s r a [] (prep_go_cohort h)
  have hco := cohort?_commit s r a [] (prep_go_cohort h)
  have hq := Quiet.foldl (fun t x => quiet_release t (s.cohort r.id).unit (teamScope t x) (s.cohort r.id).priv) r.ths
    (leaveActive (plainIssue s r a) r.id r.ths)
  rw [exitWord, withPrep_go h]
  dsimp only
  rw [if_neg (fun e => hw ((exitWaits_iff s r).2 e))]
  generalize hs2 : r.ths.foldl (fun s_1 t => release s_1 (s.cohort r.id).unit (teamScope s_1 t) (s.cohort r.id).priv)
    (leaveActive (plainIssue s r a) r.id r.ths) = s2 at hq ⊢
  obtain ⟨s4, ls, hb, he⟩ := endThreads_brings s2 r.ths
  refine ⟨_, s2, _, s4, _, rfl, hp, hi, ⟨i, m, ?_⟩, hq, rfl, ?_, ls, by rw [he]⟩
  · rw [hc] at hco
    simp [leaveActive, plainIssue, hco]
  · have : (fun x => (s2.thread x).team) = fun x => (s.thread x).team := funext fun x => by rw [hq.thread, hi.thread]
    rwa [this] at hb

namespace ExitRun
variable {s s1 s2 s3 s4 t : State} {r : Ready} {a : Acc}

/-! Before the ends every record but the cohort's is as it was. -/

theorem thread_before (h : ExitRun s r a s1 s2 s3 s4 t) (x : Nat) : s2.thread x = s.thread x :=
  (h.quiet.thread x).trans (h.issued.thread x)

theorem present_before (h : ExitRun s r a s1 s2 s3 s4 t) : Present s2 r.ths := fun x hx => by
  rw [h.quiet.work_eq, h.issued.present]
  exact h.present x hx

theorem listed_before (h : ExitRun s r a s1 s2 s3 s4 t) : ∀ y ∈ s2.work.threads, y ∈ s.work.threads := by
  rw [h.quiet.work_eq]
  exact h.issued.listed

theorem team_before (h : ExitRun s r a s1 s2 s3 s4 t) (m : Nat) : s2.team m = s.team m := by
  rw [h.quiet.team, h.issued.rest]; rfl

theorem launch_before (h : ExitRun s r a s1 s2 s3 s4 t) (l : Nat) : s2.launch l = s.launch l := by
  rw [h.quiet.launch, h.issued.rest]; rfl

theorem plan_before (h : ExitRun s r a s1 s2 s3 s4 t) (p : Nat) : s2.plan p = s.plan p := by
  rw [h.quiet.plan, h.issued.rest]; rfl

theorem launchOf_before (h : ExitRun s r a s1 s2 s3 s4 t) (x : Nat) : s2.launchOf x = s.launchOf x := by
  rw [State.launchOf, h.thread_before, h.launch_before]; rfl

theorem planOf_before (h : ExitRun s r a s1 s2 s3 s4 t) (x : Nat) : s2.planOf x = s.planOf x := by
  rw [State.planOf, h.launchOf_before, h.plan_before]; rfl

theorem notes_before (h : ExitRun s r a s1 s2 s3 s4 t) : s2.work.notes = s.work.notes := by
  rw [h.quiet.work_eq, h.issued.rest]

theorem noteBy_before (h : ExitRun s r a s1 s2 s3 s4 t) (x k : Nat) : noteBy s2 x k = noteBy s x k := by
  unfold noteBy
  rw [h.thread_before, h.quiet.clk, h.issued.clk]

theorem endedBy (h : ExitRun s r a s1 s2 s3 s4 t) : EndedBy r.ths s2 s3 := by
  rw [h.ended]; exact endedBy_foldl h.present_before

/-! Behind them only notes are freed, and the cohort goes on or is gone. -/

theorem settles (h : ExitRun s r a s1 s2 s3 s4 t) : ∃ v, t = settleGroup v r.id ∧ (∀ x, v.thread x = s4.thread x) ∧
    (∀ k, v.cohort? k = s4.cohort? k) ∧ v.mem = s4.mem ∧ ∀ u, v.core u = s4.core u := by
  obtain ⟨ls, rfl⟩ := h.settled
  obtain ⟨ns, hv⟩ := foldl_freeNotes_eq s4 ls
  refine ⟨_, rfl, ?_⟩
  rw [hv]
  exact ⟨fun _ => rfl, fun _ => rfl, rfl, fun _ => rfl⟩

theorem thread_behind (h : ExitRun s r a s1 s2 s3 s4 t) (x : Nat) : t.thread x = s4.thread x := by
  obtain ⟨v, rfl, hth, _⟩ := h.settles
  obtain ⟨_, _, _, _, ht⟩ := settleGroup_eq v r.id
  rw [ht]
  exact hth x

theorem cohort?_behind (h : ExitRun s r a s1 s2 s3 s4 t) {k : Nat} (hk : k ≠ r.id) : t.cohort? k = s4.cohort? k := by
  obtain ⟨v, rfl, _, hco, _⟩ := h.settles
  rw [(settleGroup_eq v r.id).1 k hk, hco]

theorem mem_behind (h : ExitRun s r a s1 s2 s3 s4 t) : t.mem = s4.mem := by
  obtain ⟨v, rfl, _, _, hm, _⟩ := h.settles
  obtain ⟨_, _, _, _, ht⟩ := settleGroup_eq v r.id
  rw [ht]
  exact hm

theorem scratch_behind (h : ExitRun s r a s1 s2 s3 s4 t) (u : Nat) : (t.core u).scratch = (s4.core u).scratch := by
  obtain ⟨v, rfl, _, _, _, hk⟩ := h.settles
  obtain ⟨_, hcore, _⟩ := settleGroup_eq v r.id
  obtain ⟨_, hu⟩ := hcore u
  rw [hu, hk]

/-! The parts of the statement. -/

/-- A thread that executes the word has ended. -/
theorem thread_ended (h : ExitRun s r a s1 s2 s3 s4 t) {x : Nat} (hx : x ∈ r.ths) :
    (t.thread x).place = .exited ∧ (t.thread x).names = [] ∧ (t.thread x).preds = 0 ∧ (t.thread x).stack = [] := by
  obtain ⟨p, hp, _⟩ := h.endedBy.ended x hx (h.present_before x hx)
  obtain ⟨_, _, hb⟩ := h.brought.thread x
  rw [h.thread_behind, hb, hp]
  exact ⟨rfl, rfl, rfl, rfl⟩

/-- A thread that does not is as it was. -/
theorem thread_other (h : ExitRun s r a s1 s2 s3 s4 t) {x : Nat} (hx : x ∉ r.ths) :
    (t.thread x).names = (s.thread x).names ∧ (t.thread x).preds = (s.thread x).preds ∧
      (t.thread x).writes = (s.thread x).writes ∧ (t.thread x).stack = (s.thread x).stack ∧
      (t.thread x).place = (s.thread x).place := by
  obtain ⟨_, _, hb⟩ := h.brought.thread x
  rw [h.thread_behind, hb, h.endedBy.others x hx, h.thread_before]
  exact ⟨rfl, rfl, rfl, rfl, rfl⟩

/-- Seats and home lanes stay, of the ended threads too. -/
theorem seat_lane (h : ExitRun s r a s1 s2 s3 s4 t) (x : Nat) :
    (s4.thread x).seat = (s.thread x).seat ∧ (s4.thread x).lane = (s.thread x).lane := by
  obtain ⟨_, _, hs, hl⟩ := h.endedBy.same (y := x) (h.present_before x)
  obtain ⟨_, _, hb⟩ := h.brought.thread x
  rw [hb, ← h.thread_before]
  exact ⟨hs, hl⟩

theorem published (h : ExitRun s r a s1 s2 s3 s4 t) {x k : Nat} (hx : x ∈ r.ths) (hst : (s.launchOf x).stage = 0)
    (hk : k ∈ (s.planOf x).pass.map Prod.fst) : k ∈ (t.thread x).published := by
  obtain ⟨_, _, hb⟩ := h.brought.thread x
  rw [h.thread_behind, hb, h.ended]
  exact (foldl_endThread_publishes h.present_before hx (by rwa [h.launchOf_before]) (by rwa [h.planOf_before])).1

/-- The note of a value that the thread publishes as it ends stays while the next LIN has still to read it (R50, R54). -/
theorem noted (h : ExitRun s r a s1 s2 s3 s4 t) {x k : Nat} (hx : x ∈ r.ths) (hst : (s.launchOf x).stage = 0)
    (hk : k ∈ (s.planOf x).pass.map Prod.fst) (hp : k ∉ (s.thread x).published) (hn : ¬Noted s x k)
    (hu : ∀ y ∈ r.ths, (s.thread y).launch = (s.thread x).launch → (s.thread y).lin = (s.thread x).lin → y = x)
    (hpass : 0 < (s.planOf x).passk) (htot : (s.thread x).lin + 1 < (s.launchOf x).total)
    (hr : ∀ y ∈ s.work.threads, y.2.launch = (s.thread x).launch → y.2.lin = (s.thread x).lin + 1 →
      y.1 ∉ r.ths ∧ y.2.place ≠ .exited ∧ y.2.place ≠ .lost) : noteBy s x k ∈ t.work.notes := by
  obtain ⟨ls, hls⟩ := h.settled
  obtain ⟨_, _, _, _, htw⟩ := settleGroup_eq (ls.foldl freeNotes s4) r.id
  have hnote : noteBy s x k ∈ s4.work.notes := by
    rw [h.brought.notes, h.ended, ← h.noteBy_before]
    refine (foldl_endThread_publishes h.present_before hx (by rwa [h.launchOf_before]) (by rwa [h.planOf_before])).2
      (by rwa [h.thread_before]) ?_ (by simpa only [h.thread_before] using hu)
    rintro ⟨w, hw, hw'⟩
    rw [h.thread_before] at hw'
    exact hn ⟨w, h.notes_before ▸ hw, hw'⟩
  obtain ⟨l1, l2, _⟩ := h.brought.launch (s.thread x).launch
  have h3 : s3.launch (s.thread x).launch = s.launchOf x := by rw [h.endedBy.rest]; exact h.launch_before _
  have h3p (p : Nat) : s3.plan p = s.plan p := by rw [h.endedBy.rest]; exact h.plan_before _
  rw [hls, htw]
  refine mem_foldl_freeNotes ls hnote ?_ ?_ fun y hy el ei => ?_
  · rw [noteBy, l1, h3, h.brought.plan, h3p]; exact hpass
  · rw [noteBy, l2, h3]; exact htot
  · obtain ⟨z, hz, _, _, ez⟩ := h.brought.listed y hy
    obtain ⟨w, hw, f1, f2, f3⟩ := h.endedBy.listed _ hz
    rw [ez] at el ei ⊢
    obtain ⟨g1, g2⟩ := hr _ (h.listed_before _ hw) (f1.symm.trans el) (f2.symm.trans ei)
    rw [f3 g1]
    exact g2

/-- The other cohorts keep registers, PC and threads. -/
theorem cohort_other (h : ExitRun s r a s1 s2 s3 s4 t) {k : Nat} (hk : k ≠ r.id) : (t.cohort k).uregs = (s.cohort k).uregs ∧
    (t.cohort k).pc = (s.cohort k).pc ∧ (t.cohort k).active = (s.cohort k).active := by
  have e : s3.cohort? k = s.cohort? k := by
    rw [h.endedBy.rest]
    exact (h.quiet.cohort? k).trans (h.issued.others k hk)
  rw [State.cohort, State.cohort, h.cohort?_behind hk, ← e]
  obtain ⟨hn, hs⟩ := h.brought.cohort k
  cases hc : s3.cohort? k with
  | none => rw [hn hc]; exact ⟨rfl, rfl, rfl⟩
  | some c =>
    obtain ⟨_, hd, _, _, rfl⟩ := hs c hc
    rw [hd]
    exact ⟨rfl, rfl, rfl⟩

/-- The exiting cohort, before it goes on or is gone. -/
theorem own (h : ExitRun s r a s1 s2 s3 s4 t) : s4.cohort? r.id = some (s4.cohort r.id) ∧
    (s4.cohort r.id).active = without (s.cohort r.id).active r.ths ∧ (s4.cohort r.id).pc = pcAdd (s.cohort r.id).pc a.len ∧
    (s4.cohort r.id).uregs = (s.cohort r.id).uregs ∧ (s4.cohort r.id).groups = (s.cohort r.id).groups := by
  obtain ⟨i, m, hc⟩ := h.cohort
  have e : s3.cohort? r.id = s1.cohort? r.id := by
    rw [h.endedBy.rest]
    exact h.quiet.cohort? r.id
  obtain ⟨d, hd, _, _, rfl⟩ := (h.brought.cohort r.id).2 _ (e.trans hc)
  rw [State.cohort, hd]
  exact ⟨rfl, rfl, rfl, rfl, rfl⟩

/-- With threads left the cohort goes on behind the word. -/
theorem goes_on (h : ExitRun s r a s1 s2 s3 s4 t) (hr : without (s.cohort r.id).active r.ths ≠ []) :
    (t.cohort r.id).active = without (s.cohort r.id).active r.ths ∧ (t.cohort r.id).pc = pcAdd (s.cohort r.id).pc a.len ∧
      (t.cohort r.id).uregs = (s.cohort r.id).uregs := by
  obtain ⟨v, rfl, _, hv, _⟩ := h.settles
  obtain ⟨_, ha, hp, hu, _⟩ := h.own
  have e : v.cohort r.id = s4.cohort r.id := by rw [State.cohort, hv]; rfl
  rw [settleGroup_of_active (by rw [e, ha]; exact hr), e]
  exact ⟨ha, hp, hu⟩

theorem context_free (h : ExitRun s r a s1 s2 s3 s4 t) (hr : without (s.cohort r.id).active r.ths = [])
    (hg : (s.cohort r.id).groups = []) : t.cohort? r.id = none := by
  obtain ⟨v, rfl, _, hv, _⟩ := h.settles
  obtain ⟨_, ha, _, _, hgr⟩ := h.own
  have e : v.cohort r.id = s4.cohort r.id := by rw [State.cohort, hv]; rfl
  exact settleGroup_of_empty (by rw [e, ha, hr]) (by rw [e, hgr, hg])

theorem group_on (h : ExitRun s r a s1 s2 s3 s4 t) (hr : without (s.cohort r.id).active r.ths = [])
    (hg : (s.cohort r.id).groups ≠ []) : ∃ g ∈ (s.cohort r.id).groups, (t.cohort r.id).pc = g.pc ∧
      (t.cohort r.id).active = byLane s g.threads ∧
      ∀ k ∈ (s.cohort r.id).groups, lowestSeat s g.threads ≤ lowestSeat s k.threads := by
  obtain ⟨v, rfl, hvt, hv, _⟩ := h.settles
  obtain ⟨hc, ha, _, _, hgr⟩ := h.own
  have e : v.cohort r.id = s4.cohort r.id := by rw [State.cohort, hv]; rfl
  have hlane : byLane v = byLane s := by
    funext l
    unfold byLane
    congr 1
    funext x
    rw [hvt, (h.seat_lane x).2]
  have hseat : lowestSeat v = lowestSeat s := by
    funext l
    unfold lowestSeat
    congr 1
    funext m x
    rw [hvt, (h.seat_lane x).1]
  have := settleGroup_of_groups (by rw [hv, e, hc]) (by rw [e, ha, hr]) (by rw [e, hgr]; exact hg)
  rwa [e, hgr, hlane, hseat] at this

theorem flash (h : ExitRun s r a s1 s2 s3 s4 t) : t.mem.flash = s.mem.flash := by
  rw [h.mem_behind, h.brought.flash, h.endedBy.rest]
  refine h.quiet.flash.trans ?_
  rw [h.issued.rest]

theorem gddr (h : ExitRun s r a s1 s2 s3 s4 t) (hk : ∀ x ∈ r.ths, (s.launch (s.teamOf x).launch).taken = []) :
    t.mem.gddr = s.mem.gddr := by
  rw [h.mem_behind, h.brought.gddr fun m hm => ?_, h.endedBy.rest]
  · refine h.quiet.gddr.trans ?_
    rw [h.issued.rest]
  · obtain ⟨x, hx, rfl⟩ := List.mem_map.1 hm
    rw [h.endedBy.rest]
    refine Eq.trans ?_ (hk x hx)
    rw [← h.launch_before, State.teamOf, ← h.team_before]
    rfl

theorem scratch (h : ExitRun s r a s1 s2 s3 s4 t) {u b : Nat} (hw : ∀ x ∈ r.ths, ∀ w, (u, w) ∈ (s.teamOf x).windows →
      ¬(w ≤ b ∧ b < w + (s.plan (s.launch (s.teamOf x).launch).plan).spwin * 1024)) :
    (t.core u).scratch.get b = (s.core u).scratch.get b := by
  rw [h.scratch_behind, h.brought.scratch u b fun m hm w hwin => ?_, h.endedBy.rest]
  · have : (s2.core u).scratch = (s.core u).scratch := (h.quiet.scratch u).trans (h.issued.scratch u)
    exact congrArg (Memory.get · b) this
  · obtain ⟨x, hx, rfl⟩ := List.mem_map.1 hm
    rw [h.endedBy.rest] at hwin ⊢
    have ht : s2.team (s.thread x).team = s.teamOf x := h.team_before _
    replace hwin : (u, w) ∈ (s2.team (s.thread x).team).windows := hwin
    rw [ht] at hwin
    have := hw x hx w hwin
    rw [← h.plan_before, ← h.launch_before, ← ht] at this
    exact this

end ExitRun

end Sys2Proof.Machine

namespace Sys2Proof.Proofs

open Sys2Proof.Machine

/-- Settles O18: the exit's states in turn, each with what it leaves as it was. -/
theorem threadsEnd : Obligations.ThreadsEnd := by
  unfold Obligations.ThreadsEnd
  intro i a s r hform hprep hpres c rest waits
  have hexec : exec i s = exitWord s a ∧ a.marks = [] := by
    rcases hform with ⟨st, rfl, rfl⟩ | ⟨f, rfl, rfl⟩ <;> exact ⟨rfl, rfl⟩
  obtain ⟨hexec, hmarks⟩ := hexec
  refine ⟨fun hw => hexec.trans (exitWord_waits hprep hw), fun hw => ?_⟩
  obtain ⟨s1, s2, s3, s4, t, ht, h⟩ := exitWord_runs hprep hmarks hpres hw
  refine ⟨t, hexec.trans ht, fun x hx => ?_, fun x hx => h.thread_other hx, fun k hk => h.cohort_other hk, h.goes_on,
    h.context_free, h.group_on, fun b => by rw [h.flash], fun hk => ?_, fun u b hb => h.scratch hb⟩
  · obtain ⟨h1, h2, h3, h4⟩ := h.thread_ended hx
    refine ⟨h1, h2, h3, h4, fun hst k hk => ⟨h.published hx hst hk, fun hp hn hu hpass htot hr => ?_⟩⟩
    exact h.noted hx hst hk hp (fun ⟨v, hv, e⟩ => hn v hv e) hu hpass htot hr
  · exact ⟨fun b => by rw [h.gddr hk], fun b => by rw [h.flash]⟩

end Sys2Proof.Proofs

/-! PROOFS. The step (R38, R39, R70, R89): the selection of a cohort, the word that it performs, the end of a cycle. -/

namespace Sys2Proof.Machine

section Selection

/-- The cohorts of a partition that may be tried in this cycle. -/
def tries (s : State) (slot : Nat) : List (Nat × Cohort) := s.work.cohorts.filter fun (_, c) => c.slot == slot && mayTry s c

theorem mem_tries {s : State} {slot : Nat} {x : Nat × Cohort} :
    x ∈ tries s slot ↔ x ∈ s.work.cohorts ∧ x.2.slot = slot ∧ mayTry s x.2 = true := by
  simp [tries]

/-- A partition with a cohort to try selects one. -/
theorem select_isSome {s : State} {slot : Nat} (h : hasTry s slot = true) : (select s slot).isSome = true := by
  obtain ⟨x, hx, hp⟩ := List.any_eq_true.1 h
  have hm : x ∈ tries s slot := List.mem_filter.2 ⟨hx, hp⟩
  unfold select
  dsimp only
  split
  · rfl
  · split
    · rfl
    · split
      · rfl
      · next hn =>
        rw [show tries s slot = [] from minBy_eq_none hn] at hm
        cases hm

end Selection

section Words

/-- A step performs the word at a cohort's PC in a state, or takes the trap of the decode check that it fails. -/
def Performs (s t : State) (id : Nat) : Prop :=
  (∀ i n, decode (decodeCtx t (t.cohort id)) (fetch t (t.cohort id)) = .ok (i, n) →
    step s = exec i ((useImage t (t.cohort id)).modSched fun x => { x with cur := some id })) ∧
  ∀ e, decode (decodeCtx t (t.cohort id)) (fetch t (t.cohort id)) = .error e →
    step s = .next (decodeTrap t id e (fetch t (t.cohort id)))

theorem performs_of_step {s t : State} {id : Nat} (h : step s = runWord t id (t.cohort id)) : Performs s t id := by
  constructor
  · intro i n hd
    rw [h, runWord, hd]
  · intro e hd
    rw [h, runWord, hd]

theorem step_of_empty {s : State} (h : s.sched.agenda = []) : step s = autoStep s := by
  unfold step; rw [h]

theorem step_of_move {s : State} {m : Move} {rest : List Move} (h : s.sched.agenda = m :: rest) :
    step s = runMove (s.modSched fun x => { x with agenda := rest }) m := by
  unfold step; rw [h]

theorem issueSlot_selects {s s1 : State} {slot id : Nat} (h : select s slot = some (id, s1)) :
    issueSlot s slot = runWord (noSecond s1) id ((noSecond s1).cohort id) := by
  unfold issueSlot; rw [h]; rfl

theorem maySecond_cohort {s : State} {id : Nat} {c : Cohort} {d : Dual} (h : maySecond s = some (id, c, d)) : s.cohort id = c := by
  unfold maySecond at h
  split at h
  · cases h
  · split at h
    · cases h
    · next hc =>
      dsimp only at h
      split at h
      · cases h
        rw [State.cohort, hc]
        rfl
      · cases h

/-- With nothing on the agenda, no second word and no event left, a partition whose turn it is issues (R38). -/
theorem step_issues {s : State} (ha : s.sched.agenda = []) (hb : s.sched.budget = 0) (hd : s.sched.dual = none)
    (ho : openSlots s ≠ []) :
    ∃ slot ∈ openSlots s, step s = issueSlot (s.modSched fun x => { x with fresh := x.fresh + 1 }) slot := by
  have hm : maySecond s = none := by unfold maySecond; rw [hd]
  have he : autoEvent s = (none, s) := by unfold autoEvent; rw [hb]
  have hlen : Config.freeNat s.sched.fresh % (openSlots s).length < (openSlots s).length :=
    Nat.mod_lt _ (List.length_pos_iff.2 ho)
  refine ⟨_, List.getElem_mem hlen, ?_⟩
  rw [step_of_empty ha]
  unfold autoStep
  rw [hm]
  dsimp only
  unfold nextMove
  rw [he]
  dsimp only
  unfold nextCohort
  split
  · next h => exact absurd h ho
  · rw [List.getElem_eq_getD 0]; rfl

theorem select_of_open {s : State} {slot : Nat} (h : slot ∈ openSlots s) :
    (select (s.modSched fun x => { x with fresh := x.fresh + 1 }) slot).isSome = true :=
  select_isSome (s := s.modSched fun x => { x with fresh := x.fresh + 1 })
    (show hasTry s slot = true from (Bool.and_eq_true_iff.1 (List.mem_filter.1 h).2).2)

/-- The second word of a cycle comes (R39). -/
theorem step_second {s : State} {id : Nat} {c : Cohort} {d : Dual} (ha : s.sched.agenda = [])
    (hm : maySecond s = some (id, c, d)) (hb : Config.freeBit s.sched.fresh = true) :
    Performs s ((s.modSched fun x => { x with fresh := x.fresh + 1 }).modSched
      fun x => { x with dual := some { d with second := true } }) id := by
  refine performs_of_step ?_
  rw [step_of_empty ha]
  unfold autoStep
  rw [hm]
  simp only [State.freeBit, hb, if_true]
  rw [← maySecond_cohort hm]
  rfl

theorem issueCohort_selects {s s2 : State} {id : Nat} {c : Cohort} (hc : s.cohort? id = some c) (ho : slotOpen s c.slot = true)
    (hs : select s c.slot = some (id, s2)) : issueCohort s id = runWord (noSecond s2) id ((noSecond s2).cohort id) := by
  unfold issueCohort
  rw [hc]
  dsimp only
  rw [if_pos (by simp [ho, hs])]
  exact issueSlot_selects hs

theorem issueCohort_passes {s : State} {id : Nat} {c : Cohort} (hc : s.cohort? id = some c)
    (h : slotOpen s c.slot = false ∨ (select s c.slot).map Prod.fst ≠ some id) : issueCohort s id = .next s := by
  unfold issueCohort
  rw [hc]
  dsimp only
  refine if_neg fun e => ?_
  rw [Bool.and_eq_true, beq_iff_eq] at e
  rcases h with h | h
  · rw [h] at e; exact absurd e.1 (by decide)
  · exact h e.2

end Words

section Settled

/-- Settling performs writes on names and predicates, and the others stay outstanding. -/
theorem settle_writes (th : Thread) (f : Pend → Bool) : (th.settle f).writes = th.writes.filter fun p => !f p := by
  refine foldl_same Thread.writes (fun t p => ?_) _ _
  unfold Thread.apply
  split
  · rfl
  · unfold Thread.setPred; split <;> rfl
  · rfl

/-- Settling a cohort writes uniform registers. -/
theorem cohort_settle_eq (c : Cohort) (f : Pend → Bool) : ∃ u w, c.settle f = { c with uregs := u, writes := w } := by
  refine foldl_keeps (P := fun d : Cohort => ∃ u w, d = { c with uregs := u, writes := w }) ?_ _ ⟨_, _, rfl⟩
  rintro _ p ⟨u, w, rfl⟩
  unfold Cohort.apply
  split
  · exact ⟨_, _, rfl⟩
  · exact ⟨_, _, rfl⟩

end Settled

section Sampling

/-- What seat reads on their way change: outstanding values and checkpoints of some threads (R47, R289). -/
structure SamplesOnly (ts : List Nat) (s t : State) : Prop where
  values : ∀ x, (t.thread x).names = (s.thread x).names ∧ (t.thread x).preds = (s.thread x).preds
  others : ∀ x, x ∉ ts → t.thread x = s.thread x
  rest : t = { s with sched := { s.sched with fresh := t.sched.fresh }, work := { s.work with threads := t.work.threads } }

theorem SamplesOnly.refl (ts : List Nat) (s : State) : SamplesOnly ts s s := ⟨fun _ => ⟨rfl, rfl⟩, fun _ _ => rfl, rfl⟩

theorem SamplesOnly.trans {ts : List Nat} {s t v : State} (h : SamplesOnly ts s t) (k : SamplesOnly ts t v) : SamplesOnly ts s v where
  values x := ⟨(k.values x).1.trans (h.values x).1, (k.values x).2.trans (h.values x).2⟩
  others x hx := (k.others x hx).trans (h.others x hx)
  rest := by rw [k.rest, h.rest]

theorem samplesOnly_sampleSeat {ts : List Nat} {x : Nat} (hx : x ∈ ts) (s : State) (p : Pend) :
    SamplesOnly ts s (sampleSeat x s p) := by
  unfold sampleSeat
  split
  · exact .refl ts s
  · next src n _ =>
    split
    · exact .refl ts s
    · have hf : SamplesOnly ts s s.freeBit.2 := ⟨fun _ => ⟨rfl, rfl⟩, fun _ _ => rfl, rfl⟩
      dsimp only
      split
      · refine hf.trans ⟨?_, fun y hy => ?_, rfl⟩
        · exact thread_modThread_rel (R := fun a b => b.names = a.names ∧ b.preds = a.preds) _ x (fun _ => ⟨rfl, rfl⟩)
            fun _ => ⟨rfl, rfl⟩
        · rw [thread_modThread, if_neg (by rintro rfl; exact hy hx)]
      · exact hf

/-- The threads with seat reads on their way. -/
def sampling (s : State) : List (Nat × Thread) := s.work.threads.filter fun x => x.2.writes.any fun p => p.seat.isSome

theorem samplesOnly_sampleSeats (s : State) : SamplesOnly ((sampling s).map Prod.fst) s (sampleSeats s) := by
  have key (l : List (Nat × Thread)) (hl : ∀ x ∈ l, x.1 ∈ (sampling s).map Prod.fst) (t : State) :
      SamplesOnly ((sampling s).map Prod.fst) t (l.foldl (fun s x => x.2.writes.foldl (sampleSeat x.1) s) t) := by
    induction l generalizing t with
    | nil => exact .refl _ t
    | cons x r ih =>
      refine SamplesOnly.trans ?_ (ih (fun y hy => hl y (List.mem_cons_of_mem _ hy)) _)
      exact foldl_keeps (P := SamplesOnly _ t)
        (fun _ p h => h.trans (samplesOnly_sampleSeat (hl x (List.mem_cons_self ..)) _ p)) _ (.refl _ t)
  exact key _ (fun x hx => List.mem_map_of_mem hx) s

end Sampling

section Bells

/-- What the release of bell waiters changes: bell records, waits, and the bell lines themselves (R198, R361). -/
structure BellsOnly (s t : State) : Prop where
  thread : ∀ x, ∃ b, t.thread x = { s.thread x with bells := b }
  cohort : ∀ x c, s.cohort? x = some c → ∃ w, t.cohort? x = some { c with wait := w }
  rest : t = { s with
    work := { s.work with threads := t.work.threads, cohorts := t.work.cohorts }, mem := { s.mem with bells := t.mem.bells } }

theorem BellsOnly.refl (s : State) : BellsOnly s s := ⟨fun _ => ⟨_, rfl⟩, fun _ _ h => ⟨_, h⟩, rfl⟩

theorem BellsOnly.trans {s t v : State} (h : BellsOnly s t) (k : BellsOnly t v) : BellsOnly s v where
  thread x := by
    obtain ⟨_, e⟩ := h.thread x
    obtain ⟨b, f⟩ := k.thread x
    exact ⟨b, by rw [f, e]⟩
  cohort x c hc := by
    obtain ⟨_, e⟩ := h.cohort x c hc
    obtain ⟨w, f⟩ := k.cohort x _ e
    exact ⟨w, f⟩
  rest := by rw [k.rest, h.rest]

theorem BellsOnly.foldl {α : Type} {f : State → α → State} (hf : ∀ s x, BellsOnly s (f s x)) (l : List α) (s : State) :
    BellsOnly s (l.foldl f s) :=
  foldl_keeps (P := BellsOnly s) (fun t x h => h.trans (hf t x)) l (.refl s)

theorem bellsOnly_bellCohort (s : State) (line opened id : Nat) : BellsOnly s (bellCohort s line opened id) := by
  unfold bellCohort
  split
  · split
    · refine BellsOnly.trans (.foldl (fun s x => ?_) _ s) ⟨fun _ => ⟨_, rfl⟩, fun x c hc => ?_, rfl⟩
      · split
        · refine ⟨?_, fun _ _ h => ⟨_, h⟩, rfl⟩
          exact thread_modThread_rel (R := fun a b => ∃ l, b = { a with bells := l }) s x (fun _ => ⟨_, rfl⟩) fun _ => ⟨_, rfl⟩
        · exact .refl s
      · rw [cohort?_modCohort]
        split
        · next e => subst e; exact ⟨_, by rw [hc]; rfl⟩
        · exact ⟨_, hc⟩
    · exact .refl s
  · exact .refl s

theorem bellsOnly_bellRelease (s : State) (line : Nat) : BellsOnly s (bellRelease s line) := by
  unfold bellRelease
  split
  · exact .refl s
  · dsimp only
    split
    · exact .refl s
    · refine BellsOnly.trans ?_ (.foldl (fun _ _ => .foldl (fun _ _ => bellsOnly_bellCohort ..) _ _) _ _)
      exact ⟨fun _ => ⟨_, rfl⟩, fun _ _ h => ⟨_, h⟩, rfl⟩

end Bells

section Ticks

theorem settleConversions_eq (s : State) : ∃ cs, settleConversions s = { s with cores := cs } ∧
    ((∀ x ∈ s.cores, x.2.convDue s.sched.clk = false) → cs = s.cores) := by
  have h : ∃ cs, settleConversions s = { s with cores := cs } :=
    foldl_keeps (P := fun t : State => ∃ cs, t = { s with cores := cs }) (fun _ _ ⟨_, h⟩ => by subst h; exact ⟨_, rfl⟩) _ ⟨_, rfl⟩
  obtain ⟨cs, h⟩ := h
  refine ⟨cs, h, fun hn => ?_⟩
  have hf : (s.cores.filter fun (_, k) => k.convDue s.sched.clk) = [] :=
    List.filter_eq_nil_iff.2 fun x hx => by simp [hn x hx]
  rw [settleConversions, hf] at h
  exact (congrArg State.cores h).symm

/-- The clock counts on, every partition has its turn, and what is due is performed (R38, R70). -/
def counted (s : State) : State := settleDue (s.modSched fun x => { x with
  clk := x.clk + 1, served := [], budget := Config.freeNat x.fresh, swept := false, fresh := x.fresh + 1, dual := none })

theorem thread_counted {s : State} {x : Nat} {th : Thread} (h : alookup s.work.threads x = some th) :
    (counted s).thread x = th.settle (Pend.isDue (s.sched.clk + 1)) := by
  have := alookup_map s.work.threads (fun _ t => t.settle (Pend.isDue (s.sched.clk + 1))) x
  rw [h] at this
  rw [State.thread]
  exact congrArg (Option.getD · _) this

theorem cohort?_counted {s : State} {x : Nat} {c : Cohort} (h : s.cohort? x = some c) :
    (counted s).cohort? x = some (c.settle (Pend.isDue (s.sched.clk + 1))) := by
  have := alookup_map s.work.cohorts (fun _ c => c.settle (Pend.isDue (s.sched.clk + 1))) x
  rw [show alookup s.work.cohorts x = some c from h] at this
  exact this

/-- The end of a cycle in its parts: seat reads, conversions, bells. -/
theorem tick_parts (s : State) : ∃ a cs, SamplesOnly ((sampling (counted s)).map Prod.fst) (counted s) a ∧
    ((∀ x ∈ s.cores, x.2.convDue (s.sched.clk + 1) = false) → cs = s.cores) ∧ BellsOnly { a with cores := cs } (tick s) := by
  have hs := samplesOnly_sampleSeats (counted s)
  obtain ⟨cs, hc, hn⟩ := settleConversions_eq (sampleSeats (counted s))
  refine ⟨sampleSeats (counted s), cs, hs, fun h => ?_, ?_⟩
  · rw [hs.rest] at hn
    exact hn h
  · rw [← hc]
    exact .foldl (fun _ _ => bellsOnly_bellRelease ..) _ _

/-- In a map of rising keys an entry is what a look-up of its key finds. -/
theorem alookup_of_mem {β : Type} {m : AMap β} (h : Rising m) {x : Nat × β} (hx : x ∈ m) : alookup m x.1 = some x.2 := by
  induction m with
  | nil => cases hx
  | cons y r ih =>
    obtain ⟨hlt, hr⟩ := rising_cons.1 h
    rcases List.mem_cons.1 hx with rfl | hx
    · simp [alookup]
    · rw [alookup, if_neg (Nat.ne_of_gt (hlt x hx))]
      exact ih hr hx

/-- A thread without seat reads on their way is not among those whose values change. -/
theorem not_sampling {s : State} {x : Nat} {th : Thread} (hr : Rising s.work.threads) (h : alookup s.work.threads x = some th)
    (hw : ∀ p ∈ th.writes, p.seat = none) : x ∉ (sampling (counted s)).map Prod.fst := by
  intro hx
  obtain ⟨y, hy, rfl⟩ := List.mem_map.1 hx
  obtain ⟨hym, hyp⟩ := List.mem_filter.1 hy
  obtain ⟨z, hz, rfl⟩ := List.mem_map.1 hym
  have hz2 : z.2 = th := Option.some.inj ((alookup_of_mem hr hz).symm.trans h)
  obtain ⟨p, hp, hs⟩ := List.any_eq_true.1 hyp
  dsimp only at hp
  rw [settle_writes, hz2] at hp
  rw [hw p (List.mem_filter.1 hp).1] at hs
  cases hs

theorem thread_tick {s : State} {x : Nat} {th : Thread} (h : alookup s.work.threads x = some th) :
    ((tick s).thread x).names = (th.settle (Pend.isDue (s.sched.clk + 1))).names ∧
    ((tick s).thread x).preds = (th.settle (Pend.isDue (s.sched.clk + 1))).preds ∧
    (Rising s.work.threads → (∀ p ∈ th.writes, p.seat = none) →
      ((tick s).thread x).writes = (th.settle (Pend.isDue (s.sched.clk + 1))).writes) := by
  obtain ⟨a, cs, ha, _, hb⟩ := tick_parts s
  obtain ⟨b, hb⟩ := hb.thread x
  rw [hb, ← thread_counted h]
  refine ⟨(ha.values x).1, (ha.values x).2, fun hr hw => ?_⟩
  have e := congrArg Thread.writes (ha.others x (not_sampling hr h hw))
  exact e

theorem cohort_tick {s : State} {x : Nat} {c : Cohort} (h : s.cohort? x = some c) :
    ((tick s).cohort x).uregs = (c.settle (Pend.isDue (s.sched.clk + 1))).uregs ∧ ((tick s).cohort x).pc = c.pc := by
  obtain ⟨a, cs, ha, _, hb⟩ := tick_parts s
  have hc : a.cohort? x = some (c.settle (Pend.isDue (s.sched.clk + 1))) := by rw [ha.rest]; exact cohort?_counted h
  obtain ⟨w, hw⟩ := hb.cohort x _ hc
  obtain ⟨u, ws, hu⟩ := cohort_settle_eq c (Pend.isDue (s.sched.clk + 1))
  rw [State.cohort, hw, hu]
  exact ⟨rfl, rfl⟩

/-- What the end of a cycle leaves as it was. -/
theorem tick_frame (s : State) : (tick s).sched.clk = s.sched.clk + 1 ∧ (tick s).sched.served = [] ∧
    (tick s).mem.gddr = s.mem.gddr ∧ (tick s).mem.flash = s.mem.flash ∧ (tick s).surf = s.surf ∧ (tick s).cfg = s.cfg ∧
    (tick s).host = s.host ∧ ((∀ x ∈ s.cores, x.2.convDue (s.sched.clk + 1) = false) → (tick s).cores = s.cores) := by
  obtain ⟨a, cs, ha, hn, hb⟩ := tick_parts s
  rw [hb.rest, ha.rest]
  exact ⟨rfl, rfl, rfl, rfl, rfl, rfl, rfl, hn⟩

/-- Nothing has waited for its turn. -/
theorem serve_nothing {s : State} (hr : s.surf.reqs = []) (ho : s.surf.order = []) (hi : s.host.inbox = [])
    (hl : s.host.launches = []) (hw : s.mem.waiting = []) : serveWaiting (serveReqs s) = s := by
  have hreq : serveReqs s = s := by
    unfold serveReqs
    rw [hr]
    simp only [List.foldl_nil, ho, List.filter_nil]
    rw [← ho]
  have hact : serveActs s = s := by rw [serveActs, hw]; rfl
  have hbox : serveInbox s = s := by rw [serveInbox, hi]; rfl
  rw [hreq]
  unfold serveWaiting
  rw [hact, hbox]
  dsimp only
  rw [hl]
  rfl

end Ticks

end Sys2Proof.Machine

namespace Sys2Proof.Proofs

open Sys2Proof.Machine

/-- Settles O4: each form of a step through the lemma for it. -/
theorem stepRunsWord : Obligations.StepRunsWord := by
  unfold Obligations.StepRunsWord
  intro s run drawn
  refine ⟨fun ha hb hd ho => ?_, fun ha id c d hm hb => step_second ha hm hb, fun m rest ha => ?_⟩
  · obtain ⟨slot, hslot, hstep⟩ := step_issues ha hb hd ho
    exact ⟨slot, hslot, select_of_open hslot, fun id s2 hs => performs_of_step (hstep.trans (issueSlot_selects hs))⟩
  · intro s1
    have hmove := step_of_move ha
    refine ⟨fun id c hm hc => ⟨fun s2 ho hs => ?_, fun hn => ?_⟩, fun id hm hc => ?_, fun i e hm => ?_,
      fun hm ho => ?_, fun hm ho => ?_⟩
    · subst hm
      exact performs_of_step (hmove.trans (issueCohort_selects hc ho hs))
    · subst hm
      exact hmove.trans (issueCohort_passes hc hn)
    · subst hm
      rw [hmove, runMove, issueCohort, cohort?_modSched, hc]
    · subst hm
      rw [hmove]
      rfl
    · subst hm
      rw [hmove, runMove, if_neg (by simpa using ho)]
    · subst hm
      intro t
      have hclose : step s = .next (serveWaiting (serveReqs t)) := by
        rw [hmove, runMove, if_pos (by simpa using ho)]
        rfl
      obtain ⟨hclk, hserved, hgddr, hflash, hsurf, hcfg, hhost, hcores⟩ := tick_frame s1
      refine ⟨hclose, fun hr hord hi hl hw => ?_, hclk, hserved, hgddr, hflash, hsurf, hcfg, hhost, hcores,
        fun x th hx => thread_tick (s := s1) hx, fun x c hc => cohort_tick (s := s1) hc⟩
      rw [hclose, serve_nothing (by rw [hsurf]; exact hr) (by rw [hsurf]; exact hord) (by rw [hhost]; exact hi)
        (by rw [hhost]; exact hl) hw]

end Sys2Proof.Proofs

/-! PROOFS. Cohorts: selection (R38), the ends of waits (R52, R256), homeroom bins and formation (R41, R44, R45, R435). -/

namespace Sys2Proof.Machine

/-- The cohort is its partition's current one and may stay it (R38). -/
def stays (s : State) (slot : Nat) (x : Nat × Cohort) : Prop :=
  alookup (s.core (slot / 4)).current (slot % 4) = some x.1 ∧ x.2.issued < 256 ∧ x.2.capMark = false

/-- The three steps of selection (R38): the current cohort; else the oldest without a cap mark; else the oldest, with the marks
cleared. -/
theorem select_steps {s s1 : State} {slot id : Nat} (h : select s slot = some (id, s1)) : ∃ c, (id, c) ∈ tries s slot ∧
    (stays s slot (id, c) ∧ s1 = s ∨
    (∀ x ∈ tries s slot, ¬stays s slot x) ∧ c.capMark = false ∧ s1 = s ∧
      (∀ x ∈ tries s slot, x.2.capMark = false → c.stamp ≤ x.2.stamp) ∨
    (∀ x ∈ tries s slot, ¬stays s slot x) ∧ (∀ x ∈ tries s slot, x.2.capMark = true) ∧
        (∀ x ∈ tries s slot, c.stamp ≤ x.2.stamp) ∧
      ∀ x ∈ s1.work.cohorts, x.2.slot = slot → x.2.capMark = false) := by
  have hstays (x : Nat × Cohort) : (alookup (s.core (slot / 4)).current (slot % 4) == some x.1 && decide (x.2.issued < 256) &&
      !x.2.capMark) = true ↔ stays s slot x := by
    simp [stays, and_assoc]
  unfold select at h
  dsimp only at h
  split at h
  · next i c hf =>
    cases h
    have hcur := List.find?_some hf
    exact ⟨c, List.mem_of_find?_eq_some hf, .inl ⟨(hstays _).1 hcur, rfl⟩⟩
  · next hf =>
    have hno : ∀ x ∈ tries s slot, ¬stays s slot x := fun x hx hs => List.find?_eq_none.1 hf x hx ((hstays x).2 hs)
    split at h
    · next i c hm =>
      cases h
      obtain ⟨hmem, hle⟩ := minBy_eq_some hm
      obtain ⟨hmem, hcap⟩ := List.mem_filter.1 hmem
      refine ⟨c, hmem, .inr (.inl ⟨hno, by simpa using hcap, rfl, fun x hx hc => hle x (List.mem_filter.2 ⟨hx, by simp [hc]⟩)⟩)⟩
    · next hn =>
      split at h
      · next i c hm =>
        cases h
        obtain ⟨hmem, hle⟩ := minBy_eq_some hm
        refine ⟨c, hmem, .inr (.inr ⟨hno, fun x hx => ?_, hle, fun x hx hs => ?_⟩)⟩
        · simpa using List.filter_eq_nil_iff.1 (minBy_eq_none hn) x hx
        · obtain ⟨⟨j, d⟩, _, rfl⟩ := List.mem_map.1 hx
          dsimp only at hs ⊢
          split
          · rfl
          · next hne =>
            rw [if_neg hne] at hs
            exact absurd (beq_iff_eq.2 hs) hne
      · cases h

section Waits
variable (s : State)

/-- A changed cohort that is there, as its own change. -/
theorem modCohort_congr {id : Nat} {c : Cohort} (h : s.cohort? id = some c) {f g : Cohort → Cohort} (he : f c = g c) :
    s.modCohort id f = s.modCohort id g := by
  unfold State.modCohort amodify
  rw [show alookup s.work.cohorts id = some c from h]
  dsimp only
  rw [he]

/-- A change that leaves the cohort as it is leaves every cohort. -/
theorem cohort?_modCohort_same {id : Nat} {c : Cohort} (h : s.cohort? id = some c) {f : Cohort → Cohort} (he : f c = c) (k : Nat) :
    (s.modCohort id f).cohort? k = s.cohort? k := by
  rw [cohort?_modCohort]
  split
  · next e => rw [e, h, Option.map_some, he]
  · rfl

theorem issueCap_marks {c : Cohort} (h : s.cohort? s.sched.arg.a = some c) (hi : 256 ≤ c.issued)
    (hc : alookup (s.core c.unit).current c.part = some s.sched.arg.a) :
    exec .issueCap s = .next (s.modCohort s.sched.arg.a fun c => { c with capMark := true }) :=
  congrArg Host.Outcome.next (modCohort_congr s h (if_pos (by simp [hi, hc])))

theorem issueCap_passes {c : Cohort} (h : s.cohort? s.sched.arg.a = some c)
    (hn : c.issued < 256 ∨ alookup (s.core c.unit).current c.part ≠ some s.sched.arg.a) :
    ∃ t, exec .issueCap s = .next t ∧ ∀ k, t.cohort? k = s.cohort? k := by
  refine ⟨_, rfl, fun k => cohort?_modCohort_same s h ?_ k⟩
  refine if_neg fun e => ?_
  rw [Bool.and_eq_true, decide_eq_true_eq, beq_iff_eq] at e
  rcases hn with hn | hn
  · omega
  · exact hn e.2

/-- A value is not published while some name that it covers has no note of the predecessor (R52). -/
theorem unpublished_iff (n k w x : Nat) : unpublished s n k w x = true ↔ k ≤ (s.thread x).lin ∧ ∃ m ∈ backNames n w,
    ∀ e ∈ s.work.notes, ¬(e.launch = (s.thread x).launch ∧ e.lin = (s.thread x).lin - k ∧ e.name = m) := by
  simp [unpublished, noteOf, and_assoc]

theorem passbackPublished_ends {c : Cohort} {n k w tr : Nat} {ths : List Nat} (h : s.cohort? s.sched.arg.a = some c)
    (hw : c.wait = .stall (.passback n k w ths) tr) (hp : ∀ x ∈ ths, unpublished s n k w x = false) :
    exec .passbackPublished s = .next (s.modCohort s.sched.arg.a fun c => { c with wait := .none }) := by
  refine congrArg Host.Outcome.next (modCohort_congr s h ?_)
  rw [hw]
  exact if_pos (List.all_eq_true.2 fun x hx => by rw [hp x hx]; rfl)

theorem passbackPublished_waits {c : Cohort} {n k w tr : Nat} {ths : List Nat} (h : s.cohort? s.sched.arg.a = some c)
    (hw : c.wait = .stall (.passback n k w ths) tr) (hp : ∃ x ∈ ths, unpublished s n k w x = true) :
    ∃ t, exec .passbackPublished s = .next t ∧ ∀ k, t.cohort? k = s.cohort? k := by
  refine ⟨_, rfl, fun j => cohort?_modCohort_same s h ?_ j⟩
  rw [hw]
  obtain ⟨x, hx, hu⟩ := hp
  refine if_neg fun e => ?_
  have := List.all_eq_true.1 e x hx
  rw [hu] at this
  cases this

end Waits

section Results

/-- One outstanding write of a name that is performed is what the name then reads; other names read as before. -/
theorem settle_single {th : Thread} {p : Pend} {n : Nat} {f : Pend → Bool} (hw : th.writes = [p]) (hf : f p = true)
    (ht : p.tgt = .name n) (hr : p.release = false) : (th.settle f).writes = [] ∧ (th.settle f).readName n = p.val.setWidth 32 ∧
      ∀ m, m ≠ n → (th.settle f).readName m = th.readName m := by
  have he : th.settle f = Thread.apply { th with writes := [] } p := by
    simp [Thread.settle, hw, hf]
  rw [he, Thread.apply, ht]
  refine ⟨rfl, ?_, fun m hm => ?_⟩
  · simp [Thread.readName, hr]
  · simp [Thread.readName, hr, hw, hm]

theorem variableLatencyResult_settles (s : State) :
    let f (p : Pend) : Bool := p.id == s.sched.arg.b && p.var && !p.held && decide (p.due ≤ s.sched.clk)
    ∃ t, exec .variableLatencyResult s = .next t ∧ SameMemory s t ∧ (∀ id, t.cohort id = (s.cohort id).settle f) ∧
      ∀ x, t.thread x = (s.thread x).settle f := by
  intro f
  refine ⟨_, rfl, sameMemory_of_eq rfl fun _ => rfl, fun id => ?_, fun x => ?_⟩
  · have h := alookup_map s.work.cohorts (fun _ c => c.settle f) id
    refine (congrArg (Option.getD · Cohort.nil) h).trans ?_
    rw [State.cohort, State.cohort?]
    cases alookup s.work.cohorts id <;> rfl
  · have h := alookup_map s.work.threads (fun _ t => t.settle f) x
    refine (congrArg (Option.getD · Thread.nil) h).trans ?_
    rw [State.thread]
    cases alookup s.work.threads x <;> rfl

end Results

section Aging

theorem binAging_marks (s : State) {b : Bin} (h : alookup (s.core s.sched.arg.a).bins s.sched.arg.b = some b) :
    ∃ t, exec .binAging s = .next t ∧ t.work = s.work ∧ SameMemory s t ∧
      alookup (t.core s.sched.arg.a).bins s.sched.arg.b = some (ageBin s b) ∧
      ∀ m, m ≠ s.sched.arg.b → alookup (t.core s.sched.arg.a).bins m = alookup (s.core s.sched.arg.a).bins m := by
  refine ⟨_, rfl, rfl, sameMemory_of_eq rfl (scratch_modCore s _ _ rfl), ?_, fun m hm => ?_⟩
  · rw [core_modCore, if_pos rfl, alookup_amodify, if_pos rfl, h]
    rfl
  · rw [core_modCore, if_pos rfl, alookup_amodify, if_neg hm]

end Aging

section Sorting
variable {α : Type} (key : α → Nat)

theorem perm_insertFront (x : α) (l : List α) : (insertFront key x l).Perm (x :: l) := by
  induction l with
  | nil => exact .refl _
  | cons y r ih =>
    rw [insertFront]
    split
    · exact .refl _
    · exact (ih.cons y).trans (.swap x y r)

theorem perm_sortBy (l : List α) : (sortBy key l).Perm l := by
  induction l with
  | nil => exact .refl _
  | cons x r ih => exact (perm_insertFront key x _).trans (ih.cons x)

theorem pairwise_insertFront {x : α} {l : List α} (h : l.Pairwise fun a b => key a ≤ key b) :
    (insertFront key x l).Pairwise fun a b => key a ≤ key b := by
  induction l with
  | nil => exact List.pairwise_singleton _ _
  | cons y r ih =>
    obtain ⟨hy, hr⟩ := List.pairwise_cons.1 h
    rw [insertFront]
    split
    · next hxy => exact List.pairwise_cons.2 ⟨List.forall_mem_cons.2 ⟨hxy, fun z hz => Nat.le_trans hxy (hy z hz)⟩, h⟩
    · next hxy =>
      refine List.pairwise_cons.2 ⟨fun z hz => ?_, ih hr⟩
      rcases List.mem_cons.1 ((perm_insertFront key x r).mem_iff.1 hz) with rfl | hz
      · omega
      · exact hy z hz

/-- Sorting sorts. -/
theorem pairwise_sortBy (l : List α) : (sortBy key l).Pairwise fun a b => key a ≤ key b := by
  induction l with
  | nil => exact .nil
  | cons x r ih => exact pairwise_insertFront key ih

end Sorting

section Lanes
variable (s : State)

/-- The home lane of a filed thread. -/
def homeLane (f : Filed) : Nat := (s.thread f.thread).lane

theorem distinctLanes_sublist (taken : List Nat) (l : List Filed) : (distinctLanes s taken l).Sublist l := by
  induction l generalizing taken with
  | nil => exact .refl _
  | cons f r ih =>
    rw [distinctLanes]
    split
    · exact (ih _).cons _
    · exact (ih _).cons_cons _

/-- Drawn threads have home lanes of their own, none of them taken before (R45). -/
theorem distinctLanes_nodup (taken : List Nat) (l : List Filed) : ((distinctLanes s taken l).map (homeLane s)).Nodup ∧
    ∀ f ∈ distinctLanes s taken l, homeLane s f ∉ taken := by
  induction l generalizing taken with
  | nil => exact ⟨.nil, fun f hf => by cases hf⟩
  | cons f r ih =>
    rw [distinctLanes]
    split
    · exact ih taken
    · next ht =>
      obtain ⟨hn, hout⟩ := ih (homeLane s f :: taken)
      refine ⟨List.nodup_cons.2 ⟨fun hm => ?_, hn⟩, fun g hg => ?_⟩
      · obtain ⟨g, hg, he⟩ := List.mem_map.1 hm
        exact hout g hg (he ▸ List.mem_cons_self ..)
      · rcases List.mem_cons.1 hg with rfl | hg
        · simpa [homeLane] using ht
        · exact fun hm => hout g hg (List.mem_cons_of_mem _ hm)

/-- Every lane that is not taken is drawn from, by its first thread. -/
theorem distinctLanes_first (taken : List Nat) {l : List Filed} {key : Filed → Nat} (hs : l.Pairwise fun a b => key a ≤ key b) :
    ∀ g ∈ l, homeLane s g ∉ taken → ∃ f ∈ distinctLanes s taken l, homeLane s f = homeLane s g ∧ key f ≤ key g := by
  induction l generalizing taken with
  | nil => intro g hg; cases hg
  | cons f r ih =>
    obtain ⟨hf, hr⟩ := List.pairwise_cons.1 hs
    intro g hg ht
    rw [distinctLanes]
    by_cases hft : homeLane s f ∈ taken
    · rw [if_pos (by simpa [homeLane] using hft)]
      rcases List.mem_cons.1 hg with rfl | hg
      · exact absurd hft ht
      · exact ih taken hr g hg ht
    · rw [if_neg (by simpa [homeLane] using hft)]
      rcases List.mem_cons.1 hg with rfl | hg
      · exact ⟨g, List.mem_cons_self .., rfl, Nat.le_refl _⟩
      · by_cases he : homeLane s g = homeLane s f
        · exact ⟨f, List.mem_cons_self .., he.symm, hf g hg⟩
        · obtain ⟨d, hd, hdl⟩ := ih (homeLane s f :: taken) hr g hg (by simp [he, ht])
          exact ⟨d, List.mem_cons_of_mem _ hd, hdl⟩

theorem mem_distinct {l : List Nat} {x : Nat} : x ∈ distinct l ↔ x ∈ l := by
  refine ⟨mem_of_mem_distinct, fun h => ?_⟩
  induction l with
  | nil => exact h
  | cons y r ih =>
    rw [distinct, List.mem_cons]
    refine Decidable.or_iff_not_imp_left.2 fun hne => List.mem_filter.2 ⟨ih ((List.mem_cons.1 h).resolve_left hne), by simpa using hne⟩

theorem nodup_distinct (l : List Nat) : (distinct l).Nodup := by
  induction l with
  | nil => exact .nil
  | cons y r ih => exact List.nodup_cons.2 ⟨fun h => by simpa using (List.mem_filter.1 h).2, ih.filter _⟩

/-- A list without repeated keys holds one element of each key. -/
theorem eq_of_nodup_map {α β : Type} {f : α → β} {l : List α} (h : (l.map f).Nodup) {a b : α} (ha : a ∈ l) (hb : b ∈ l)
    (he : f a = f b) : a = b := by
  induction l with
  | nil => cases ha
  | cons x r ih =>
    obtain ⟨hx, hr⟩ := List.nodup_cons.1 h
    rcases List.mem_cons.1 ha with rfl | har
    · rcases List.mem_cons.1 hb with rfl | hbr
      · rfl
      · exact absurd (he ▸ List.mem_map_of_mem hbr) hx
    · rcases List.mem_cons.1 hb with rfl | hbr
      · exact absurd (he ▸ List.mem_map_of_mem har) hx
      · exact ih hr har hbr

/-- There are as many drawn threads as home lanes. -/
theorem length_distinctLanes_le (l : List Filed) : (distinctLanes s [] l).length ≤ (lanesOf s l).length := by
  rw [← List.length_map (homeLane s)]
  refine (distinctLanes_nodup s [] l).1.length_le_of_subset fun x hx => ?_
  obtain ⟨f, hf, rfl⟩ := List.mem_map.1 hx
  exact mem_distinct.2 (List.mem_map_of_mem ((distinctLanes_sublist s [] l).subset hf))

end Lanes

section Formation
variable (s : State) (u p : Nat)

/-- The filed threads that formation draws from a bin (R45). -/
def drawn (b : Bin) : List Filed :=
  (distinctLanes s [] (sortBy (fun f => (s.thread f.thread).lin) (drawable s u p b))).take 32

theorem drawn_sublist (b : Bin) : (drawn s u p b).Sublist (sortBy (fun f => (s.thread f.thread).lin) (drawable s u p b)) :=
  (List.take_sublist _ _).trans (distinctLanes_sublist ..)

theorem mem_drawable_of_drawn {b : Bin} {f : Filed} (h : f ∈ drawn s u p b) : f ∈ drawable s u p b :=
  (perm_sortBy _ _).mem_iff.1 ((drawn_sublist s u p b).subset h)

theorem drawn_nodup (b : Bin) : ((drawn s u p b).map (homeLane s)).Nodup :=
  ((distinctLanes_nodup s [] _).1).sublist ((List.take_sublist _ _).map _)

/-- Of each home lane the thread of the lowest number is drawn. -/
theorem drawn_lowest {b : Bin} {f g : Filed} (hf : f ∈ drawn s u p b) (hg : g ∈ drawable s u p b) (hl : homeLane s g = homeLane s f) :
    (s.thread f.thread).lin ≤ (s.thread g.thread).lin := by
  obtain ⟨d, hd, hdl, hle⟩ := distinctLanes_first s [] (pairwise_sortBy (fun f => (s.thread f.thread).lin) (drawable s u p b)) g
    ((perm_sortBy _ _).mem_iff.2 hg) (List.not_mem_nil)
  have := eq_of_nodup_map (distinctLanes_nodup s [] _).1 hd ((List.take_sublist _ _).subset hf) (hdl.trans hl)
  rw [← this]
  exact hle

/-- With no more than 32 home lanes every lane is drawn from. -/
theorem drawn_all {b : Bin} (h : (lanesOf s (drawable s u p b)).length ≤ 32) {g : Filed} (hg : g ∈ drawable s u p b) :
    ∃ f ∈ drawn s u p b, homeLane s f = homeLane s g := by
  obtain ⟨d, hd, hdl, _⟩ := distinctLanes_first s [] (pairwise_sortBy (fun f => (s.thread f.thread).lin) (drawable s u p b)) g
    ((perm_sortBy _ _).mem_iff.2 hg) (List.not_mem_nil)
  refine ⟨d, ?_, hdl⟩
  have hlen : (distinctLanes s [] (sortBy (fun f => (s.thread f.thread).lin) (drawable s u p b))).length ≤ 32 := by
    refine Nat.le_trans (length_distinctLanes_le s _) (Nat.le_trans ?_ h)
    refine (nodup_distinct _).length_le_of_subset fun x hx => ?_
    obtain ⟨f, hf, rfl⟩ := List.mem_map.1 (mem_distinct.1 hx)
    exact mem_distinct.2 (List.mem_map_of_mem ((perm_sortBy _ _).mem_iff.1 hf))
  rw [drawn, List.take_of_length_le hlen]
  exact hd

/-- Threads that are placed one after another are placed. -/
theorem place_foldl {s : State} {pl : Place} {ths : List Nat} {x : Nat} (hx : x ∈ ths) (hs : (alookup s.work.threads x).isSome) :
    ((ths.foldl (fun s t => s.modThread t fun th => { th with place := pl }) s).thread x).place = pl := by
  induction ths generalizing s with
  | nil => cases hx
  | cons y r ih =>
    have hs' : (alookup (s.modThread y fun th => { th with place := pl }).work.threads x).isSome := by
      rw [State.modThread_work_threads, isSome_amodify]; exact hs
    rw [List.foldl_cons]
    by_cases he : x = y
    · subst he
      refine thread_foldl_modThread _ (fun th => th.place = pl) (fun t => t) (fun _ th => { th with place := pl }) r x hs' ?_
        fun _ _ _ _ => rfl
      rw [thread_modThread_self hs]
    · exact ih ((List.mem_cons.1 hx).resolve_left he) hs'

/-- The state in which a cohort of a partition has its number and its stamp. -/
def stamped : State := s.newId.2.modCore u fun k => { k with stamps := ainsert k.stamps p ((alookup (s.core u).stamps p).getD 0 + 1) }

theorem newCohort_eq (ctx launch : Nat) (pc : Word) (ths : List Nat) (uregs : AMap DWord) (priv : Bool) (ready : Nat) :
    newCohort s u p ctx launch pc ths uregs priv ready =
      (ths.foldl (fun s1 t => s1.modThread t fun th => { th with place := .cohort s.sched.next }) (stamped s u p)).setCohort
        s.sched.next { unit := u, part := p, ctx := ctx, launch := launch, stamp := (alookup (s.core u).stamps p).getD 0
                       pc := pc, active := byLane s ths, uregs := uregs, nextIssue := ready, priv := priv } := rfl

/-- A new cohort (R45): where it is, what it holds, and where its threads are. -/
theorem newCohort_spec {t : State} {ctx launch : Nat} {pc : Word} {ths : List Nat} {uregs : AMap DWord} {priv : Bool} {ready : Nat}
    (ht : newCohort s u p ctx launch pc ths uregs priv ready = t) :
    t.cohort s.sched.next = { unit := u, part := p, ctx := ctx, launch := launch, stamp := (alookup (s.core u).stamps p).getD 0
                              pc := pc, active := byLane s ths, uregs := uregs, nextIssue := ready, priv := priv } ∧
      t.mem = s.mem ∧ (∀ v, ∃ m, t.core v = { s.core v with stamps := m }) ∧
      ∀ x ∈ ths, (alookup s.work.threads x).isSome → (t.thread x).place = .cohort s.sched.next := by
  obtain ⟨m, hm⟩ := foldl_modThread (stamped s u p) (fun x => x) (fun _ th => { th with place := .cohort s.sched.next }) ths
  rw [newCohort_eq] at ht
  refine ⟨?_, ?_, fun v => ?_, fun x hx hs => ?_⟩
  · subst ht
    simp [State.cohort, State.cohort?]
  · rw [← ht, hm]; rfl
  · have hs : ∃ m, (stamped s u p).core v = { s.core v with stamps := m } := by
      rw [stamped, core_modCore]
      split
      · next e => subst e; exact ⟨_, rfl⟩
      · exact ⟨_, rfl⟩
    rw [← ht, hm]
    exact hs
  · rw [← ht]
    exact place_foldl (s := stamped s u p) hx hs

/-- The end of a wait changes its thread alone. -/
theorem foldl_endWait_eq (b : Bin) (fs : List Filed) : ∃ m, fs.foldl (fun s f => endWait s u b f) s =
    { s with work := { s.work with threads := m } } ∧ ∀ x, (alookup m x).isSome = (alookup s.work.threads x).isSome := by
  refine foldl_keeps (P := fun t : State => ∃ m, t = { s with work := { s.work with threads := m } } ∧
    ∀ x, (alookup m x).isSome = (alookup s.work.threads x).isSome) (fun t f ⟨m, ht, hm⟩ => ?_) fs ⟨_, rfl, fun _ => rfl⟩
  subst ht
  unfold endWait
  split
  · exact ⟨_, rfl, hm⟩
  · split
    · exact ⟨_, rfl, fun x => (isSome_amodify ..).trans (hm x)⟩
    · exact ⟨_, rfl, fun x => (isSome_amodify ..).trans (hm x)⟩
    · exact ⟨_, rfl, hm⟩

/-- The state in which a bin has lost the drawn threads. -/
def drawnFrom (n : Nat) (b : Bin) : State :=
  let left := b.threads.filter fun f => !((drawn s u p b).map Filed.thread).contains f.thread
  s.modCore u fun k => { k with
    bins := if left.isEmpty then aerase k.bins n else ainsert k.bins n (ageBin s { b with threads := left }) }

theorem formFrom_eq (ctx n : Nat) (b : Bin) : formFrom s u p ctx n b =
    newCohort ((drawn s u p b).foldl (fun s f => endWait s u b f) (drawnFrom s u p n b)) u p ctx b.launch b.pc
      ((drawn s u p b).map Filed.thread) (drawnUregs s u b (drawn s u p b)) b.priv (s.sched.clk + 4) := rfl

theorem core_drawnFrom (n : Nat) (b : Bin) (v : Nat) :
    ((drawnFrom s u p n b).core v).scratch = (s.core v).scratch ∧ ((drawnFrom s u p n b).core v).stamps = (s.core v).stamps ∧
      ∀ b1, alookup ((drawnFrom s u p n b).core u).bins n = some b1 →
        b1.threads = b.threads.filter fun f => !((drawn s u p b).map Filed.thread).contains f.thread := by
  unfold drawnFrom
  dsimp only
  refine ⟨scratch_modCore s u _ rfl v, ?_, fun b1 hb => ?_⟩
  · rw [core_modCore]
    split
    · next e => subst e; rfl
    · rfl
  · rw [core_modCore, if_pos rfl] at hb
    dsimp only at hb
    split at hb
    · simp at hb
    · simp only [alookup_ainsert, if_true, Option.some.injEq] at hb
      rw [← hb]
      rfl

/-- A cohort formed from a bin (R45): the drawn threads leave the bin, and the cohort may issue four cycles later. -/
theorem formFrom_spec {t : State} {ctx n : Nat} {b : Bin} (ht : formFrom s u p ctx n b = t) :
    ∃ id, (t.cohort id).unit = u ∧ (t.cohort id).part = p ∧ (t.cohort id).pc = b.pc ∧ (t.cohort id).launch = b.launch ∧
      (t.cohort id).ctx = ctx ∧ (t.cohort id).stamp = (alookup (s.core u).stamps p).getD 0 ∧
      (t.cohort id).nextIssue = s.sched.clk + 4 ∧ (t.cohort id).wait = .none ∧
      (t.cohort id).active.Perm ((drawn s u p b).map Filed.thread) ∧ SameMemory s t ∧
      (∀ x ∈ (drawn s u p b).map Filed.thread, (alookup s.work.threads x).isSome → (t.thread x).place = .cohort id) ∧
      ∀ b1, alookup (t.core u).bins n = some b1 →
        b1.threads = b.threads.filter fun f => !((drawn s u p b).map Filed.thread).contains f.thread := by
  obtain ⟨m, hm, hsome⟩ := foldl_endWait_eq (drawnFrom s u p n b) u b (drawn s u p b)
  rw [formFrom_eq, hm] at ht
  obtain ⟨hc, hmem, hcore, hplace⟩ := newCohort_spec _ u p ht
  refine ⟨(drawnFrom s u p n b).sched.next, ?_⟩
  replace hc : t.cohort (drawnFrom s u p n b).sched.next = _ := hc
  rw [hc]
  refine ⟨rfl, rfl, rfl, rfl, rfl, ?_, rfl, rfl, perm_sortBy _ _, sameMemory_of_eq hmem fun v => ?_,
    fun x hx h => ?_, fun b1 hb => ?_⟩
  · exact congrArg (fun k => (alookup k p).getD 0) (core_drawnFrom s u p n b u).2.1
  · obtain ⟨_, hv⟩ := hcore v
    rw [hv]
    exact (core_drawnFrom s u p n b v).1
  · exact hplace x hx (by rw [hsome]; exact h)
  · obtain ⟨_, hv⟩ := hcore u
    rw [hv] at hb
    exact (core_drawnFrom s u p n b u).2.2 b1 hb

end Formation

end Sys2Proof.Machine

/-! PROOFS. Formation and the filing of long waits (R41, R44, R45, R435), and the statement on the events of cohorts. -/

namespace Sys2Proof.Machine

section CohortFormation
variable (s : State)

/-- A launch cohort that waits for a context comes first (R435), and may issue at once. -/
theorem cohortFormation_launch {ctx i : Nat} {l : LaunchCohort} {pc : Word}
    (hf : freeCtx s s.sched.arg.a s.sched.arg.b = some ctx)
    (hw : waitingLcoh s s.sched.arg.a s.sched.arg.b = some (i, l, pc)) :
    ∃ t id, exec .cohortFormation s = .next t ∧ SameMemory s t ∧ (t.cohort id).pc = pc ∧
      (t.cohort id).active = byLane s l.threads ∧ (t.cohort id).ctx = ctx ∧
      (t.cohort id).stamp = (alookup (s.core s.sched.arg.a).stamps s.sched.arg.b).getD 0 ∧
      (t.cohort id).nextIssue = s.sched.clk ∧ (t.cohort id).uregs = [] ∧
      ∀ x ∈ l.threads, (alookup s.work.threads x).isSome → (t.thread x).place = .cohort id := by
  obtain ⟨hc, hm, hcore, hp⟩ := newCohort_spec (s.modLcoh i fun l => { l with waiting := none }) s.sched.arg.a s.sched.arg.b
    (ctx := ctx) (launch := (s.team l.team).launch) (pc := pc) (ths := l.threads) (uregs := []) (priv := false)
    (ready := s.sched.clk) rfl
  refine ⟨_, s.sched.next, ?_, sameMemory_of_eq hm fun u => ?_, ?_⟩
  · refine congrArg Host.Outcome.next ?_
    rw [hf]
    dsimp only
    rw [hw]
  · obtain ⟨_, hu⟩ := hcore u
    rw [hu]
    rfl
  · replace hc : State.cohort _ s.sched.next = _ := hc
    rw [hc]
    exact ⟨rfl, rfl, rfl, rfl, rfl, rfl, hp⟩

/-- A bin is drawn from when no launch cohort waits and nothing can be recalled (R44, R45). -/
theorem cohortFormation_bin {ctx n : Nat} {b : Bin} (hf : freeCtx s s.sched.arg.a s.sched.arg.b = some ctx)
    (hw : waitingLcoh s s.sched.arg.a s.sched.arg.b = none)
    (hr : ∀ x ∈ cohortsIn s s.sched.arg.a s.sched.arg.b, recallable s x.2 = false)
    (hb : formationBin s s.sched.arg.a s.sched.arg.b = some (n, b)) :
    exec .cohortFormation s = .next (formFrom s s.sched.arg.a s.sched.arg.b ctx n b) := by
  have hn : ¬((cohortsIn s s.sched.arg.a s.sched.arg.b).any fun x => recallable s x.2) = true := by
    rw [List.any_eq_true]
    rintro ⟨x, hx, h⟩
    rw [hr x hx] at h
    cases h
  refine congrArg Host.Outcome.next ?_
  rw [hf]
  dsimp only
  rw [hw]
  dsimp only
  rw [if_neg hn, hb]

/-- Nothing is formed: no context is free, a recall comes first, or no bin has a thread to draw. -/
theorem cohortFormation_idle (h : freeCtx s s.sched.arg.a s.sched.arg.b = none ∨
      waitingLcoh s s.sched.arg.a s.sched.arg.b = none ∧
        ((∃ x ∈ cohortsIn s s.sched.arg.a s.sched.arg.b, recallable s x.2 = true) ∨
          formationBin s s.sched.arg.a s.sched.arg.b = none)) :
    exec .cohortFormation s = .next s := by
  refine congrArg Host.Outcome.next ?_
  rcases h with h | ⟨hw, h⟩
  · rw [h]
  · split
    · rfl
    · rw [hw]
      dsimp only
      split
      · rfl
      · next hn =>
        rcases h with ⟨x, hx, h⟩ | h
        · exact absurd (List.any_eq_true.2 ⟨x, hx, h⟩) hn
        · rw [h]

/-- What a cohort formed from a bin holds (R45). -/
theorem formFrom_draws {u p ctx n : Nat} {b : Bin} :
    let d := drawable s u p b
    ∃ t id, formFrom s u p ctx n b = t ∧ SameMemory s t ∧ (t.cohort id).unit = u ∧ (t.cohort id).part = p ∧
      (t.cohort id).pc = b.pc ∧ (t.cohort id).launch = b.launch ∧ (t.cohort id).ctx = ctx ∧
      (t.cohort id).stamp = (alookup (s.core u).stamps p).getD 0 ∧
      (t.cohort id).nextIssue = s.sched.clk + 4 ∧ (t.cohort id).wait = .none ∧
      (t.cohort id).active.length ≤ 32 ∧ (((t.cohort id).active).map fun x => (s.thread x).lane).Nodup ∧
      (∀ x ∈ (t.cohort id).active, ∃ f ∈ d, f.thread = x ∧
        ∀ g ∈ d, (s.thread g.thread).lane = (s.thread x).lane → (s.thread x).lin ≤ (s.thread g.thread).lin) ∧
      ((lanesOf s d).length ≤ 32 → ∀ g ∈ d, ∃ x ∈ (t.cohort id).active, (s.thread x).lane = (s.thread g.thread).lane) ∧
      (∀ x ∈ (t.cohort id).active, (alookup s.work.threads x).isSome → (t.thread x).place = .cohort id) ∧
      ∀ b1, alookup (t.core u).bins n = some b1 → ∀ f ∈ b1.threads, f ∈ b.threads ∧ f.thread ∉ (t.cohort id).active := by
  intro d
  obtain ⟨id, h1, h2, h3, h4, h5, h6, h7, h8, hperm, hmem, hplace, hbin⟩ := formFrom_spec s u p (ctx := ctx) (n := n) (b := b) rfl
  have hlen : (drawn s u p b).length ≤ 32 := List.length_take_le ..
  refine ⟨_, id, rfl, hmem, h1, h2, h3, h4, h5, h6, h7, h8, ?_, ?_, fun x hx => ?_, fun hl g hg => ?_, fun x hx => ?_,
    fun b1 hb1 f hf => ?_⟩
  · rw [hperm.length_eq, List.length_map]; exact hlen
  · rw [(hperm.map _).nodup_iff, List.map_map]
    exact drawn_nodup s u p b
  · obtain ⟨f, hf, rfl⟩ := List.mem_map.1 (hperm.mem_iff.1 hx)
    exact ⟨f, mem_drawable_of_drawn s u p hf, rfl, fun g hg hgl => drawn_lowest s u p hf hg hgl⟩
  · obtain ⟨f, hf, hfl⟩ := drawn_all s u p hl hg
    exact ⟨f.thread, hperm.mem_iff.2 (List.mem_map_of_mem hf), hfl⟩
  · exact hplace x (hperm.mem_iff.1 hx)
  · rw [hbin b1 hb1] at hf
    obtain ⟨hfb, hft⟩ := List.mem_filter.1 hf
    exact ⟨hfb, fun hm => by simp [hperm.mem_iff.1 hm] at hft⟩

end CohortFormation

section Filing
variable {s : State} {c : Cohort} {pc : Word} {cond : BinCond} {fs : List Filed}

/-- Every active thread of a waiting cohort files, now. -/
theorem filingOf_threads (h : filingOf s c = some (pc, cond, fs)) :
    fs.map Filed.thread = c.active ∧ ∀ f ∈ fs, f.time = s.sched.clk := by
  have hwait (ths : List Nat) : ((filedNow s c.active).map fun f => { f with waits := ths.contains f.thread }).map Filed.thread =
      c.active ∧ ∀ f ∈ (filedNow s c.active).map fun f => { f with waits := ths.contains f.thread }, f.time = s.sched.clk := by
    simp [filedNow, Function.comp_def]
  unfold filingOf at h
  dsimp only at h
  split at h
  · cases h
    exact ⟨by simp [barrierFiled, Function.comp_def], by simp [barrierFiled]⟩
  · cases h; exact hwait _
  · cases h; exact hwait _
  · cases h

/-- Whoever is still to be counted is held until the next generation, who has recorded one until that (R360, log entry 60). -/
theorem filingOf_barrier {late ths : List Nat} {wait : Bool} (h : filingOf s c = some (pc, cond, fs))
    (hw : c.wait = .barrier late wait ths) : pc = c.pc ∧ cond = .barrier ∧ ∀ f ∈ fs,
      let tm := (s.thread f.thread).team
      f.late = late.contains f.thread ∧
      (f.thread ∈ late → f.gens = [(tm, (s.team tm).barGen + wait.toNat)]) ∧
      ∀ g, f.thread ∉ late → wait = true → f.thread ∈ ths → (s.thread f.thread).barRec = some g → f.gens = [(tm, g)] := by
  unfold filingOf at h
  rw [hw] at h
  cases h
  refine ⟨rfl, rfl, fun f hf => ?_⟩
  obtain ⟨x, _, rfl⟩ := List.mem_map.1 hf
  refine ⟨rfl, fun hl => ?_, fun g hl ht hm hg => ?_⟩
  · have hl : x ∈ late := hl
    cases wait <;> simp [barrierGen, hl]
  · have hl : x ∉ late := hl
    have hm : x ∈ ths := hm
    have hg : (s.thread x).barRec = some g := hg
    simp [barrierGen, hl, hm, hg, ht]

theorem filingOf_tag {any : Bool} {m : DWord} {pd d tr : Nat} {ths : List Nat} (h : filingOf s c = some (pc, cond, fs))
    (hw : c.wait = .stall (.tag any m pd d ths) tr) :
    pc = pcAdd c.pc 3 ∧ cond = .tag any m pd d ∧ ∀ f ∈ fs, f.waits = ths.contains f.thread := by
  unfold filingOf at h
  rw [hw] at h
  cases h
  refine ⟨rfl, rfl, fun f hf => ?_⟩
  obtain ⟨g, _, rfl⟩ := List.mem_map.1 hf
  rfl

/-- A search from a number upward fails only if every number in its range is in use. -/
theorem firstFree_eq_none {used : List Nat} {start n : Nat} (h : firstFree used start n = none) :
    ∀ k, start ≤ k → k < start + n → k ∈ used := by
  induction n generalizing start with
  | zero => intro k h1 h2; omega
  | succ n ih =>
    rw [firstFree] at h
    split at h
    · next hs =>
      intro k h1 h2
      by_cases he : k = start
      · rw [he]; simpa using hs
      · exact ih h k (by omega) (by omega)
    · cases h

/-- Threads file where a bin takes them: the one of their key, or an empty one (R41). -/
theorem fileAt_spec {unit launch : Nat} {uregs : AMap DWord} {priv : Bool}
    (hfree : ∃ n, n < 64 ∧ n ∉ (s.core unit).bins.map Prod.fst) :
    ∃ t n b, fileAt s unit launch pc cond fs uregs priv = some t ∧ b.launch = launch ∧ b.pc = pc ∧ b.cond = cond ∧
      (∀ f ∈ fs, f ∈ b.threads) ∧ t.mem = s.mem ∧ (∀ k, t.cohort? k = s.cohort? k) ∧
      (∀ u, t.core u = if u = unit then { s.core unit with bins := ainsert (s.core unit).bins n b } else s.core u) ∧
      ∀ x ∈ fs.map Filed.thread, (alookup s.work.threads x).isSome → (t.thread x).place = .bin unit n := by
  have hput (n : Nat) (b : Bin) :
      let s1 := s.setCore unit { s.core unit with bins := ainsert (s.core unit).bins n b }
      let t := (fs.map Filed.thread).foldl (fun s t => s.modThread t fun th => { th with place := .bin unit n }) s1
      t.mem = s.mem ∧ (∀ k, t.cohort? k = s.cohort? k) ∧
      (∀ u, t.core u = if u = unit then { s.core unit with bins := ainsert (s.core unit).bins n b } else s.core u) ∧
      ∀ x ∈ fs.map Filed.thread, (alookup s.work.threads x).isSome → (t.thread x).place = .bin unit n := by
    intro s1 t
    obtain ⟨m, hm⟩ := foldl_modThread s1 (fun x => x) (fun _ th => { th with place := .bin unit n }) (fs.map Filed.thread)
    have ht : t = { s1 with work := { s1.work with threads := m } } := hm
    rw [ht]
    refine ⟨rfl, fun _ => rfl, fun u => core_setCore .., fun x hx hs => ?_⟩
    rw [← ht]
    exact place_foldl (s := s1) hx hs
  unfold fileAt
  dsimp only
  split
  · next n b hf =>
    have hkey := List.find?_some hf
    simp only [Bool.and_eq_true, beq_iff_eq] at hkey
    obtain ⟨⟨hl, hp⟩, hc⟩ := hkey
    exact ⟨_, n, { b with threads := b.threads ++ fs }, rfl, hl, hp, hc, fun f hm => List.mem_append_right _ hm, hput ..⟩
  · split
    · next n _ =>
      exact ⟨_, n, { launch := launch, pc := pc, cond := cond, threads := fs, uregs := uregs, priv := priv }, rfl, rfl, rfl, rfl,
        fun f hm => hm, hput ..⟩
    · next hn =>
      obtain ⟨n, hlt, hmem⟩ := hfree
      exact absurd (firstFree_eq_none hn n (Nat.zero_le _) (by omega)) hmem

/-- Nothing files from a wait that is not long enough, from a stopped or cloaked cohort, or where no bin is in use (R41). -/
theorem waitAgeFiling_idle (hc : s.cohort? s.sched.arg.a = some c) (hf : filingOf s c = some (pc, cond, fs))
    (h : s.sched.clk ≤ c.waitSince + (s.planC c).age ∨ c.stop ≠ none ∨ c.cloak ≠ .no ∨ binsInUse s c.unit = false) :
    exec .waitAgeFiling s = .next s := by
  refine congrArg Host.Outcome.next ?_
  rw [hc]
  dsimp only
  rw [hf]
  dsimp only
  refine if_pos ?_
  simp only [Bool.or_eq_true, decide_eq_true_eq, bne_iff_ne, Bool.not_eq_true', Option.isSome_iff_ne_none, or_assoc]
  rcases h with h | h | h | h
  · exact .inr (.inr (.inl h))
  · exact .inl h
  · exact .inr (.inl h)
  · exact .inr (.inr (.inr h))

/-- The event of a cohort that has waited long enough, where a bin takes its threads. -/
theorem waitAgeFiling_eq {s1 : State} (hc : s.cohort? s.sched.arg.a = some c) (hf : filingOf s c = some (pc, cond, fs))
    (hage : c.waitSince + (s.planC c).age < s.sched.clk) (hstop : c.stop = none) (hcloak : c.cloak = .no)
    (hbins : binsInUse s c.unit = true)
    (hin : fileIn (leaveActive s s.sched.arg.a c.active) s.sched.arg.a pc cond fs = some s1) :
    exec .waitAgeFiling s = .next (nextGroup s1 s.sched.arg.a) := by
  refine congrArg Host.Outcome.next ?_
  rw [hc]
  dsimp only
  rw [hf]
  dsimp only
  rw [if_neg (by simp [hstop, hcloak, hbins]; omega), hin]

/-- A long wait files every thread of its cohort into one bin, and the cohort's next group goes on, or its context is free (R41). -/
theorem waitAgeFiling_files (hc : s.cohort? s.sched.arg.a = some c) (hf : filingOf s c = some (pc, cond, fs))
    (hage : c.waitSince + (s.planC c).age < s.sched.clk) (hstop : c.stop = none) (hcloak : c.cloak = .no)
    (hbins : binsInUse s c.unit = true) (hfree : ∃ n, n < 64 ∧ n ∉ (s.core c.unit).bins.map Prod.fst)
    (hpres : ∀ x ∈ c.active, (alookup s.work.threads x).isSome) :
    ∃ t n b, exec .waitAgeFiling s = .next t ∧ SameMemory s t ∧ alookup (t.core c.unit).bins n = some b ∧
      b.launch = c.launch ∧ b.pc = pc ∧ b.cond = cond ∧ (∀ f ∈ fs, f ∈ b.threads) ∧
      (∀ x ∈ c.active, (t.thread x).place = .bin c.unit n) ∧ (c.groups = [] → t.cohort? s.sched.arg.a = none) := by
  have hleft : (leaveActive s s.sched.arg.a c.active).cohort? s.sched.arg.a = some { c with active := [] } := by
    rw [leaveActive, cohort?_modCohort, if_pos rfl, hc, Option.map_some, without]
    simp
  obtain ⟨s1, n, b, hs1, hbl, hbp, hbc, hbf, hmem, hco, hcore, hplace⟩ := fileAt_spec (s := leaveActive s s.sched.arg.a c.active)
    (launch := c.launch) (pc := pc) (cond := cond) (fs := fs) (uregs := c.uregs) (priv := c.priv) hfree
  have hin : fileIn (leaveActive s s.sched.arg.a c.active) s.sched.arg.a pc cond fs = some s1 := by
    rw [fileIn, State.cohort, hleft]
    exact hs1
  have hcoh : s1.cohort s.sched.arg.a = { c with active := [] } := by rw [State.cohort, hco, hleft]; rfl
  have hnext : nextGroup s1 s.sched.arg.a = settleGroup s1 s.sched.arg.a := by rw [settleGroup, hcoh]; rfl
  obtain ⟨_, hcur, _, _, hrest⟩ := settleGroup_eq s1 s.sched.arg.a
  refine ⟨settleGroup s1 s.sched.arg.a, n, b, hnext ▸ waitAgeFiling_eq hc hf hage hstop hcloak hbins hin,
    sameMemory_of_eq (by rw [hrest]; exact hmem) fun u => ?_, ?_, hbl, hbp, hbc, hbf, fun x hx => ?_,
    fun hg => settleGroup_of_empty (by rw [hcoh]) (by rw [hcoh]; exact hg)⟩
  · obtain ⟨_, hu⟩ := hcur u
    rw [hu, hcore]
    split
    · next e => subst e; rfl
    · rfl
  · obtain ⟨_, hu⟩ := hcur c.unit
    rw [hu, hcore, if_pos rfl]
    simp
  · rw [hrest]
    exact hplace x ((filingOf_threads hf).1 ▸ hx) (hpres x hx)

end Filing

end Sys2Proof.Machine

namespace Sys2Proof.Proofs

open Sys2Proof.Machine

/-- Settles O52: each event through the lemma for it. -/
theorem cohortEvents : Obligations.CohortEvents := by
  unfold Obligations.CohortEvents
  refine ⟨?_, ?_, unpublished_iff, ?_, ?_, ?_, ?_, fun s u f => ⟨?_, fun n k w => ?_⟩, ?_⟩
  · intro s s1 slot id h may cur
    obtain ⟨c, hc, h⟩ := select_steps h
    refine ⟨c, mem_tries.1 hc, ?_⟩
    rcases h with ⟨hcur, rfl⟩ | ⟨hno, hcap, rfl, hle⟩ | ⟨hno, hcap, hle, hclear⟩
    · refine ⟨fun _ => ⟨hcur, rfl⟩, fun hn => absurd ⟨_, mem_tries.1 hc, hcur⟩ hn, fun hall => ?_⟩
      have := hall _ (mem_tries.1 hc)
      rw [hcur.2.2] at this
      cases this
    · refine ⟨fun ⟨x, hx, hxc⟩ => absurd hxc (hno x (mem_tries.2 hx)), fun _ _ => ⟨rfl, hcap, fun x hx => hle x (mem_tries.2 hx)⟩,
        fun hall => ?_⟩
      have := hall _ (mem_tries.1 hc)
      rw [hcap] at this
      cases this
    · refine ⟨fun ⟨x, hx, hxc⟩ => absurd hxc (hno x (mem_tries.2 hx)), fun _ ⟨x, hx, hxc⟩ => ?_,
        fun _ => ⟨fun x hx => hle x (mem_tries.2 hx), hclear⟩⟩
      rw [hcap x (mem_tries.2 hx)] at hxc
      cases hxc
  · intro s c id hc
    exact ⟨issueCap_marks s hc, issueCap_passes s hc⟩
  · intro s c n k w tr ths id hc hw
    exact ⟨passbackPublished_ends s hc hw, passbackPublished_waits s hc hw⟩
  · intro s f
    obtain ⟨t, ht, hmem, hco, hth⟩ := variableLatencyResult_settles s
    refine ⟨t, ht, hmem, hco, fun x => ⟨hth x, fun p n hw hp htgt hrel _ => ?_⟩⟩
    rw [hth x]
    exact settle_single hw hp htgt hrel
  · intro s b u n hb
    exact binAging_marks s hb
  · intro s u p stamp
    refine ⟨fun h => cohortFormation_idle s (.inl h), fun ctx hctx => ⟨fun i l pc hw => cohortFormation_launch s hctx hw,
      fun hw h => cohortFormation_idle s (.inr ⟨hw, .inl h⟩), fun hw _ h => cohortFormation_idle s (.inr ⟨hw, .inr h⟩), ?_⟩⟩
    intro n b hw hr hb d
    obtain ⟨t, id, ht, h⟩ := formFrom_draws s (u := u) (p := p) (ctx := ctx) (n := n) (b := b)
    exact ⟨t, id, by rw [cohortFormation_bin s hctx hw hr hb, ← ht], h⟩
  · simp [condHolds, barrierPassed]
  · simp [condHolds]
  · intro s c pc cond fs id hc hf
    obtain ⟨hth, htime⟩ := filingOf_threads hf
    exact ⟨hth, htime, fun late wait ths hw => filingOf_barrier hf hw, fun any m pd d ths tr hw => filingOf_tag hf hw,
      waitAgeFiling_idle hc hf, waitAgeFiling_files hc hf⟩

end Sys2Proof.Proofs

/-! PROOFS. The results of VOTE, REDO and SCANO (R119, R120, R342, R343): the tree of blocks of lanes, its operations, the scan. -/

namespace Sys2Proof.Machine

section LaneTree
variable {f g : Nat → Nat → Nat} {P : Nat → Prop} {leaf : Nat → Nat}

/-- The combination of the `2 ^ lev` lanes of block `k`, lower lanes on the left (R119). -/
def laneBlock (f : Nat → Nat → Nat) (leaf : Nat → Nat) (lev : Nat) : Nat → Nat :=
  Nat.repeat (fun b k => f (b (2 * k)) (b (2 * k + 1))) lev leaf

theorem laneBlock_zero (k : Nat) : laneBlock f leaf 0 k = leaf k := rfl

theorem laneBlock_succ (lev k : Nat) :
    laneBlock f leaf (lev + 1) k = f (laneBlock f leaf lev (2 * k)) (laneBlock f leaf lev (2 * k + 1)) := rfl

/-- The blocks of the paired leaves are the blocks of one level further up. -/
theorem laneBlock_pairs (lev : Nat) :
    laneBlock f (fun k => f (leaf (2 * k)) (leaf (2 * k + 1))) lev = laneBlock f leaf (lev + 1) := by
  induction lev with
  | zero => rfl
  | succ lev ih => funext k; rw [laneBlock_succ, ih]; rfl

/-- Two operations agree on the values of a set, and keep them there. -/
structure AgreeOn (P : Nat → Prop) (f g : Nat → Nat → Nat) : Prop where
  eq : ∀ {a b}, P a → P b → f a b = g a b
  keeps : ∀ {a b}, P a → P b → P (g a b)

theorem AgreeOn.laneBlock (h : AgreeOn P f g) (hl : ∀ k, P (leaf k)) (lev k : Nat) : P (laneBlock g leaf lev k) := by
  induction lev generalizing k with
  | zero => exact hl k
  | succ lev ih => exact h.keeps (ih _) (ih _)

theorem pairUp_map_range (m : Nat) (leaf : Nat → Nat) :
    pairUp f ((List.range (2 * m)).map leaf) = (List.range m).map fun k => f (leaf (2 * k)) (leaf (2 * k + 1)) := by
  induction m generalizing leaf with
  | zero => rfl
  | succ m ih =>
    have h := ih fun k => leaf (k + 2)
    rw [show 2 * (m + 1) = 2 * m + 1 + 1 by omega, List.range_succ_eq_map, List.range_succ_eq_map, List.range_succ_eq_map]
    simp only [List.map_cons, List.map_map, pairUp]
    exact congrArg _ h

/-- The levels of the tree hold the blocks (R119). -/
theorem redoTree_level (h : AgreeOn P f g) {n lev : Nat} (hl : ∀ k, P (leaf k)) (hlev : lev ≤ n) :
    (redoTree f ((List.range (2 ^ n)).map leaf) n).getD lev [] = (List.range (2 ^ (n - lev))).map (laneBlock g leaf lev) := by
  induction n generalizing leaf lev with
  | zero =>
    obtain rfl : lev = 0 := by omega
    rfl
  | succ n ih =>
    cases lev with
    | zero => rfl
    | succ lev =>
      have hp : pairUp f ((List.range (2 ^ (n + 1))).map leaf) =
          (List.range (2 ^ n)).map fun k => g (leaf (2 * k)) (leaf (2 * k + 1)) := by
        rw [Nat.pow_succ', pairUp_map_range]
        exact List.map_congr_left fun k _ => h.eq (hl _) (hl _)
      rw [redoTree, List.getD_cons_succ, hp, ih (fun k => h.keeps (hl _) (hl _)) (by omega), laneBlock_pairs,
        Nat.add_sub_add_right]

theorem foldl_reverse_range_succ {σ : Type} (step : σ → Nat → σ) (acc : σ) (n : Nat) :
    (List.range (n + 1)).reverse.foldl step acc = (List.range n).reverse.foldl step (step acc n) := by
  rw [List.range_succ, List.reverse_append, List.reverse_singleton, List.singleton_append, List.foldl_cons]

/-- One step of a scan (R120): at a level of which the lanes up to `j1 - 1` hold a last odd block, that block joins from the
right. -/
def scanStep (f : Nat → Nat → Nat) (block : Nat → Nat → Nat) (j1 : Nat) (acc : Option Nat) (lev : Nat) : Option Nat :=
  if j1.testBit lev then
    some (acc.elim (block lev (j1 / 2 ^ lev - 1)) (f · (block lev (j1 / 2 ^ lev - 1))))
  else acc

theorem scanStep_set {block : Nat → Nat → Nat} {j1 lev : Nat} (acc : Option Nat) (h : j1.testBit lev = true) :
    scanStep f block j1 acc lev = some (acc.elim (block lev (j1 / 2 ^ lev - 1)) (f · (block lev (j1 / 2 ^ lev - 1)))) :=
  if_pos h

theorem scanStep_clear {block : Nat → Nat → Nat} {j1 lev : Nat} (acc : Option Nat) (h : j1.testBit lev = false) :
    scanStep f block j1 acc lev = acc :=
  if_neg (by simp [h])

/-- The scan from a level down takes its steps over the levels, falling, on the blocks that the tree holds. -/
theorem scanFrom_eq_foldl (h : AgreeOn P f g) {tree : List (List Nat)} {block : Nat → Nat → Nat} {j1 : Nat} (n : Nat)
    (hb : ∀ lev k, P (block lev k))
    (ht : ∀ lev, lev < n → j1.testBit lev = true → (tree.getD lev []).getD (j1 / 2 ^ lev - 1) 0 = block lev (j1 / 2 ^ lev - 1))
    (acc : Option Nat) (ha : ∀ a ∈ acc, P a) :
    scanFrom f tree j1 acc n = (List.range n).reverse.foldl (scanStep g block j1) acc := by
  induction n generalizing acc with
  | zero => rfl
  | succ n ih =>
    rw [foldl_reverse_range_succ]
    have hix : (j1 / 2 ^ n * 2 ^ n - 2 ^ n) / 2 ^ n = j1 / 2 ^ n - 1 := by
      rw [← Nat.sub_one_mul, Nat.mul_div_cancel _ (Nat.two_pow_pos n)]
    unfold scanFrom
    simp only [hix]
    rw [← ih (fun lev hl => ht lev (by omega))]
    · cases hbit : j1.testBit n with
      | false => rw [if_neg (by simp), scanStep_clear _ hbit]
      | true =>
        rw [if_pos rfl, scanStep_set _ hbit, ht n (by omega) hbit]
        cases acc with
        | none => rfl
        | some a => rw [Option.elim_some, ← h.eq (ha a rfl) (hb _ _)]
    · cases hbit : j1.testBit n with
      | false => rw [scanStep_clear _ hbit]; exact ha
      | true =>
        rw [scanStep_set _ hbit]
        rintro _ ⟨⟩
        cases acc with
        | none => exact hb _ _
        | some a => exact h.keeps (ha a rfl) (hb _ _)

/-- Some level takes part in the scan of a lane. -/
theorem isSome_foldl_scanStep {block : Nat → Nat → Nat} {j1 : Nat} (n : Nat) (acc : Option Nat) :
    (acc.isSome ∨ j1 % 2 ^ n ≠ 0) → ((List.range n).reverse.foldl (scanStep f block j1) acc).isSome := by
  induction n generalizing acc with
  | zero => intro h; simpa [Nat.mod_one] using h
  | succ n ih =>
    intro h
    rw [foldl_reverse_range_succ]
    apply ih
    cases hbit : j1.testBit n with
    | true => rw [scanStep_set _ hbit]; exact .inl rfl
    | false =>
      rw [scanStep_clear _ hbit]
      rwa [Nat.mod_pow_succ, ← Nat.toNat_testBit, hbit, Bool.toNat_false, Nat.mul_zero, Nat.add_zero] at h

/-- The lanes below `m` combined in turn. -/
def laneFold (f : Nat → Nat → Nat) (leaf : Nat → Nat) (unit m : Nat) : Nat :=
  (List.range m).foldl (fun a k => f a (leaf k)) unit

variable {unit : Nat}

theorem mul_two_pow_succ (k lev : Nat) : k * 2 ^ (lev + 1) = 2 * k * 2 ^ lev := by
  rw [Nat.pow_succ', ← Nat.mul_assoc, Nat.mul_comm k 2]

/-- A block behind the lanes before it is the lanes up to its last one. -/
theorem laneFold_block (hassoc : ∀ a b c, g (g a b) c = g a (g b c)) (lev k : Nat) :
    g (laneFold g leaf unit (k * 2 ^ lev)) (laneBlock g leaf lev k) = laneFold g leaf unit ((k + 1) * 2 ^ lev) := by
  induction lev generalizing k with
  | zero => simp [laneFold, laneBlock_zero, List.range_succ]
  | succ lev ih =>
    have hend : (k + 1) * 2 ^ (lev + 1) = (2 * k + 1 + 1) * 2 ^ lev := mul_two_pow_succ (k + 1) lev
    rw [laneBlock_succ, ← hassoc, mul_two_pow_succ, ih, ih, hend]

/-- The blocks of lanes from 0 on: what a scan holds between two levels. -/
def laneFold? (f : Nat → Nat → Nat) (leaf : Nat → Nat) (unit m : Nat) : Option Nat :=
  if m = 0 then none else some (laneFold f leaf unit m)

/-- A first block is the lanes up to its last one, where the unit is one on the left of it. -/
theorem laneBlock_first (hassoc : ∀ a b c, g (g a b) c = g a (g b c)) {lev : Nat}
    (hunit : g unit (laneBlock g leaf lev 0) = laneBlock g leaf lev 0) : laneBlock g leaf lev 0 = laneFold g leaf unit (2 ^ lev) := by
  have h := laneFold_block (leaf := leaf) (unit := unit) hassoc lev 0
  rwa [Nat.zero_mul, Nat.zero_add, Nat.one_mul, show laneFold g leaf unit 0 = unit from rfl, hunit] at h

theorem scanStep_laneFold (hassoc : ∀ a b c, g (g a b) c = g a (g b c)) {j1 lev : Nat}
    (hunit : g unit (laneBlock g leaf lev 0) = laneBlock g leaf lev 0) :
    scanStep g (laneBlock g leaf) j1 (laneFold? g leaf unit (j1 / 2 ^ (lev + 1) * 2 ^ (lev + 1))) lev =
      laneFold? g leaf unit (j1 / 2 ^ lev * 2 ^ lev) := by
  have hq : j1 / 2 ^ lev = 2 * (j1 / 2 ^ (lev + 1)) + (j1.testBit lev).toNat := by
    rw [Nat.pow_succ, ← Nat.div_div_eq_div_mul, Nat.toNat_testBit]
    omega
  rw [mul_two_pow_succ]
  generalize j1 / 2 ^ (lev + 1) = q at hq
  cases hbit : j1.testBit lev with
  | false => rw [scanStep_clear _ hbit, hq, hbit]; rfl
  | true =>
    rw [scanStep_set _ hbit, hq, hbit, Bool.toNat_true, Nat.add_sub_cancel]
    have hne : (2 * q + 1) * 2 ^ lev ≠ 0 := Nat.mul_ne_zero (Nat.succ_ne_zero _) (Nat.ne_of_gt (Nat.two_pow_pos lev))
    rw [laneFold?, laneFold?, if_neg hne, ← laneFold_block hassoc]
    split
    · next h0 =>
      have hq0 := (Nat.mul_eq_zero.1 h0).resolve_right (Nat.ne_of_gt (Nat.two_pow_pos lev))
      obtain rfl : q = 0 := by omega
      rw [Nat.mul_zero, Nat.zero_mul]
      exact congrArg some hunit.symm
    · rfl

/-- Where the operation is associative, the scan of lanes 0 to `j1 - 1` is their combination in turn (R120). -/
theorem foldl_scanStep_eq (hassoc : ∀ a b c, g (g a b) c = g a (g b c)) {j1 : Nat}
    (hunit : ∀ lev, g unit (laneBlock g leaf lev 0) = laneBlock g leaf lev 0) (n : Nat) :
    (List.range n).reverse.foldl (scanStep g (laneBlock g leaf) j1) (laneFold? g leaf unit (j1 / 2 ^ n * 2 ^ n)) =
      laneFold? g leaf unit j1 := by
  induction n with
  | zero => simp
  | succ n ih =>
    rw [foldl_reverse_range_succ,
      scanStep_laneFold hassoc (hunit n), ih]

end LaneTree

section LaneOps

/-- The lesser word in an order of words, the left one where neither is. -/
def wordMin (lt : Word → Word → Bool) (a b : Nat) : Nat := if lt (BitVec.ofNat 32 b) (BitVec.ofNat 32 a) then b else a

/-- The greater word in an order of words, the left one where neither is. -/
def wordMax (lt : Word → Word → Bool) (a b : Nat) : Nat := if lt (BitVec.ofNat 32 a) (BitVec.ofNat 32 b) then b else a

/-- The operations of REDO and SCANO by number (R343). -/
def laneOp (n : Nat) : Nat → Nat → Nat :=
  [F32.add 0, F32.min, F32.max, fun a b => (a + b) % 2 ^ 32, wordMin BitVec.slt, wordMax BitVec.slt,
    wordMin BitVec.ult, wordMax BitVec.ult, Nat.land, Nat.lor, Nat.xor].getD n Nat.xor

/-- Their identities by number (R343). -/
def laneUnit (n : Nat) : Nat :=
  [0x80000000, 0x7F800000, 0xFF800000, 0, 0x7FFFFFFF, 0x80000000, 0xFFFFFFFF, 0, 0xFFFFFFFF, 0, 0].getD n 0

theorem redoId_eq (n : Nat) : redoId n = laneUnit n :=
  match n with
  | 0 | 1 | 2 | 3 | 4 | 5 | 6 | 7 | 8 | 9 | 10 | _ + 11 => rfl

theorem laneUnit_lt (n : Nat) : laneUnit n < 2 ^ 32 :=
  match n with
  | 0 | 1 | 2 | 3 | 4 | 5 | 6 | 7 | 8 | 9 | 10 => by decide
  | _ + 11 => show 0 < 2 ^ 32 by decide

theorem toSigned_eq_toInt (a : Nat) : toSigned 32 a = (BitVec.ofNat 32 a).toInt := by
  rw [toSigned, BitVec.toInt_eq_toNat_cond, BitVec.toNat_ofNat]
  split <;> split <;> omega

theorem slt_ofNat (a b : Nat) : (BitVec.ofNat 32 a).slt (BitVec.ofNat 32 b) = decide (toSigned 32 a < toSigned 32 b) := by
  rw [toSigned_eq_toInt, toSigned_eq_toInt]; rfl

theorem ult_ofNat {a b : Nat} (ha : a < 2 ^ 32) (hb : b < 2 ^ 32) :
    (BitVec.ofNat 32 a).ult (BitVec.ofNat 32 b) = decide (a < b) := by
  rw [BitVec.ult, BitVec.toNat_ofNat, BitVec.toNat_ofNat, Nat.mod_eq_of_lt ha, Nat.mod_eq_of_lt hb]

theorem wordMin_lt {lt : Word → Word → Bool} {a b : Nat} (ha : a < 2 ^ 32) (hb : b < 2 ^ 32) : wordMin lt a b < 2 ^ 32 := by
  unfold wordMin; split
  · exact hb
  · exact ha

theorem wordMax_lt {lt : Word → Word → Bool} {a b : Nat} (ha : a < 2 ^ 32) (hb : b < 2 ^ 32) : wordMax lt a b < 2 ^ 32 :=
  wordMin_lt (lt := fun x y => lt y x) ha hb

/-- The lesser word is associative in an order that goes by integers. -/
theorem wordMin_assoc {lt : Word → Word → Bool} (key : Word → Int) (h : ∀ x y, lt x y = decide (key x < key y)) (a b c : Nat) :
    wordMin lt (wordMin lt a b) c = wordMin lt a (wordMin lt b c) := by
  have hk (x y : Nat) : wordMin lt x y = if key (BitVec.ofNat 32 y) < key (BitVec.ofNat 32 x) then y else x := by
    simp [wordMin, h]
  rw [hk a b, hk b c, hk, hk]
  repeat' split
  all_goals omega

theorem wordMax_assoc {lt : Word → Word → Bool} (key : Word → Int) (h : ∀ x y, lt x y = decide (key x < key y)) (a b c : Nat) :
    wordMax lt (wordMax lt a b) c = wordMax lt a (wordMax lt b c) :=
  wordMin_assoc (lt := fun x y => lt y x) (fun x => -key x) (fun x y => by simp [h]) a b c

theorem laneOp_assoc {n : Nat} (h3 : 3 ≤ n) (a b c : Nat) : laneOp n (laneOp n a b) c = laneOp n a (laneOp n b c) :=
  match n, h3 with
  | 3, _ => show ((a + b) % 2 ^ 32 + c) % 2 ^ 32 = (a + (b + c) % 2 ^ 32) % 2 ^ 32 by omega
  | 4, _ => wordMin_assoc BitVec.toInt (fun _ _ => rfl) a b c
  | 5, _ => wordMax_assoc BitVec.toInt (fun _ _ => rfl) a b c
  | 6, _ => wordMin_assoc (fun x => x.toNat) (fun _ _ => by simp [BitVec.ult]) a b c
  | 7, _ => wordMax_assoc (fun x => x.toNat) (fun _ _ => by simp [BitVec.ult]) a b c
  | 8, _ => Nat.and_assoc a b c
  | 9, _ => Nat.or_assoc a b c
  | 10, _ | _ + 11, _ => Nat.xor_assoc a b c

theorem laneOp_lt {n : Nat} (h3 : 3 ≤ n) {a b : Nat} (ha : a < 2 ^ 32) (hb : b < 2 ^ 32) : laneOp n a b < 2 ^ 32 :=
  match n, h3 with
  | 3, _ => Nat.mod_lt _ (Nat.two_pow_pos 32)
  | 4, _ | 6, _ => wordMin_lt ha hb
  | 5, _ | 7, _ => wordMax_lt ha hb
  | 8, _ => Nat.and_lt_two_pow a hb
  | 9, _ => Nat.or_lt_two_pow ha hb
  | 10, _ | _ + 11, _ => Nat.xor_lt_two_pow ha hb

/-- A unit that no word is lesser than but itself. -/
theorem wordMin_unit {lt : Word → Word → Bool} {u a : Nat} (h : a ≠ u → lt (BitVec.ofNat 32 a) (BitVec.ofNat 32 u) = true) :
    wordMin lt u a = a := by
  unfold wordMin
  split
  · rfl
  · next hn => exact Decidable.byContradiction fun hne => hn (h (Ne.symm hne))

theorem laneOp_unit {n : Nat} (h3 : 3 ≤ n) {a : Nat} (ha : a < 2 ^ 32) : laneOp n (laneUnit n) a = a :=
  match n, h3 with
  | 3, _ => show (0 + a) % 2 ^ 32 = a by omega
  | 4, _ => wordMin_unit (u := 0x7FFFFFFF) fun h => by
      rw [slt_ofNat, decide_eq_true_eq]; unfold toSigned; split <;> split <;> omega
  | 5, _ => wordMin_unit (lt := fun x y => BitVec.slt y x) (u := 0x80000000) fun h => by
      rw [slt_ofNat, decide_eq_true_eq]; unfold toSigned; split <;> split <;> omega
  | 6, _ => wordMin_unit (u := 0xFFFFFFFF) fun h => by rw [ult_ofNat ha (by decide), decide_eq_true_eq]; omega
  | 7, _ => wordMin_unit (lt := fun x y => BitVec.ult y x) (u := 0) fun h => by
      rw [ult_ofNat (by decide) ha, decide_eq_true_eq]; omega
  | 8, _ => (Nat.and_comm _ _).trans ((Nat.and_two_pow_sub_one_eq_mod a 32).trans (Nat.mod_eq_of_lt ha))
  | 9, _ => Nat.zero_or a
  | 10, _ | _ + 11, _ => Nat.zero_xor a

/-- The model's operation is the one of its number, on 32-bit words where that takes an order of words. -/
theorem redoOp_eq {n a b : Nat} (h : 3 ≤ n → a < 2 ^ 32 ∧ b < 2 ^ 32) : redoOp n a b = laneOp n a b :=
  match n, h with
  | 0, _ | 1, _ | 2, _ | 3, _ | 8, _ | 9, _ | 10, _ | _ + 11, _ => rfl
  | 4, _ => show (if toSigned 32 b < toSigned 32 a then b else a) = wordMin BitVec.slt a b by simp [wordMin, slt_ofNat]
  | 5, _ => show (if toSigned 32 a < toSigned 32 b then b else a) = wordMax BitVec.slt a b by simp [wordMax, slt_ofNat]
  | 6, h => show min a b = wordMin BitVec.ult a b by
      obtain ⟨ha, hb⟩ := h (by decide)
      simp only [wordMin, ult_ofNat hb ha, decide_eq_true_eq]
      split <;> omega
  | 7, h => show max a b = wordMax BitVec.ult a b by
      obtain ⟨ha, hb⟩ := h (by decide)
      simp only [wordMax, ult_ofNat ha hb, decide_eq_true_eq]
      split <;> omega

end LaneOps

section LaneResults

/-- The value of a home lane, or the unit where no executing thread has it (R119). -/
def laneLeaf (n : Nat) (ins : List (Nat × AluIn)) (k : Nat) : Nat :=
  ((ins.find? fun x => x.1 == k).map fun x => x.2.a % 2 ^ 32).getD (laneUnit n)

theorem laneLeaf_lt (n : Nat) (ins : List (Nat × AluIn)) (k : Nat) : laneLeaf n ins k < 2 ^ 32 := by
  unfold laneLeaf
  cases ins.find? fun x => x.1 == k with
  | none => exact laneUnit_lt n
  | some x => exact Nat.mod_lt _ (Nat.two_pow_pos 32)

theorem redoLeaves_eq (n : Nat) (ins : List (Nat × AluIn)) : redoLeaves n ins = (List.range (2 ^ 5)).map (laneLeaf n ins) :=
  congrArg (fun unit => (List.range 32).map fun k => ((ins.find? fun x => x.1 == k).map
    fun (x : Nat × AluIn) => x.2.a % 2 ^ 32).getD unit) (redoId_eq n)

/-- What the operations of a number keep: 32-bit words, from the integer operations on. -/
def LaneWord (n a : Nat) : Prop := 3 ≤ n → a < 2 ^ 32

theorem redoOp_agreeOn (n : Nat) : AgreeOn (LaneWord n) (redoOp n) (laneOp n) where
  eq ha hb := redoOp_eq fun h => ⟨ha h, hb h⟩
  keeps ha hb h := laneOp_lt h (ha h) (hb h)

variable (mod : BitVec 10) (ins : List (Nat × AluIn))

/-- The blocks of lanes that a word's tree holds (R119). -/
def wordBlock (n : Nat) (ins : List (Nat × AluIn)) : Nat → Nat → Nat := laneBlock (laneOp n) (laneLeaf n ins)

theorem wordBlock_laneWord (n lev k : Nat) : LaneWord n (wordBlock n ins lev k) :=
  (redoOp_agreeOn n).laneBlock (fun k _ => laneLeaf_lt n ins k) lev k

theorem redoTree_redoLeaves (n : Nat) {lev : Nat} (h : lev ≤ 5) :
    (redoTree (redoOp n) (redoLeaves n ins) 5).getD lev [] = (List.range (2 ^ (5 - lev))).map (wordBlock n ins lev) := by
  rw [redoLeaves_eq]
  exact redoTree_level (redoOp_agreeOn n) (fun k _ => laneLeaf_lt n ins k) h

/-- REDO is the block of all lanes (R119). -/
theorem redoRes_eq (j : Nat) : (redoRes mod ins j).d = wordBlock (fld mod 3 0) ins 5 0 := by
  unfold redoRes
  dsimp only
  rw [redoTree_redoLeaves ins _ (Nat.le_refl 5)]
  rfl

/-- The block that a level of the tree gives to the scan of a lane (R120). -/
theorem redoTree_block (n : Nat) {j lev : Nat} (hj : j < 32) (hlev : lev < 6) (hbit : (j + 1).testBit lev = true) :
    ((redoTree (redoOp n) (redoLeaves n ins) 5).getD lev []).getD ((j + 1) / 2 ^ lev - 1) 0 =
      wordBlock n ins lev ((j + 1) / 2 ^ lev - 1) := by
  have hpow : 2 ^ lev * 2 ^ (5 - lev) = 32 := by rw [← Nat.pow_add, Nat.add_sub_cancel' (by omega)]
  have hpos : 0 < (j + 1) / 2 ^ lev := Nat.div_pos (Nat.ge_two_pow_of_testBit hbit) (Nat.two_pow_pos lev)
  have hle : (j + 1) / 2 ^ lev ≤ 2 ^ (5 - lev) := Nat.div_le_of_le_mul (by omega)
  have hix : (j + 1) / 2 ^ lev - 1 < 2 ^ (5 - lev) := by omega
  rw [redoTree_redoLeaves ins n (by omega), List.getD_eq_getElem?_getD, List.getElem?_map, List.getElem?_range hix]
  rfl

theorem scanFrom_redoTree (n : Nat) {j : Nat} (hj : j < 32) :
    some ((scanFrom (redoOp n) (redoTree (redoOp n) (redoLeaves n ins) 5) (j + 1) none 6).getD 0) =
      (List.range 6).reverse.foldl (scanStep (laneOp n) (wordBlock n ins) (j + 1)) none := by
  have hsome := isSome_foldl_scanStep (f := laneOp n) (block := wordBlock n ins) (j1 := j + 1) 6 none (.inr (by omega))
  rw [scanFrom_eq_foldl (redoOp_agreeOn n) 6 (wordBlock_laneWord ins n) (fun _ => redoTree_block ins n hj) none nofun]
  obtain ⟨v, hv⟩ := Option.isSome_iff_exists.1 hsome
  rw [hv, Option.getD_some]

/-- SCANO joins the blocks of the lanes up to the thread's own, larger ones first (R120). -/
theorem scanoRes_eq {j : Nat} (hj : j < 32) :
    some (scanoRes mod ins j).d =
      (List.range 6).reverse.foldl (scanStep (laneOp (fld mod 3 0)) (wordBlock (fld mod 3 0) ins) (j + 1)) none :=
  scanFrom_redoTree ins (fld mod 3 0) hj

theorem laneOp_wordBlock {n : Nat} (h3 : 3 ≤ n) (lev : Nat) : laneOp n (laneUnit n) (wordBlock n ins lev 0) = wordBlock n ins lev 0 :=
  laneOp_unit h3 (wordBlock_laneWord ins n lev 0 h3)

/-- REDO of an integer operation combines all lanes in turn. -/
theorem redoRes_laneFold (j : Nat) (h3 : 3 ≤ fld mod 3 0) :
    (redoRes mod ins j).d = laneFold (laneOp (fld mod 3 0)) (laneLeaf (fld mod 3 0) ins) (laneUnit (fld mod 3 0)) 32 :=
  (redoRes_eq mod ins j).trans (laneBlock_first (laneOp_assoc h3) (laneOp_wordBlock ins h3 5))

/-- SCANO of an integer operation combines lanes 0 to the thread's own in turn. -/
theorem scanoRes_laneFold {j : Nat} (hj : j < 32) (h3 : 3 ≤ fld mod 3 0) :
    (scanoRes mod ins j).d = laneFold (laneOp (fld mod 3 0)) (laneLeaf (fld mod 3 0) ins) (laneUnit (fld mod 3 0)) (j + 1) := by
  have h := foldl_scanStep_eq (j1 := j + 1) (laneOp_assoc h3) (laneOp_wordBlock ins h3) 6
  rw [Nat.div_eq_of_lt (by omega), Nat.zero_mul] at h
  exact Option.some.inj ((scanoRes_eq mod ins hj).trans h)

/-- The thread counts for VOTE (R342). -/
def voteHolds (mod : BitVec 10) (i : AluIn) : Bool := i.th.readPred (fld mod 2 0) != bitOf mod 3

theorem voteRes_all (lane : Nat) (h : fld mod 5 4 = 0) :
    (voteRes mod ins lane).p = true ↔ ∀ x ∈ ins, voteHolds mod x.2 = true := by
  simp only [voteRes, h, beq_iff_eq, List.length_filter_eq_length_iff]
  rfl

theorem voteRes_any (lane : Nat) (h : fld mod 5 4 = 1 ∨ fld mod 5 4 = 2) :
    (voteRes mod ins lane).p = true ↔ ∃ x ∈ ins, voteHolds mod x.2 = true := by
  have hp : (voteRes mod ins lane).p = ((ins.filter fun x => voteHolds mod x.2).length != 0) := by
    rcases h with h | h <;> simp only [voteRes, h] <;> rfl
  rw [hp, bne_iff_ne, Nat.ne_zero_iff_zero_lt, List.length_filter_pos_iff]

theorem length_filter_eq_sum {α : Type} (p : α → Bool) (l : List α) :
    (l.filter p).length = (l.map fun x => if p x then 1 else 0).sum := by
  induction l with
  | nil => rfl
  | cons x r ih =>
    rw [List.map_cons, List.sum_cons, ← ih, List.filter_cons]
    split
    · rw [List.length_cons, Nat.add_comm]
    · rw [Nat.zero_add]

theorem voteRes_count (lane : Nat) (h : fld mod 5 4 = 2) :
    (voteRes mod ins lane).d = (ins.map fun x => if voteHolds mod x.2 then 1 else 0).sum := by
  have hd : (voteRes mod ins lane).d = (ins.filter fun x => voteHolds mod x.2).length := by
    simp only [voteRes, h]; rfl
  rw [hd, length_filter_eq_sum]

theorem voteRes_uniform (lane : Nat) (h : fld mod 5 4 = 3) :
    (voteRes mod ins lane).p = true ↔ ∀ x ∈ ins, ∀ y ∈ ins, x.2.a % 2 ^ 32 = y.2.a % 2 ^ 32 := by
  simp only [voteRes, h, List.all_eq_true, beq_iff_eq]
  cases ins with
  | nil => simp
  | cons z r => exact ⟨fun hz x hx y hy => (hz x hx).trans (hz y hy).symm, fun hu x hx => hu x hx z (List.mem_cons_self ..)⟩

end LaneResults

end Sys2Proof.Machine

/-! PROOFS. The words between lanes (R47, R119, R120, R341 to R344): what they leave outstanding, and when they wait. -/

namespace Sys2Proof.Machine

section Outstanding

/-- A list of outstanding writes has one of a target, with its write time and its value (R70, R256). -/
def HasWrite (ps : List Pend) (tgt : Target) (var : Bool) (due : Nat) (v : DWord) : Prop :=
  ∃ p ∈ ps, p.tgt = tgt ∧ p.var = var ∧ p.due = due ∧ p.val = v

variable {ps qs : List Pend} {tgt : Target} {var : Bool} {due : Nat} {v : DWord}

theorem HasWrite.mono (h : HasWrite ps tgt var due v) (hs : ∀ p ∈ ps, p ∈ qs) : HasWrite qs tgt var due v := by
  obtain ⟨p, hp, hw⟩ := h
  exact ⟨p, hs p hp, hw⟩

theorem HasWrite.left (h : HasWrite ps tgt var due v) : HasWrite (ps ++ qs) tgt var due v :=
  h.mono fun _ => List.mem_append_left _

theorem HasWrite.right (h : HasWrite qs tgt var due v) : HasWrite (ps ++ qs) tgt var due v :=
  h.mono fun _ => List.mem_append_right _

/-- Notes on outstanding writes leave what they write. -/
theorem HasWrite.map {g : Pend → Pend} (h : HasWrite ps tgt var due v)
    (hg : ∀ p, (g p).tgt = p.tgt ∧ (g p).var = p.var ∧ (g p).due = p.due ∧ (g p).val = p.val) :
    HasWrite (ps.map g) tgt var due v := by
  obtain ⟨p, hp, h1, h2, h3, h4⟩ := h
  obtain ⟨g1, g2, g3, g4⟩ := hg p
  exact ⟨g p, List.mem_map_of_mem hp, g1.trans h1, g2.trans h2, g3.trans h3, g4.trans h4⟩

theorem hasWrite_namePends {r : Ready} {w n words x k : Nat} (hk : k < words) :
    HasWrite (namePends r w var due n words x) (.name (n + k)) var due (BitVec.ofNat 64 ((x >>> (32 * k)) % 2 ^ 32)) :=
  mem_namePends hk

theorem hasWrite_predPends {w pd : Nat} {b : Bool} (h : pd < 7) :
    HasWrite (predPends w var due pd b) (.pred pd) var due (if b then 1 else 0) := by
  rw [predPends, if_pos h]
  exact ⟨_, List.mem_singleton_self _, rfl, rfl, rfl, rfl⟩

theorem HasWrite.timed (h : HasWrite ps tgt var due v) : HasWrite (timed ps) tgt var due v :=
  h.map fun _ => ⟨rfl, rfl, rfl, rfl⟩

theorem HasWrite.withPeers (h : HasWrite ps tgt var due v) (l : List Nat) :
    HasWrite (ps.map fun p => { p with peers := l }) tgt var due v :=
  h.map fun _ => ⟨rfl, rfl, rfl, rfl⟩

/-- A word that issues with a list of outstanding writes for each of its threads. -/
theorem commit_threadWrites {s s1 : State} {r : Ready} {a : Acc} (hgo : prep s a = .go r)
    (hs : ∃ sc, s1 = { s with sched := sc } ∧ sc.clk = s.sched.clk) (f : Nat → List Pend) :
    let t := commit s1 r a (r.ths.flatMap fun x => (f x).map fun p => (x, p))
    MovedOn s t r a ∧ OnlyRegisters s t r ∧ (Present s r.ths → ∀ x ∈ r.ths, ∀ p ∈ f x, p ∈ (t.thread x).writes) := by
  refine ⟨movedOn_commit a hs (prep_go_cohort hgo), onlyRegisters_commit a (fun x hx => flatMap_pends_mem hx) ?_,
    fun hp x hx p hpf => ?_⟩
  · obtain ⟨sc, h, _⟩ := hs
    exact ⟨sc, h⟩
  · obtain ⟨sc, rfl, _⟩ := hs
    exact mem_writes_flatMap (hp x hx) hx hpf

end Outstanding

section CrossWords

/-- A thread's result of a word that combines the operands of all executing threads: that for its home lane (R342, R343). -/
def crossRes (u : Alu) (f : List (Nat × AluIn) → Nat → Res) (s : State) (r : Ready) (x : Nat) : Res :=
  f (r.ths.map fun y => ((s.thread y).lane, u.ins s (s.cohort r.id) y)) (s.thread x).lane

/-- VOTE, REDO and SCANO issue with every thread's result outstanding (R119, R120, R342, R343). -/
theorem crossWord_runs {op : Nat} {u : Alu} {f : List (Nat × AluIn) → Nat → Res} {s : State} {r : Ready} (hu : u.uni = false)
    (hgo : prep s (u.full op) = .go r) (hp : Present s r.ths) :
    ∃ t, crossWord op u f s = .next t ∧ MovedOn s t r u.acc ∧ OnlyRegisters s t r ∧ ∀ x ∈ r.ths,
      (∀ k, k < u.dn → NameWrite t x (u.d + k) u.acc.lat.isNone (s.sched.clk + 1)
        (((crossRes u f s r x).d >>> (32 * k)) % 2 ^ 32)) ∧
      (u.pd < 7 → PredWrite t x u.pd u.acc.lat.isNone (s.sched.clk + 1) (crossRes u f s r x).p) := by
  obtain ⟨hmoved, honly, hmem⟩ := commit_threadWrites (s1 := s.newId.2) hgo ⟨_, rfl, rfl⟩ fun x =>
    (if u.uni then [] else
      namePends r s.newId.1 u.acc.lat.isNone (s.sched.clk + 1) u.d u.dn (crossRes u f s r x).d) ++
      predPends s.newId.1 u.acc.lat.isNone (s.sched.clk + 1) u.pd (crossRes u f s r x).p
  refine ⟨_, withPrep_ok hgo rfl, hmoved, honly, fun x hx => ⟨fun k hk => ?_, fun hpd => ?_⟩⟩
  · refine HasWrite.mono (HasWrite.left ?_) (hmem hp x hx)
    rw [hu]
    exact hasWrite_namePends hk
  · exact (hasWrite_predPends hpd).right.mono (hmem hp x hx)

/-- V2S puts the acting thread's value in a uniform register (R344). -/
theorem execV2s_runs {x : AluForm} {s : State} {r : Ready} :
    let u := Alu.ofForm 0x85 x
    let a : Acc := { u.acc with wNames := [], wUregs := [u.d], once := true, lat := none }
    prep s a = .go r →
    ∃ t, execV2s x s = .next t ∧ MovedOn s t r a ∧ OnlyRegisters s t r ∧
      (r.ths = [] → (t.cohort r.id).writes = (s.cohort r.id).writes) ∧
      ∀ y, actingThread s r.ths = some y → UregWrite t r.id u.d true (s.sched.clk + 1) (srcVal s (s.cohort r.id) y u.a) := by
  intro u a hgo
  have hc := prep_go_cohort hgo
  have hrun := withPrep_go hgo fun r =>
    match actingThread s r.ths with
    | none => .ok (plainIssue s r a)
    | some t => .ok (addUwrite (plainIssue s.newId.2 r a) r.id
        { id := s.newId.1, tgt := .ureg u.d, var := true, due := s.sched.clk + 1, val := srcVal s (s.cohort r.id) t u.a })
  cases hact : actingThread s r.ths with
  | none =>
    rw [hact] at hrun
    exact ⟨plainIssue s r a, hrun, movedOn_commit a ⟨_, rfl, rfl⟩ hc, onlyRegisters_commit a (ws := []) (by simp) ⟨_, rfl⟩,
      fun _ => writes_commit a ⟨_, rfl⟩ hc, fun _ h => nomatch h⟩
  | some y =>
    rw [hact] at hrun
    have ht : (plainIssue s.newId.2 r a).cohort? r.id = some ((plainIssue s.newId.2 r a).cohort r.id) :=
      cohort?_commit s.newId.2 r a [] hc
    have hmoved : MovedOn s (plainIssue s.newId.2 r a) r a := movedOn_commit a ⟨_, rfl, rfl⟩ hc
    have honly : OnlyRegisters s (plainIssue s.newId.2 r a) r := onlyRegisters_commit a (ws := []) (by simp) ⟨_, rfl⟩
    refine ⟨_, hrun, movedOn_addUwrite hmoved ht _, onlyRegisters_modCohort honly _, fun hnil => ?_, ?_⟩
    · rw [hnil] at hact
      cases hact
    · rintro _ ⟨⟩
      exact uregWrite_addUwrite ht rfl

end CrossWords

section SeatWords
variable {seatOf : State → Cohort → Nat → Int}

/-- A seat inside the team (R47). -/
def InTeam (s : State) (y : Nat) (k : Int) : Prop := 0 ≤ k ∧ k < ((s.launchOf y).teamSize : Int)

theorem seatOfThread_inTeam {s : State} {c : Cohort} {y : Nat} (h : InTeam s y (seatOf s c y)) :
    seatOfThread seatOf s c y = seatRead s c y (seatOf s c y).toNat :=
  if_neg (by obtain ⟨h0, h1⟩ := h; omega)

theorem seatOfThread_absent {s : State} {c : Cohort} {y : Nat}
    (h : ¬InTeam s y (seatOf s c y) ∨ seatRead s c y (seatOf s c y).toNat = .absent) : seatOfThread seatOf s c y = .absent := by
  by_cases hin : InTeam s y (seatOf s c y)
  · rw [seatOfThread_inTeam hin]
    exact h.resolve_left (not_not_intro hin)
  · exact if_pos (by unfold InTeam at hin; omega)

theorem seatOfThread_fast {s : State} {c : Cohort} {y z : Nat} :
    seatOfThread seatOf s c y = .fast z ↔ InTeam s y (seatOf s c y) ∧ seatRead s c y (seatOf s c y).toNat = .fast z := by
  by_cases hin : InTeam s y (seatOf s c y)
  · rw [seatOfThread_inTeam hin]
    exact ⟨fun h => ⟨hin, h⟩, And.right⟩
  · rw [seatOfThread_absent (.inl hin)]
    exact ⟨nofun, fun h => absurd h.1 hin⟩

theorem any_backNames {n words : Nat} {p : Nat → Bool} : (backNames n words).any p = true ↔ ∃ j, j < words ∧ p (n + j) = true := by
  rw [backNames, List.any_map, List.any_eq_true]
  exact exists_congr fun _ => and_congr_left fun _ => List.mem_range

theorem waitsOn_iff {ws : List Pend} {tgt : Target} :
    waitsOn ws tgt = true ↔ ∃ p ∈ ws, p.tgt = tgt ∧ p.var = true ∧ p.release = false := by
  simp [waitsOn, and_assoc]

/-- A thread of a seat word waits: it reads, on the fast path, a name with a scoreboarded write to come, or one that an earlier
seat read has not written for every thread (R256, R341). -/
def SeatAwaits (seatOf : State → Cohort → Nat → Int) (s : State) (c : Cohort) (n words y : Nat) : Prop :=
  ∃ z, InTeam s y (seatOf s c y) ∧ seatRead s c y (seatOf s c y).toNat = .fast z ∧ ∃ j, j < words ∧
    ((∃ p ∈ (s.thread z).writes, p.tgt = .name (n + j) ∧ p.var = true ∧ p.release = false) ∨ seatPending s c (n + j) = true)

theorem seatWaits_iff {s : State} {a : Acc} {r : Ready} (hgo : prep s a = .go r) {n words : Nat} :
    seatWaits s a (backNames n words) seatOf = true ↔ ∃ y ∈ r.ths, SeatAwaits seatOf s (s.cohort r.id) n words y := by
  obtain ⟨c, hcur, hc, hths⟩ := prep_go hgo
  have hcc : s.cohort r.id = c := by rw [State.cohort, hc]; rfl
  simp only [seatWaits, hcur, Option.bind_some, hc, ← hths, hcc, List.any_eq_true]
  refine exists_congr fun y => and_congr_right fun _ => ?_
  have hread (z : Nat) := seatOfThread_fast (seatOf := seatOf) (s := s) (c := c) (y := y) (z := z)
  simp only [SeatAwaits, ← waitsOn_iff]
  simp only [← and_assoc, ← hread]
  cases seatOfThread seatOf s c y with
  | absent => exact ⟨nofun, fun ⟨_, hz, _⟩ => nomatch hz⟩
  | slow _ _ => exact ⟨nofun, fun ⟨_, hz, _⟩ => nomatch hz⟩
  | fast z =>
    dsimp only
    simp only [any_backNames, Bool.or_eq_true]
    refine ⟨fun h => ⟨z, rfl, h⟩, fun ⟨_, hz, h⟩ => ?_⟩
    cases hz
    exact h

/-- What a seat word writes for a thread, by what the thread reads (R47, R341). -/
def seatPends (s : State) (r : Ready) (u : Alu) (n words : Nat) (o : SeatRead) : List Pend :=
  let v (src : Nat) : Nat := ((s.thread src).readPair n).toNat
  let clk := s.sched.clk
  let w := s.newId.1
  (match o with
    | .absent => timed (namePends r w true (clk + 8) u.d words 0 ++ predPends w true (clk + 8) u.pd false)
    | .fast src => timed (namePends r w true (clk + 8) u.d words (v src) ++ predPends w true (clk + 8) u.pd true)
    | .slow src lat =>
      ((namePends r w true (clk + lat) u.d words (v src)).zip (List.range words)).map
        (fun ((p : Pend), (k : Nat)) => { p with seat := some (src, n + k) }) ++ predPends w true (clk + lat) u.pd true).map
    fun (p : Pend) => { p with peers := r.ths }

/-- A seat word waits, or issues with what each of its threads reads outstanding (R341). -/
theorem seatWord_runs {op : Nat} {u : Alu} {n : Nat} {wide : Bool} {s : State} {r : Ready} (hgo : prep s (u.full op) = .go r)
    (hp : Present s r.ths) :
    let c := s.cohort r.id
    let words := if wide then 2 else 1
    let waits := ∃ y ∈ r.ths, SeatAwaits seatOf s c n words y
    (waits → seatWord op u n wide seatOf s = .next (stallAt s r.id .scoreboard)) ∧
    (¬waits → ∃ t, seatWord op u n wide seatOf s = .next t ∧ MovedOn s t r (u.full op) ∧ OnlyRegisters s t r ∧
      ∀ y ∈ r.ths, ∀ p ∈ seatPends s r u n words (seatOfThread seatOf s c y), p ∈ (t.thread y).writes) := by
  intro c words
  rw [← seatWaits_iff hgo]
  refine ⟨fun hw => ?_, fun hw => ?_⟩
  · obtain ⟨_, hcur, _⟩ := prep_go hgo
    simp only [seatWord, hgo, Prep.unless]
    rw [if_pos hw, Prep.run, hcur]
    rfl
  · obtain ⟨hmoved, honly, hmem⟩ := commit_threadWrites (s1 := s.newId.2) hgo ⟨_, rfl, rfl⟩ fun x =>
      seatPends s r u n words (seatOfThread seatOf s c x)
    refine ⟨_, ?_, hmoved, honly, hmem hp⟩
    simp only [seatWord, hgo, Prep.unless]
    rw [if_neg hw, Prep.run]
    simp only [Eff.out, seatPends, List.map_map]
    rfl

/-- The seat of XSHF by its mode (R341). -/
def xshfSeat (u : Alu) (s : State) (_ : Cohort) (t : Nat) : Int :=
  if fld u.mod 1 0 = 0 then (((s.thread t).seat ^^^ u.imm.toNat : Nat) : Int)
  else if fld u.mod 1 0 = 1 then ((s.thread t).seat : Int) - u.imm.toNat
  else ((s.thread t).seat : Int) + u.imm.toNat

theorem execXshf_eq (x : AluForm) (s : State) :
    let u := Alu.ofForm 0x81 x
    execXshf x s = seatWord 0x81 { u with acc := { u.acc with names := [] } } (u.a.names.headD 0) (bitOf u.mod 2) (xshfSeat u) s := by
  unfold execXshf
  refine congrArg (fun seat => seatWord _ _ _ _ seat s) ?_
  funext s _ t
  unfold xshfSeat
  generalize fld (Alu.ofForm 0x81 x).mod 1 0 = m
  match m with
  | 0 | 1 | _ + 2 => rfl

variable {s : State} {r : Ready} {u : Alu} {n words : Nat}

theorem hasWrite_seatPends_absent :
    (∀ j, j < words → HasWrite (seatPends s r u n words .absent) (.name (u.d + j)) true (s.sched.clk + 8) 0) ∧
    (u.pd < 7 → HasWrite (seatPends s r u n words .absent) (.pred u.pd) true (s.sched.clk + 8) 0) := by
  refine ⟨fun j hj => HasWrite.withPeers (HasWrite.timed (HasWrite.left ?_)) _,
    fun hpd => HasWrite.withPeers (HasWrite.timed (hasWrite_predPends hpd).right) _⟩
  have h := hasWrite_namePends (r := r) (w := s.newId.1) (var := true) (due := s.sched.clk + 8) (n := u.d) (x := 0) hj
  rwa [Nat.zero_shiftRight, Nat.zero_mod] at h

theorem hasWrite_seatPends_fast (z : Nat) :
    (∀ j, j < words → HasWrite (seatPends s r u n words (.fast z)) (.name (u.d + j)) true (s.sched.clk + 8)
      (BitVec.ofNat 64 ((((s.thread z).readPair n).toNat >>> (32 * j)) % 2 ^ 32))) ∧
    (u.pd < 7 → HasWrite (seatPends s r u n words (.fast z)) (.pred u.pd) true (s.sched.clk + 8) 1) :=
  ⟨fun _ hj => ((hasWrite_namePends hj).left.timed).withPeers _, fun hpd => ((hasWrite_predPends hpd).right.timed).withPeers _⟩

theorem seatPends_slow (z lat : Nat) :
    (∀ j, j < words → ∃ p ∈ seatPends s r u n words (.slow z lat), p.tgt = .name (u.d + j) ∧ p.var = true ∧
      p.due = s.sched.clk + lat ∧ p.seat = some (z, n + j)) ∧
    (u.pd < 7 → HasWrite (seatPends s r u n words (.slow z lat)) (.pred u.pd) true (s.sched.clk + lat) 1) := by
  refine ⟨fun j hj => ?_, fun hpd => (hasWrite_predPends hpd).right.withPeers _⟩
  have hz : ∃ p : Pend, ((namePends r s.newId.1 true (s.sched.clk + lat) u.d words ((s.thread z).readPair n).toNat).zip
      (List.range words))[j]? = some (p, j) ∧ p.tgt = .name (u.d + j) ∧ p.var = true ∧ p.due = s.sched.clk + lat := by
    simp [namePends, hj]
  obtain ⟨p, hz, htgt, hvar, hdue⟩ := hz
  exact ⟨_, List.mem_map_of_mem (List.mem_append_left _ (List.mem_map_of_mem (List.mem_of_getElem? hz))), htgt, hvar, hdue, rfl⟩

/-- What stands outstanding for a thread of a seat word, by the seat that it reads (R47, R341). -/
theorem seatPends_results {c : Cohort} {y : Nat} {t : State}
    (hmem : ∀ p ∈ seatPends s r u n words (seatOfThread seatOf s c y), p ∈ (t.thread y).writes) :
    let k := seatOf s c y
    (¬InTeam s y k ∨ seatRead s c y k.toNat = .absent →
      (∀ j, j < words → NameWrite t y (u.d + j) true (s.sched.clk + 8) 0) ∧
      (u.pd < 7 → PredWrite t y u.pd true (s.sched.clk + 8) false)) ∧
    (∀ z, InTeam s y k → seatRead s c y k.toNat = .fast z →
      (∀ j, j < words → NameWrite t y (u.d + j) true (s.sched.clk + 8) ((((s.thread z).readPair n).toNat >>> (32 * j)) % 2 ^ 32)) ∧
      (u.pd < 7 → PredWrite t y u.pd true (s.sched.clk + 8) true)) ∧
    (∀ z lat, InTeam s y k → seatRead s c y k.toNat = .slow z lat →
      (∀ j, j < words → ∃ p ∈ (t.thread y).writes, p.tgt = .name (u.d + j) ∧ p.var = true ∧ p.due = s.sched.clk + lat ∧
        p.seat = some (z, n + j)) ∧
      (u.pd < 7 → PredWrite t y u.pd true (s.sched.clk + lat) true)) := by
  refine ⟨fun h => ?_, fun z hin hread => ?_, fun z lat hin hread => ?_⟩
  · rw [seatOfThread_absent h] at hmem
    obtain ⟨hname, hpred⟩ := hasWrite_seatPends_absent (s := s) (r := r) (u := u) (n := n) (words := words)
    exact ⟨fun j hj => (hname j hj).mono hmem, fun hpd => (hpred hpd).mono hmem⟩
  · rw [seatOfThread_inTeam hin, hread] at hmem
    obtain ⟨hname, hpred⟩ := hasWrite_seatPends_fast (s := s) (r := r) (u := u) (n := n) (words := words) z
    exact ⟨fun j hj => (hname j hj).mono hmem, fun hpd => (hpred hpd).mono hmem⟩
  · rw [seatOfThread_inTeam hin, hread] at hmem
    obtain ⟨hname, hpred⟩ := seatPends_slow (s := s) (r := r) (u := u) (n := n) (words := words) z lat
    refine ⟨fun j hj => ?_, fun hpd => (hpred hpd).mono hmem⟩
    obtain ⟨p, hp, h⟩ := hname j hj
    exact ⟨p, hmem p hp, h⟩

end SeatWords

end Sys2Proof.Machine

namespace Sys2Proof.Proofs

open Sys2Proof.Machine

/-- Settles O11: each word through the lemma for it, and the results over the tree of blocks of lanes. -/
theorem crossLaneWords : Obligations.CrossLaneWords := by
  unfold Obligations.CrossLaneWords
  refine ⟨?_, ?_, ?_, ?_, ?_⟩
  · intro i op u f s r hform hu hgo hp
    have hexec : exec i s = crossWord op u f s := by
      rcases hform with ⟨x, ⟨rfl, rfl, rfl, rfl⟩ | ⟨rfl, rfl, rfl, rfl⟩ | ⟨rfl, rfl, rfl, rfl⟩⟩ <;> rfl
    obtain ⟨t, ht, h⟩ := crossWord_runs (f := f) hu hgo hp
    exact ⟨t, hexec.trans ht, h⟩
  · intro i x op wide seat s r u n a hform words hgo hp waits
    have hexec : exec i s =
        seatWord op { u with acc := { u.acc with names := if op = 0x80 then u.b.names else [] } } n wide seat s := by
      rcases hform with ⟨rfl, rfl, rfl, rfl⟩ | ⟨rfl, rfl, rfl, rfl⟩
      · rfl
      · exact execXshf_eq x s
    have hwaits : waits ↔ ∃ y ∈ r.ths, SeatAwaits seat s (s.cohort r.id) n words y := by
      simp only [waits, SeatAwaits, InTeam, and_assoc]
    obtain ⟨hstall, hissue⟩ := seatWord_runs (seatOf := seat) (n := n) (wide := wide) hgo hp
    refine ⟨fun hw => hexec.trans (hstall (hwaits.1 hw)), fun hw => ?_⟩
    obtain ⟨t, ht, hmoved, honly, hmem⟩ := hissue (mt hwaits.2 hw)
    exact ⟨t, hexec.trans ht, hmoved, honly, fun y hy => seatPends_results (hmem y hy)⟩
  · intro x s r u a hgo
    exact execV2s_runs hgo
  · intro mod ins lane r holds
    exact ⟨voteRes_all mod ins lane, fun h => voteRes_any mod ins lane (.inl h),
      fun h => ⟨voteRes_any mod ins lane (.inr h), voteRes_count mod ins lane h⟩, voteRes_uniform mod ins lane⟩
  · intro mod ins j hj n min max op unit leaf node redo scan
    have hstep : scanStep op node (j + 1) = fun acc lev =>
        if (j + 1).testBit lev then
          some (match acc with
            | none => node lev ((j + 1) / 2 ^ lev - 1)
            | some a => op a (node lev ((j + 1) / 2 ^ lev - 1)))
        else acc := by
      funext acc lev
      cases acc <;> rfl
    refine ⟨redoRes_eq mod ins j, ?_, ?_,
      (scanoRes_eq mod ins hj).trans (congrArg (fun step => [5, 4, 3, 2, 1, 0].foldl step none) hstep), fun h3 _ => ⟨redoRes_laneFold mod ins j h3, scanoRes_laneFold mod ins hj h3⟩⟩
    · rintro rfl
      exact Option.some.inj (scanoRes_eq mod ins hj)
    · rintro rfl
      exact (Option.some.inj (scanoRes_eq mod ins hj)).trans (redoRes_eq mod ins 31).symm

end Sys2Proof.Proofs
